-- ==== Sys2Proof/Word.lean ====
section
/-! DEFINITION. The word types of the QBT-4624 and the sparse table used for every numbered unit. -/

namespace Sys2Proof

/-- A scalar register, an address, a word of memory (R17, R186). -/
abbrev Word := BitVec 64
/-- One byte of memory (R3). -/
abbrev Byte := BitVec 8
/-- A vector register (R17). -/
abbrev VWord := BitVec 512
/-- A register number of x0 to x31 or v0 to v31 (R17). -/
abbrev Reg := BitVec 5

/-- A table of numbered units. Keys rise strictly (`Tab.Sorted`); an absent key is a unit at its default.
Log entry 53. -/
abbrev Tab (α : Type) := List (Nat × α)

/-- The entry at key `k`, if listed. -/
def Tab.find {α : Type} (k : Nat) : Tab α → Option α
  | [] => none
  | (j, a) :: t => if j = k then some a else Tab.find k t

/-- The entry at key `k`, or the default. -/
def Tab.getD {α : Type} (d : α) (k : Nat) (t : Tab α) : α :=
  match Tab.find k t with
  | some a => a
  | none => d

/-- Writes the entry at key `k`, keeping the keys rising. -/
def Tab.put {α : Type} (k : Nat) (a : α) : Tab α → Tab α
  | [] => [(k, a)]
  | (j, b) :: t => if k < j then (k, a) :: (j, b) :: t
                   else if j = k then (k, a) :: t
                   else (j, b) :: Tab.put k a t

/-- Removes the entry at key `k`. -/
def Tab.del {α : Type} (k : Nat) : Tab α → Tab α
  | [] => []
  | (j, b) :: t => if j = k then Tab.del k t else (j, b) :: Tab.del k t

/-- Keys rise strictly. -/
def Tab.Sorted {α : Type} (t : Tab α) : Bool :=
  match t with
  | [] => true
  | [_] => true
  | (j, _) :: (k, b) :: r => decide (j < k) && Tab.Sorted ((k, b) :: r)

end Sys2Proof
end

