-- ==== Sys2Proof/Syntax.lean ====
section
/-! DEFINITION. Every operation and event of spec/opcode_table.json as one constructor of `Instr`, with the
operand forms they carry. Register numbers, immediates and fields stand as the encodings give them; an immediate
is held already extended to 64 bits, with its X-parcel's bits (R88). -/

namespace Sys2Proof

/-- The group size of a V-parcel's register operands (R91). -/
inductive VGrp where
  | g1 | g2 | g4
  deriving DecidableEq, Repr

/-- The fields of a V-parcel of the common layout (R90). -/
structure VArgs where
  s : Bool
  ty : BitVec 3
  mask : BitVec 3
  vs2 : Reg
  vs1 : Reg
  vd : Reg
  grp : VGrp
  deriving DecidableEq, Repr

/-- The fields of a conversion V-parcel (R93). -/
structure VCvt where
  dst : BitVec 4
  rnd : BitVec 3
  mask : BitVec 3
  src : BitVec 4
  vs1 : Reg
  vd : Reg
  grp : VGrp
  deriving DecidableEq, Repr

/-- The fields of a node word other than its opcode (R95). -/
structure NodeWord where
  caNode : BitVec 8
  caPort : BitVec 2
  cbNode : BitVec 8
  cbPort : BitVec 2
  strict : Bool
  cls : BitVec 2
  immb : Bool
  imm : BitVec 32
  deriving DecidableEq, Repr

/-- The fields of a 64-byte matrix command other than its opcode (R102, R103). -/
structure CmdLine where
  args : BitVec 40
  flags : BitVec 8
  rsv : BitVec 4
  cscope : BitVec 4
  a0 : Word
  a1 : Word
  b0 : Word
  b1 : Word
  dim : Word
  scale : Word
  comp : Word
  deriving DecidableEq, Repr

/-- A Hamper record on its way: its eight words, its format block (R380), and the sender whose
in-flight count it holds (R133): a thread key, or a region when `fromRegion`. `first` is the fc of its first
arrival (R385), kept over a spill. -/
structure HRecord where
  words : List Word
  fmt : Word
  sca : List Word
  sender : Nat
  fromRegion : Bool
  counted : Bool
  first : Option Nat
  /-- The address of the image that it was sent from, or of the activation frame of a call (R396). -/
  image : Word := 0
  deriving DecidableEq, Repr

/-- A callee's completion on its way to a call node (R279): the frame address, the results and the status as
values. -/
structure Completion where
  rid : Nat
  tag : BitVec 16
  node : BitVec 8
  f : Word
  res : List Word
  status : Word
  deriving DecidableEq, Repr

/-- A host access to the control window over CXL.mem (R439). -/
structure HostAccess where
  write : Bool
  off : Nat
  data : List Byte
  len : Nat
  deriving DecidableEq, Repr

/-- What an access to another device's memory or an incoming request does (R434, R435). -/
inductive RemoteOp where
  | read (len : Nat)
  | write (data : List Byte)
  /-- Whether the requester may write n bytes there: a check that writes none (R122, R167). Log entry 55. -/
  | mayWrite (n : Nat)
  | amo (op : Nat) (w : Nat) (v expected : Word)
  | cas2 (n0 n1 e0 e1 : Word)
  | feLoad (empty : Bool)
  | feStore (wait : Bool) (v : Word)
  | feBit (op : Nat)
  /-- A pop from, a push to, or a read of the words of the strand whose descriptor lies there (R206). -/
  | pop
  | push (v : Word)
  /-- The withdrawal of a waiting operation from the wait list of its word's slice, by its requester (R192). -/
  | withdraw (id : Nat)
  deriving DecidableEq, Repr

/-- An incoming Utsen request (R435). -/
structure RemoteReq where
  /-- The die that it enters. -/
  die : Nat := 0
  dev : BitVec 10
  ctx : BitVec 12
  off : Nat
  op : RemoteOp
  deriving DecidableEq, Repr

/-- What came back for a remote access (R434, R435). -/
inductive Answer where
  | done (w0 w1 : Word)
  | refused
  | lost
  | listFull
  /-- A strand whose overflow area is full, for a push (R208). -/
  | strandEnd
  /-- T-PAGE at the word's device, with its SUB: no memory there (R339), or a poisoned line (R343). -/
  | page (sub : Nat)
  /-- The bytes of a read, as this device answers an incoming one. -/
  | data (bs : List Byte)
  /-- A waiting operation has left its wait list without effect (R192). -/
  | withdrawn
  /-- The answer that a group lacks, while it is run to see whether it would trap (R80; log entry 12). No unit sends it. -/
  | awaited
  deriving DecidableEq, Repr

/-- The operands of an event: which unit it happens to and what arrives. The table gives an event no encoding; its
operands stand in State beside it. Log entry 11. -/
inductive EvArg where
  | nil
  /-- A thread key, a region, a die, a port, a launch, an identifier: the number that names the unit. -/
  | unit (n : Nat)
  /-- Two numbers: a region and a record, an Itinerary and a node, a rate and a width. -/
  | pair (a b : Nat)
  | word (v : Word)
  | ctx (c : BitVec 12)
  | slotWrite (gsp : Nat) (r : BitVec 2) (v : Word)
  | completion (c : Completion)
  | record (rid : Nat) (r : HRecord)
  | reply (target value : Word) (ctx : BitVec 12) (sender : Nat)
  /-- The rotations to withhold on each cluster (R395). -/
  | held (h : List (Nat × Nat))
  | migrate (ctx : BitVec 12) (va : Word) (die : Nat)
  | storage (id : Nat) (status : BitVec 16) (data : List Byte)
  /-- A window page, and the lines the host writes back. -/
  | flip (page : BitVec 16) (lines : List (Nat × List Byte))
  | regWrite (off : Nat) (v : Word)
  | host (a : HostAccess)
  | utsen (q : RemoteReq)
  | bytes (l : List Byte)
  /-- A supervisor image, and the storage ports that are up (R445 to R447). -/
  | boot (image : List Byte) (ports : BitVec 8)
  /-- Storage ports that are up. -/
  | ports (up : BitVec 8)
  | devnum (n : BitVec 10)
  | flag (b : Bool)
  /-- A context to freeze, with KIND and CLASS of its notice (R398). -/
  | freeze (ctx : BitVec 12) (kind cls : Nat)
  | access (key : Nat) (answer : Option Answer)
  deriving DecidableEq, Repr

/-- One constructor per row of spec/opcode_table.json: the T encodings, the commands and the graph nodes with their
fields, then the events, whose operands are an `EvArg` of State. Log entry 11. -/
inductive Instr where
  | lui (rd : Reg) (imm : Word)
  | auipc (rd : Reg) (imm : Word)
  | addi (rd rs1 : Reg) (imm : Word)
  | slti (rd rs1 : Reg) (imm : Word)
  | sltin (rd rs1 : Reg) (imm : Word)
  | xori (rd rs1 : Reg) (imm : Word)
  | ori (rd rs1 : Reg) (imm : Word)
  | andi (rd rs1 : Reg) (imm : Word)
  | slli (rd rs1 : Reg) (sh : BitVec 6)
  | srli (rd rs1 : Reg) (sh : BitVec 6)
  | srai (rd rs1 : Reg) (sh : BitVec 6)
  | add (rd rs1 rs2 : Reg)
  | sub (rd rs1 rs2 : Reg)
  | sll (rd rs1 rs2 : Reg)
  | slt (rd rs1 rs2 : Reg)
  | sltn (rd rs1 rs2 : Reg)
  | xor (rd rs1 rs2 : Reg)
  | srl (rd rs1 rs2 : Reg)
  | sra (rd rs1 rs2 : Reg)
  | or (rd rs1 rs2 : Reg)
  | and (rd rs1 rs2 : Reg)
  | addiw (rd rs1 : Reg) (imm : Word)
  | slliw (rd rs1 : Reg) (sh : BitVec 5)
  | srliw (rd rs1 : Reg) (sh : BitVec 5)
  | sraiw (rd rs1 : Reg) (sh : BitVec 5)
  | addw (rd rs1 rs2 : Reg)
  | subw (rd rs1 rs2 : Reg)
  | sllw (rd rs1 rs2 : Reg)
  | srlw (rd rs1 rs2 : Reg)
  | sraw (rd rs1 rs2 : Reg)
  | mul (rd rs1 rs2 : Reg)
  | mulh (rd rs1 rs2 : Reg)
  | mulhsn (rd rs1 rs2 : Reg)
  | mulhn (rd rs1 rs2 : Reg)
  | div (rd rs1 rs2 : Reg)
  | divn (rd rs1 rs2 : Reg)
  | rem (rd rs1 rs2 : Reg)
  | remn (rd rs1 rs2 : Reg)
  | mulw (rd rs1 rs2 : Reg)
  | divw (rd rs1 rs2 : Reg)
  | divnw (rd rs1 rs2 : Reg)
  | remw (rd rs1 rs2 : Reg)
  | remnw (rd rs1 rs2 : Reg)
  | beq (rs1 rs2 : Reg) (imm : Word)
  | bne (rs1 rs2 : Reg) (imm : Word)
  | blt (rs1 rs2 : Reg) (imm : Word)
  | bge (rs1 rs2 : Reg) (imm : Word)
  | bltn (rs1 rs2 : Reg) (imm : Word)
  | bgen (rs1 rs2 : Reg) (imm : Word)
  | jal (rd : Reg) (imm : Word)
  | jalr (rd rs1 : Reg) (imm : Word)
  | lb (rd rs1 : Reg) (imm : Word)
  | lh (rd rs1 : Reg) (imm : Word)
  | lw (rd rs1 : Reg) (imm : Word)
  | ld (rd rs1 : Reg) (imm : Word)
  | lbn (rd rs1 : Reg) (imm : Word)
  | lhn (rd rs1 : Reg) (imm : Word)
  | lwn (rd rs1 : Reg) (imm : Word)
  | sb (rs2 rs1 : Reg) (imm : Word)
  | sh (rs2 rs1 : Reg) (imm : Word)
  | sw (rs2 rs1 : Reg) (imm : Word)
  | sd (rs2 rs1 : Reg) (imm : Word)
  | ldFe (rd rs1 : Reg) (imm : Word)
  | ldFc (rd rs1 : Reg) (imm : Word)
  | stEf (rs2 rs1 : Reg) (imm : Word)
  | stF (rs2 rs1 : Reg) (imm : Word)
  | feSet (rd rs1 : Reg) (imm : Word)
  | feClr (rd rs1 : Reg) (imm : Word)
  | feTest (rd rs1 : Reg) (imm : Word)
  | fence (scope : BitVec 4) (order : BitVec 2)
  | cacheInv (rs1 rs2 : Reg)
  | cacheWb (rs1 rs2 : Reg)
  | stashMap (rd rs1 rs2 : Reg)
  | cpy (rd rs1 rs2 rs3 : Reg) (scope : BitVec 2)
  | cpy2d (rd rs1 rs2 rs3 : Reg) (scope : BitVec 2)
  | cpyFill (rd rs1 rs2 rs3 : Reg) (scope : BitVec 2)
  | strb (xq rs1 : Reg)
  | strx (xq : Reg)
  | strq (rd rs1 : Reg)
  | amoAdd (rd rs2 rs1 : Reg) (scope : BitVec 4) (order : BitVec 2) (size : Bool)
  | amoAnd (rd rs2 rs1 : Reg) (scope : BitVec 4) (order : BitVec 2) (size : Bool)
  | amoOr (rd rs2 rs1 : Reg) (scope : BitVec 4) (order : BitVec 2) (size : Bool)
  | amoXor (rd rs2 rs1 : Reg) (scope : BitVec 4) (order : BitVec 2) (size : Bool)
  | amoMin (rd rs2 rs1 : Reg) (scope : BitVec 4) (order : BitVec 2) (size : Bool)
  | amoMax (rd rs2 rs1 : Reg) (scope : BitVec 4) (order : BitVec 2) (size : Bool)
  | amoMinn (rd rs2 rs1 : Reg) (scope : BitVec 4) (order : BitVec 2) (size : Bool)
  | amoMaxn (rd rs2 rs1 : Reg) (scope : BitVec 4) (order : BitVec 2) (size : Bool)
  | amoSwap (rd rs2 rs1 : Reg) (scope : BitVec 4) (order : BitVec 2) (size : Bool)
  | amoCas (rd rs2 rs1 : Reg) (scope : BitVec 4) (order : BitVec 2) (size : Bool)
  | amoCas2 (rd rs2 rs1 : Reg) (scope : BitVec 4) (order : BitVec 2)
  | ldAcq (rd rs1 : Reg) (scope : BitVec 4) (size : Bool)
  | stRel (rs2 rs1 : Reg) (scope : BitVec 4) (size : Bool)
  | callx (rd rs1 : Reg)
  | spawn (rd rs1 rs2 : Reg)
  | callatCl (rd rs1 rs2 : Reg)
  | callatAff (rd rs1 rs2 : Reg)
  | callatLeast (rd rs1 : Reg)
  | callatNbCl (rd rs1 rs2 : Reg)
  | callatNbAff (rd rs1 rs2 : Reg)
  | callatNbLeast (rd rs1 : Reg)
  | reply (rs1 rs2 : Reg)
  | launch (rd rs1 : Reg)
  | bar (rs1 : Reg)
  | rep (rs1 rs2 : Reg) (len : BitVec 4) (stride : BitVec 2)
  | repStop
  | halt
  | yield
  | tret
  | brk
  | sysrd (rd : Reg) (n : BitVec 12)
  | syswr (rd : Reg) (n : BitVec 12) (rs1 : Reg)
  | sysset (rd : Reg) (n : BitVec 12) (rs1 : Reg)
  | sysclr (rd : Reg) (n : BitVec 12) (rs1 : Reg)
  | trap (code : BitVec 12)
  | tlbInv (rd rs1 rs2 rs3 : Reg)
  | tlbInvCtx (rd rs1 : Reg)
  | tlbInvAll (rd : Reg)
  | codeRetire (rd rs1 rs2 : Reg)
  | vadd (p : VArgs)
  | vsub (p : VArgs)
  | vmul (p : VArgs)
  | vmulh (p : VArgs)
  | vmin (p : VArgs)
  | vmax (p : VArgs)
  | vabs (p : VArgs)
  | vneg (p : VArgs)
  | vand (p : VArgs)
  | vor (p : VArgs)
  | vxor (p : VArgs)
  | vshl (p : VArgs)
  | vshr (p : VArgs)
  | vsra (p : VArgs)
  | vsel (p : VArgs)
  | vcmp (cond : BitVec 3) (p : VArgs)
  | vfadd (p : VArgs)
  | vfsub (p : VArgs)
  | vfmul (p : VArgs)
  | vfma (p : VArgs)
  | vfms (p : VArgs)
  | vfmin (p : VArgs)
  | vfmax (p : VArgs)
  | vcvt (p : VCvt)
  | vredAdd (p : VArgs)
  | vredMin (p : VArgs)
  | vredMax (p : VArgs)
  | vfredAdd (p : VArgs)
  | vld (p : VArgs)
  | vst (p : VArgs)
  | vldx (p : VArgs)
  | vstx (p : VArgs)
  | vldBp (p : VArgs)
  | vstBp (p : VArgs)
  | vfcmp (cond : BitVec 3) (p : VArgs)
  | vperm (p : VArgs)
  | vrot (p : VArgs)
  | vshuf (p : VArgs)
  | vbcast (p : VArgs)
  | vslide (p : VArgs)
  | vmvVx (p : VArgs)
  | vmvXv (p : VArgs)
  | vins (p : VArgs)
  | vext (p : VArgs)
  | vpack (p : VArgs)
  | vunpack (p : VArgs)
  | vchn (kd : BitVec 3) (rs : Reg)
  | vx (p : VArgs)
  | kand (kd ka kb : BitVec 3)
  | kor (kd ka kb : BitVec 3)
  | knot (kd ka : BitVec 3)
  | kpop (rd : Reg) (ka : BitVec 3)
  | vexp2 (p : VArgs)
  | vlog2 (p : VArgs)
  | vrcp (p : VArgs)
  | vrsqrt (p : VArgs)
  | vsin (p : VArgs)
  | vcos (p : VArgs)
  | plyZero (c : CmdLine)
  | plyMma (c : CmdLine)
  | plyMmaMx (c : CmdLine)
  | plyMmaBp (c : CmdLine)
  | plyLdacc (c : CmdLine)
  | plyStacc (c : CmdLine)
  | plyTr (c : CmdLine)
  | plySync (c : CmdLine)
  | nbmGemv (c : CmdLine)
  | nbmGemvBp (c : CmdLine)
  | nbmSync (c : CmdLine)
  | nodeAdd (n : NodeWord)
  | nodeSub (n : NodeWord)
  | nodeMul (n : NodeWord)
  | nodeMulh (n : NodeWord)
  | nodeDiv (n : NodeWord)
  | nodeAnd (n : NodeWord)
  | nodeOr (n : NodeWord)
  | nodeXor (n : NodeWord)
  | nodeShl (n : NodeWord)
  | nodeShr (n : NodeWord)
  | nodeSra (n : NodeWord)
  | nodeCmp (n : NodeWord)
  | nodeSel (n : NodeWord)
  | nodeMin (n : NodeWord)
  | nodeMax (n : NodeWord)
  | nodeFadd (n : NodeWord)
  | nodeFmul (n : NodeWord)
  | nodeFfma (n : NodeWord)
  | nodeFcvt (n : NodeWord)
  | nodeFmin (n : NodeWord)
  | nodeFmax (n : NodeWord)
  | nodeDadd (n : NodeWord)
  | nodeDmul (n : NodeWord)
  | nodeDcmp (n : NodeWord)
  | nodeDtow (n : NodeWord)
  | nodeWtod (n : NodeWord)
  | nodeSteer (n : NodeWord)
  | nodeMerge (n : NodeWord)
  | nodeFan (n : NodeWord)
  | nodeGate (n : NodeWord)
  | nodeJoin (n : NodeWord)
  | nodeIter (n : NodeWord)
  | nodeDrop (n : NodeWord)
  | nodeWsplit (n : NodeWord)
  | nodeWjoin (n : NodeWord)
  | nodeAg (n : NodeWord)
  | nodeLdp (n : NodeWord)
  | nodeStp (n : NodeWord)
  | nodeLdl (n : NodeWord)
  | nodeAtom (n : NodeWord)
  | nodeFence (n : NodeWord)
  | nodeAcc (n : NodeWord)
  | nodeAccx (n : NodeWord)
  | nodeArg (n : NodeWord)
  | nodeRet (n : NodeWord)
  | nodeCall (n : NodeWord)
  | nodeTail (n : NodeWord)
  | nodeHsend (n : NodeWord)
  | nodeMark (n : NodeWord)
  | nodeEnd (n : NodeWord)
  | nodeFlush (n : NodeWord)
  | nodeReset (n : NodeWord)
  | nodeSwitch (n : NodeWord)
  | nodeConst (n : NodeWord)
  | repetitionIssue
  | sfuResult
  | plySlotBoundary
  | plyslotWrite
  | callCompletion
  | configurationSwitch
  | portRewalk
  | regionDrain
  | hamperArrival
  | recordRetry
  | hamperReload
  | recordDue
  | dispatchDecision
  | replyDelivery
  | launchAccept
  | hostRecordTake
  | itinNodeDispatch
  | itinNodeDone
  | itinFixedFiring
  | quantumExpiry
  | csaInterval
  | copyEngineRun
  | tlbInvComplete
  | migrationBegin
  | migrationCopy
  | migrationInstall
  | ramblerReadComplete
  | ramblerWriteComplete
  | partySwapOut
  | partySwapIn
  | ctxcmdSave
  | saveComplete
  | ctxcmdResume
  | ctxcmdFreeze
  | ctxcmdReinject
  | ctxcmdAbandon
  | biasFlipHost
  | biasFlipDevice
  | cwbaseWrite
  | uportRead
  | platformRegisterWrite
  | hostWindowAccess
  | hostSnoop
  | utsenRequest
  | utsenPortUp
  | utsenPortDown
  | flitRetransmit
  | powerOnReset
  | clusterPowerDown
  | mgmtGetCertificates
  | mgmtAttestation
  | mgmtSetDeviceNumber
  | mgmtSetPowerLimit
  | mgmtReadSensors
  | mgmtReadErrors
  | mgmtReset
  | memoryAccessCompletion
  | illegalEncoding
  | itineraryInstanceAbandon
  | hostLinkTraining
  | storagePortLinkDown
  deriving DecidableEq, Repr

end Sys2Proof
end

