-- ==== Sys2Proof/WellFormed.lean ====
section
/-! DEFINITION. Which terms of `Instr` an encoding can hold and no entry rejects: the limits whose breach raises T-ILL
(R83 to R93, R117, R121, R127, R151 to R175, R198, R207) or rejects a node at placement (R96, R245 to R283). -/

namespace Sys2Proof

/-- A scope code that is not reserved (R37). -/
def scopeOk (c : BitVec 4) : Bool := decide (c.toNat ≤ 8)

/-- The value is the extended immediate of layouts I and S (R88). -/
def fitsI (v : Word) : Bool := (v.setWidth 42).signExtend 64 == v
/-- The value is the extended immediate of layout B (R88). -/
def fitsB (v : Word) : Bool := (v.setWidth 43).signExtend 64 == v && !v.getLsbD 0
/-- The value is the extended immediate of layout J (R88). -/
def fitsJ (v : Word) : Bool := (v.setWidth 51).signExtend 64 == v && !v.getLsbD 0
/-- The value is the extended immediate of layout U (R88). -/
def fitsU (v : Word) : Bool := (v.setWidth 62).signExtend 64 == v && v.setWidth 12 == 0

/-- Registers in a group (R91). -/
def VGrp.n : VGrp → Nat
  | .g1 => 1
  | .g2 => 2
  | .g4 => 4

/-- The width in bits of an integer type code (R92). -/
def intWidth (t : BitVec 3) : Nat := 8 * 2 ^ (t.toNat % 4)
/-- The width in bits of a float type code 000 to 010 (R92). -/
def fltWidth (t : BitVec 3) : Nat := if t = 0 then 32 else 16

/-- A vector register field is a multiple of the group size (R91). -/
def vreg (g : VGrp) (r : Reg) : Bool := decide (r.toNat % g.n = 0)

/-- A parcel of more than 64 elements names k0 (R152). -/
def maskOk (p : VArgs) (w : Nat) : Bool := decide (512 * p.grp.n / w ≤ 64) || p.mask == 0

/-- Classes 0 and 1 with a second source (R156). -/
def vbinOk (p : VArgs) (w : Nat) : Bool :=
  vreg p.grp p.vd && vreg p.grp p.vs1 && (p.s || vreg p.grp p.vs2) && maskOk p w
/-- vabs and vneg (R156), the reductions (R164) and the special functions (R174): no second source. -/
def vunOk (p : VArgs) (w : Nat) : Bool :=
  vreg p.grp p.vd && vreg p.grp p.vs1 && !p.s && p.vs2 == 0 && maskOk p w
/-- A float type of classes 3, 5, 7 and 13 (R158, R164, R174). -/
def fltOk (p : VArgs) : Bool := decide (p.ty.toNat ≤ 2)
/-- A comparison (R157). -/
def vcmpOk (p : VArgs) (w : Nat) : Bool :=
  vreg p.grp p.vs1 && (p.s || vreg p.grp p.vs2) && decide (512 * p.grp.n / w ≤ 64) && decide (p.vd.toNat < 8)
/-- A memory parcel with a scalar vs1 (R167). -/
def vmemOk (p : VArgs) (w : Nat) : Bool := p.s && vreg p.grp p.vd && maskOk p w
/-- A single-register class (R165, R166). -/
def one (p : VArgs) : Bool := p.grp == .g1
/-- A type of vpack and vunpack (R162, R163). -/
def packTy (p : VArgs) : Bool := p.ty.toNat % 4 != 3

/-- The width of a conversion type code (R93, R159). -/
def cvtWidth (t : BitVec 4) : Nat :=
  match t.toNat with
  | 0 | 4 | 11 | 12 | 14 => 8
  | 1 | 5 | 9 | 10 => 16
  | 2 | 6 | 8 => 32
  | 3 | 7 => 64
  | 13 => 4
  | _ => 128

/-- The pairs of R160. -/
def cvtPair (src dst : BitVec 4) : Bool :=
  let s := src.toNat
  let d := dst.toNat
  s != d &&
  (if s < 8 then decide (d ≤ 10)
   else if s = 8 then decide (d ≤ 13) || d == 15
   else if s = 9 ∨ s = 10 then decide (d ≤ 13) || d == 15
   else if s = 11 ∨ s = 12 then decide (d ≤ 13)
   else if s = 13 then decide (d ≤ 10)
   else if s = 15 then d == 8
   else false)

/-- The element count of a conversion (R159). -/
def cvtN (p : VCvt) : Nat := min (512 * p.grp.n / cvtWidth p.dst) (2048 / cvtWidth p.src)

/-- Registers of a conversion's source group (R159). -/
def cvtSrcN (p : VCvt) : Nat := max 1 (cvtN p * cvtWidth p.src / 512)

/-- A conversion parcel within R93, R152, R159, R160. -/
def cvtOk (p : VCvt) : Bool :=
  cvtPair p.src p.dst && p.rnd != 5 && p.rnd != 6 && vreg p.grp p.vd
    && decide (p.vs1.toNat % cvtSrcN p = 0) && (decide (cvtN p ≤ 64) || p.mask == 0)

/-- CLASS and IMM of a node as its entry accepts them (R96, R246 to R283). Limits that name the image or the other nodes
are checked at placement. An accx with NEND 0 is rejected as an acc is (R272): R274 gives its NEND no range, so this is the
model's choice, log entry 33. -/
def nodeOk (opc : Nat) (n : NodeWord) : Bool :=
  let imm := n.imm.toNat
  let bits (h l : Nat) : Nat := (imm >>> l) % 2 ^ (h + 1 - l)
  let only (m : Nat) : Bool := imm &&& m == imm
  let var := bits 31 24
  let cst := n.immb || bits 23 0 == 0
  let word := n.cls == 0
  let data := decide (n.cls.toNat ≤ 1)
  let any := decide (n.cls.toNat ≤ 2)
  if opc = 0x13 then
    let f (t : Nat) : Bool := [2, 3, 6, 7, 8, 9, 10, 11, 12].contains t
    word && !n.immb && f (bits 31 28) && f (bits 27 24) && bits 31 28 != bits 27 24
      && (decide (8 ≤ bits 31 28) || decide (8 ≤ bits 27 24)) && decide (bits 23 21 ≤ 3) && bits 20 0 == 0
  else if 1 ≤ opc ∧ opc ≤ 0x15 then
    let vmax := match opc with
      | 0x04 => 2
      | 0x05 => 3
      | 0x0C => 5
      | 0x0E | 0x0F => 1
      | 0x10 | 0x11 | 0x12 | 0x14 | 0x15 => 3
      | _ => 0
    word && cst && decide (var ≤ vmax)
  else !n.immb && (match opc with
    | 0x18 | 0x19 | 0x1A | 0x1B => n.cls == 1 && imm == 0
    | 0x1C => word && only 0x7F && decide (1 ≤ imm ∧ imm ≤ 64)
    | 0x20 | 0x21 | 0x23 | 0x26 => data && imm == 0
    | 0x22 => data && only 0xFFFFF
    | 0x24 => data && decide (1 ≤ imm ∧ imm ≤ 3)
    | 0x25 => word
    | 0x28 | 0x29 => word && decide (imm ≤ 2)
    | 0x30 => word && only 0xFFFF0107
    | 0x31 => if word then only 0x77
              else n.cls == 1 && only 0xF107 && (let p := bits 15 12; p == 0 || decide (2 ≤ p ∧ p ≤ 8))
    | 0x32 => word && only 0x37
    | 0x33 => word && only 0x107
    | 0x34 => word && only 0xF7F7 && decide (bits 7 4 ≤ 9) && decide (bits 15 12 ≤ 8)
    | 0x35 => any && only 0xF37 && bits 5 4 != 0 && decide (bits 11 8 ≤ 8)
    | 0x38 => word && only 0xF00000FF && decide (bits 31 28 ≤ 8) && bits 7 0 != 0
    | 0x39 => word && only 0x1FFFF && bits 7 0 != 0
    | 0x40 => word && decide (imm ≤ 8)
    | 0x41 => word && only 0x13
    | 0x42 => word && decide (imm ≤ 4)
    | 0x43 => word && imm == 0
    | 0x44 => word && decide (imm ≤ 2)
    | 0x48 | 0x4A | 0x4B => any && imm == 0
    | 0x49 => any && only 0xFF00
    | 0x4C => any && decide (imm ≤ 15)
    | 0x50 => any
    | _ => false)

/-- The opcode and word of a node (R97). -/
def Instr.node? : Instr → Option (Nat × NodeWord)
  | .nodeAdd n => some (0x01, n)
  | .nodeSub n => some (0x02, n)
  | .nodeMul n => some (0x03, n)
  | .nodeMulh n => some (0x04, n)
  | .nodeDiv n => some (0x05, n)
  | .nodeAnd n => some (0x06, n)
  | .nodeOr n => some (0x07, n)
  | .nodeXor n => some (0x08, n)
  | .nodeShl n => some (0x09, n)
  | .nodeShr n => some (0x0A, n)
  | .nodeSra n => some (0x0B, n)
  | .nodeCmp n => some (0x0C, n)
  | .nodeSel n => some (0x0D, n)
  | .nodeMin n => some (0x0E, n)
  | .nodeMax n => some (0x0F, n)
  | .nodeFadd n => some (0x10, n)
  | .nodeFmul n => some (0x11, n)
  | .nodeFfma n => some (0x12, n)
  | .nodeFcvt n => some (0x13, n)
  | .nodeFmin n => some (0x14, n)
  | .nodeFmax n => some (0x15, n)
  | .nodeDadd n => some (0x18, n)
  | .nodeDmul n => some (0x19, n)
  | .nodeDcmp n => some (0x1A, n)
  | .nodeDtow n => some (0x1B, n)
  | .nodeWtod n => some (0x1C, n)
  | .nodeSteer n => some (0x20, n)
  | .nodeMerge n => some (0x21, n)
  | .nodeFan n => some (0x22, n)
  | .nodeGate n => some (0x23, n)
  | .nodeJoin n => some (0x24, n)
  | .nodeIter n => some (0x25, n)
  | .nodeDrop n => some (0x26, n)
  | .nodeWsplit n => some (0x28, n)
  | .nodeWjoin n => some (0x29, n)
  | .nodeAg n => some (0x30, n)
  | .nodeLdp n => some (0x31, n)
  | .nodeStp n => some (0x32, n)
  | .nodeLdl n => some (0x33, n)
  | .nodeAtom n => some (0x34, n)
  | .nodeFence n => some (0x35, n)
  | .nodeAcc n => some (0x38, n)
  | .nodeAccx n => some (0x39, n)
  | .nodeArg n => some (0x40, n)
  | .nodeRet n => some (0x41, n)
  | .nodeCall n => some (0x42, n)
  | .nodeTail n => some (0x43, n)
  | .nodeHsend n => some (0x44, n)
  | .nodeMark n => some (0x48, n)
  | .nodeEnd n => some (0x49, n)
  | .nodeFlush n => some (0x4A, n)
  | .nodeReset n => some (0x4B, n)
  | .nodeSwitch n => some (0x4C, n)
  | .nodeConst n => some (0x50, n)
  | _ => none

/-- A term that its encoding can hold and its entry accepts. Events have no encoding and no such limit. -/
def Instr.wf (i : Instr) : Bool :=
  match i with
  | .lui _ v | .auipc _ v => fitsU v
  | .addi _ _ v | .slti _ _ v | .sltin _ _ v | .xori _ _ v | .ori _ _ v | .andi _ _ v | .addiw _ _ v => fitsI v
  | .beq _ _ v | .bne _ _ v | .blt _ _ v | .bge _ _ v | .bltn _ _ v | .bgen _ _ v => fitsB v
  | .jal _ v => fitsJ v
  | .jalr _ _ v => fitsI v
  | .lb _ _ v | .lh _ _ v | .lw _ _ v | .ld _ _ v | .lbn _ _ v | .lhn _ _ v | .lwn _ _ v => fitsI v
  | .sb _ _ v | .sh _ _ v | .sw _ _ v | .sd _ _ v => fitsI v
  | .ldFe _ _ v | .ldFc _ _ v | .stEf _ _ v | .stF _ _ v | .feSet _ _ v | .feClr _ _ v | .feTest _ _ v => fitsI v
  | .fence c o => scopeOk c && o != 0
  | .strb q _ | .strx q => decide (24 ≤ q.toNat)
  | .amoAdd _ _ _ c _ _ | .amoAnd _ _ _ c _ _ | .amoOr _ _ _ c _ _ | .amoXor _ _ _ c _ _ | .amoMin _ _ _ c _ _
  | .amoMax _ _ _ c _ _ | .amoMinn _ _ _ c _ _ | .amoMaxn _ _ _ c _ _ | .amoSwap _ _ _ c _ _
  | .amoCas _ _ _ c _ _ => scopeOk c
  | .amoCas2 rd rs2 _ c _ => scopeOk c && rd != 0 && decide (rd.toNat % 2 = 0) && decide (rs2.toNat % 2 = 0)
  | .ldAcq _ _ c _ | .stRel _ _ c _ => scopeOk c
  | .callx rd _ => rd != 2 && !decide (10 ≤ rd.toNat ∧ rd.toNat ≤ 13)
  | .spawn rd _ _ => rd != 1
  | .vadd p | .vsub p | .vmul p | .vmulh p | .vmin p | .vmax p | .vand p | .vor p | .vxor p | .vshl p | .vshr p
  | .vsra p | .vsel p => vbinOk p (intWidth p.ty)
  | .vabs p | .vneg p => vunOk p (intWidth p.ty)
  | .vcmp c p => decide (c.toNat ≤ 5) && vcmpOk p (intWidth p.ty)
  | .vfadd p | .vfsub p | .vfmul p | .vfma p | .vfms p | .vfmin p | .vfmax p => fltOk p && vbinOk p (fltWidth p.ty)
  | .vcvt p => cvtOk p
  | .vredAdd p | .vredMin p | .vredMax p => vunOk p (intWidth p.ty)
  | .vfredAdd p => fltOk p && vunOk p (fltWidth p.ty)
  | .vld p | .vst p => vmemOk p (intWidth p.ty)
  | .vldx p | .vstx p => vmemOk p (intWidth p.ty) && vreg p.grp p.vs1
  | .vldBp p | .vstBp p => vmemOk p 8
  | .vfcmp _ p => fltOk p && vcmpOk p (fltWidth p.ty)
  | .vperm p | .vrot p | .vbcast p | .vslide p => one p
  | .vshuf p => one p && !p.s
  | .vmvVx p => one p && p.s && p.vs1 == 0
  | .vmvXv p => one p && !p.s && p.vs2 == 0 && p.mask == 0
  | .vins p => one p && p.s && p.mask == 0 && decide (p.vs1.toNat < 512 / intWidth p.ty)
  | .vext p => one p && p.mask == 0 && (p.s || decide (p.vs2.toNat < 512 / intWidth p.ty))
  | .vpack p => one p && !p.s && packTy p
  | .vunpack p => one p && !p.s && decide (p.vs2.toNat ≤ 1) && packTy p
  | .vchn kd _ => kd != 0
  | .vx p => one p && p.ty == 0 && p.mask != 0
  | .vexp2 p | .vlog2 p | .vrcp p | .vrsqrt p | .vsin p | .vcos p => one p && fltOk p && !p.s && p.vs2 == 0
  | i => match i.node? with
    | some (opc, n) => nodeOk opc n
    | none => true

end Sys2Proof
end

