-- ==== Sys2Proof/Decode.lean ====
section
/-! DEFINITION. Decoding of T-code parcels, node words and command lines, total on any bits, and the encoder written
from the same layouts (03, R76 to R106). A decoder answers none for an encoding that names no instruction; the limits
of an entry are `Instr.wf`. -/

namespace Sys2Proof

/-- Bits of a parcel from `lo`, `w` of them. -/
def pbits (p : BitVec 32) (lo w : Nat) : BitVec w := p.extractLsb' lo w

def pRd (p : BitVec 32) : Reg := pbits p 7 5
def pRs1 (p : BitVec 32) : Reg := pbits p 15 5
def pRs2 (p : BitVec 32) : Reg := pbits p 20 5
def pF3 (p : BitVec 32) : Nat := (pbits p 12 3).toNat
def pF7 (p : BitVec 32) : Nat := (pbits p 25 7).toNat
def pOpc (p : BitVec 32) : Nat := (pbits p 0 7).toNat

/-- The kind of a parcel (R76). -/
def isA (p : BitVec 32) : Bool := pbits p 0 2 == 3
def isX (p : BitVec 32) : Bool := pbits p 0 2 == 1
def isV (p : BitVec 32) : Bool := pbits p 0 2 == 2

/-- The 30 bits of an X-parcel (R76). -/
def xPart (p : BitVec 32) : BitVec 30 := pbits p 2 30

/-- An immediate of w bits, extended by its X-parcel if any (R88). -/
def extImm {w : Nat} (low : BitVec w) (x : Option (BitVec 30)) : Word :=
  match x with
  | none => low.signExtend 64
  | some e => (e ++ low).signExtend 64

def immI (p : BitVec 32) (x : Option (BitVec 30)) : Word := extImm (pbits p 20 12) x
def immS (p : BitVec 32) (x : Option (BitVec 30)) : Word := extImm (pbits p 25 7 ++ pbits p 7 5) x
def immB (p : BitVec 32) (x : Option (BitVec 30)) : Word :=
  extImm (pbits p 31 1 ++ pbits p 7 1 ++ pbits p 25 6 ++ pbits p 8 4 ++ 0#1) x
def immJ (p : BitVec 32) (x : Option (BitVec 30)) : Word :=
  extImm (pbits p 31 1 ++ pbits p 12 8 ++ pbits p 20 1 ++ pbits p 21 10 ++ 0#1) x
def immU (p : BitVec 32) (x : Option (BitVec 30)) : Word := extImm (pbits p 12 20 ++ 0#12) x

/-- Whether an A-parcel accepts extension (R84, R87). -/
def acceptsX (p : BitVec 32) : Bool :=
  let f := pF3 p
  match pOpc p with
  | 0x03 | 0x23 | 0x37 | 0x17 | 0x63 | 0x6F | 0x67 => true
  | 0x13 => f != 1 && f != 5
  | 0x1B => f == 0
  | 0x0B => f != 7
  | _ => false


/-- OP, 0x33 (R115). -/
def decOp (p : BitVec 32) : Option Instr :=
  let d := pRd p
  let s := pRs1 p
  let t := pRs2 p
  match pF7 p, pF3 p with
  | 0, 0 => some (.add d s t)
  | 32, 0 => some (.sub d s t)
  | 0, 1 => some (.sll d s t)
  | 0, 2 => some (.slt d s t)
  | 0, 3 => some (.sltn d s t)
  | 0, 4 => some (.xor d s t)
  | 0, 5 => some (.srl d s t)
  | 32, 5 => some (.sra d s t)
  | 0, 6 => some (.or d s t)
  | 0, 7 => some (.and d s t)
  | 1, 0 => some (.mul d s t)
  | 1, 1 => some (.mulh d s t)
  | 1, 2 => some (.mulhsn d s t)
  | 1, 3 => some (.mulhn d s t)
  | 1, 4 => some (.div d s t)
  | 1, 5 => some (.divn d s t)
  | 1, 6 => some (.rem d s t)
  | 1, 7 => some (.remn d s t)
  | _, _ => none

/-- OP-32, 0x3B (R115). -/
def decOp32 (p : BitVec 32) : Option Instr :=
  let d := pRd p
  let s := pRs1 p
  let t := pRs2 p
  match pF7 p, pF3 p with
  | 0, 0 => some (.addw d s t)
  | 32, 0 => some (.subw d s t)
  | 0, 1 => some (.sllw d s t)
  | 0, 5 => some (.srlw d s t)
  | 32, 5 => some (.sraw d s t)
  | 1, 0 => some (.mulw d s t)
  | 1, 4 => some (.divw d s t)
  | 1, 5 => some (.divnw d s t)
  | 1, 6 => some (.remw d s t)
  | 1, 7 => some (.remnw d s t)
  | _, _ => none

/-- OP-IMM, 0x13 (R115, R117). -/
def decOpImm (p : BitVec 32) (x : Option (BitVec 30)) : Option Instr :=
  let d := pRd p
  let s := pRs1 p
  let i := immI p x
  match pF3 p with
  | 0 => some (.addi d s i)
  | 1 => if pbits p 26 6 = 0 then some (.slli d s (pbits p 20 6)) else none
  | 2 => some (.slti d s i)
  | 3 => some (.sltin d s i)
  | 4 => some (.xori d s i)
  | 5 => if pbits p 26 6 = 0 then some (.srli d s (pbits p 20 6))
         else if pbits p 26 6 = 0x10 then some (.srai d s (pbits p 20 6)) else none
  | 6 => some (.ori d s i)
  | 7 => some (.andi d s i)
  | _ => none

/-- OP-IMM-32, 0x1B (R115, R117). -/
def decOpImm32 (p : BitVec 32) (x : Option (BitVec 30)) : Option Instr :=
  let d := pRd p
  let s := pRs1 p
  match pF3 p with
  | 0 => some (.addiw d s (immI p x))
  | 1 => if pF7 p = 0 then some (.slliw d s (pRs2 p)) else none
  | 5 => if pF7 p = 0 then some (.srliw d s (pRs2 p)) else if pF7 p = 32 then some (.sraiw d s (pRs2 p)) else none
  | _ => none

/-- BRANCH, 0x63 (R119). -/
def decBranch (p : BitVec 32) (x : Option (BitVec 30)) : Option Instr :=
  let s := pRs1 p
  let t := pRs2 p
  let i := immB p x
  match pF3 p with
  | 0 => some (.beq s t i)
  | 1 => some (.bne s t i)
  | 4 => some (.blt s t i)
  | 5 => some (.bge s t i)
  | 6 => some (.bltn s t i)
  | 7 => some (.bgen s t i)
  | _ => none

/-- LOAD, 0x03 (R188). -/
def decLoad (p : BitVec 32) (x : Option (BitVec 30)) : Option Instr :=
  let d := pRd p
  let s := pRs1 p
  let i := immI p x
  match pF3 p with
  | 0 => some (.lb d s i)
  | 1 => some (.lh d s i)
  | 2 => some (.lw d s i)
  | 3 => some (.ld d s i)
  | 4 => some (.lbn d s i)
  | 5 => some (.lhn d s i)
  | 6 => some (.lwn d s i)
  | _ => none

/-- STORE, 0x23 (R188). -/
def decStore (p : BitVec 32) (x : Option (BitVec 30)) : Option Instr :=
  let t := pRs2 p
  let s := pRs1 p
  let i := immS p x
  match pF3 p with
  | 0 => some (.sb t s i)
  | 1 => some (.sh t s i)
  | 2 => some (.sw t s i)
  | 3 => some (.sd t s i)
  | _ => none

/-- FEMEM, 0x0B (R189). -/
def decFemem (p : BitVec 32) (x : Option (BitVec 30)) : Option Instr :=
  let d := pRd p
  let s := pRs1 p
  let t := pRs2 p
  let i := immI p x
  let j := immS p x
  match pF3 p with
  | 0 => some (.ldFe d s i)
  | 1 => some (.ldFc d s i)
  | 2 => some (.stEf t s j)
  | 3 => some (.stF t s j)
  | 4 => some (.feSet d s i)
  | 5 => some (.feClr d s i)
  | 6 => some (.feTest d s i)
  | _ => none

/-- MISC-MEM, 0x0F (R195, R211, R212). -/
def decMisc (p : BitVec 32) : Option Instr :=
  let d := pRd p
  let s := pRs1 p
  let t := pRs2 p
  match pF3 p with
  | 0 => if pbits p 7 19 = 0 then some (.fence (pbits p 28 4) (pbits p 26 2)) else none
  | 1 => if pF7 p = 0 ∧ d = 0 then some (.cacheInv s t) else none
  | 2 => if pF7 p = 0 ∧ d = 0 then some (.cacheWb s t) else none
  | 3 => if pF7 p = 0 then some (.stashMap d s t) else none
  | _ => none

/-- COPY, 0x2B (R199, R207). -/
def decCopy (p : BitVec 32) : Option Instr :=
  let d := pRd p
  let s := pRs1 p
  let t := pRs2 p
  let u := pbits p 27 5
  let c := pbits p 25 2
  match pF3 p with
  | 0 => some (.cpy d s t u c)
  | 1 => some (.cpy2d d s t u c)
  | 2 => some (.cpyFill d s t u c)
  | 3 => if pF7 p = 0 ∧ t = 0 then some (.strb d s) else none
  | 4 => if pF7 p = 0 ∧ t = 0 ∧ s = 0 then some (.strx d) else none
  | 5 => if pF7 p = 0 ∧ t = 0 then some (.strq d s) else none
  | _ => none

/-- AMO, 0x2F (R196). -/
def decAmo (p : BitVec 32) : Option Instr :=
  let d := pRd p
  let s := pRs1 p
  let t := pRs2 p
  let c := pbits p 28 4
  let o := pbits p 26 2
  let z := p.getLsbD 25
  match pF3 p with
  | 0 => some (.amoAdd d t s c o z)
  | 1 => some (.amoAnd d t s c o z)
  | 2 => some (.amoOr d t s c o z)
  | 3 => some (.amoXor d t s c o z)
  | 4 => some (.amoMin d t s c o z)
  | 5 => some (.amoMax d t s c o z)
  | 6 => some (.amoMinn d t s c o z)
  | 7 => some (.amoMaxn d t s c o z)
  | _ => none

/-- XCHG, 0x7B (R194, R196, R198). -/
def decXchg (p : BitVec 32) : Option Instr :=
  let d := pRd p
  let s := pRs1 p
  let t := pRs2 p
  let c := pbits p 28 4
  let o := pbits p 26 2
  let z := p.getLsbD 25
  match pF3 p with
  | 0 => some (.amoSwap d t s c o z)
  | 1 => some (.amoCas d t s c o z)
  | 2 => if z then some (.amoCas2 d t s c o) else none
  | 3 => if o = 0 ∧ t = 0 then some (.ldAcq d s c z) else none
  | 4 => if o = 0 ∧ d = 0 then some (.stRel t s c z) else none
  | _ => none

/-- WORK, 0x5B (R85, R121, R127, R130, R135, R136, R138, R176, R180). -/
def decWork (p : BitVec 32) : Option Instr :=
  let d := pRd p
  let s := pRs1 p
  let t := pRs2 p
  let f := pF7 p
  match pF3 p with
  | 0 => if f = 0 ∧ t = 0 then some (.callx d s) else none
  | 1 => if f = 0 then some (.spawn d s t) else none
  | 2 => if f = 0 then some (.callatCl d s t) else if f = 1 then some (.callatAff d s t)
         else if f = 2 ∧ t = 0 then some (.callatLeast d s) else none
  | 3 => if f = 0 then some (.callatNbCl d s t) else if f = 1 then some (.callatNbAff d s t)
         else if f = 2 ∧ t = 0 then some (.callatNbLeast d s) else none
  | 4 => if f = 0 ∧ d = 0 then some (.reply s t) else none
  | 5 => if f = 0 ∧ t = 0 then some (.launch d s) else none
  | 6 => if f = 0 ∧ t = 0 ∧ d = 0 then some (.bar s) else none
  | 7 => if d ≠ 0 then none
         else if !p.getLsbD 25 then some (.rep s t (pbits p 26 4) (pbits p 30 2))
         else if f = 1 ∧ s = 0 ∧ t = 0 then some .repStop else none
  | _ => none

/-- SYSTEM, 0x73 (R84, R142, R144 to R149). -/
def decSystem (p : BitVec 32) : Option Instr :=
  let d := pRd p
  let s := pRs1 p
  let t := pRs2 p
  let n := pbits p 20 12
  match pF3 p with
  | 0 => if d ≠ 0 ∨ s ≠ 0 then none
         else if n = 0 then some .halt else if n = 1 then some .yield
         else if n = 2 then some .tret else if n = 3 then some .brk else none
  | 1 => if s = 0 then some (.sysrd d n) else none
  | 2 => some (.syswr d n s)
  | 3 => some (.sysset d n s)
  | 4 => some (.sysclr d n s)
  | 5 => if d = 0 ∧ s = 0 then some (.trap n) else none
  | 6 => match (pbits p 25 2).toNat with
    | 0 => some (.tlbInv d s t (pbits p 27 5))
    | 1 => if t = 0 ∧ pbits p 27 5 = 0 then some (.tlbInvCtx d s) else none
    | 2 => if t = 0 ∧ s = 0 ∧ pbits p 27 5 = 0 then some (.tlbInvAll d) else none
    | _ => none
  | 7 => if pF7 p = 0 then some (.codeRetire d s t) else none
  | _ => none

/-- The instruction of an A-parcel with its X-parcel's bits (R82 to R88). -/
def decodeA (p : BitVec 32) (x : Option (BitVec 30)) : Option Instr :=
  match pOpc p with
  | 0x37 => some (.lui (pRd p) (immU p x))
  | 0x17 => some (.auipc (pRd p) (immU p x))
  | 0x13 => decOpImm p x
  | 0x33 => decOp p
  | 0x1B => decOpImm32 p x
  | 0x3B => decOp32 p
  | 0x63 => decBranch p x
  | 0x6F => some (.jal (pRd p) (immJ p x))
  | 0x67 => if pF3 p = 0 then some (.jalr (pRd p) (pRs1 p) (immI p x)) else none
  | 0x03 => decLoad p x
  | 0x23 => decStore p x
  | 0x0B => decFemem p x
  | 0x0F => decMisc p
  | 0x2B => decCopy p
  | 0x2F => decAmo p
  | 0x7B => decXchg p
  | 0x5B => decWork p
  | 0x73 => decSystem p
  | _ => none

/-- The fields of a V-parcel (R90) with a group size. -/
def vArgs (p : BitVec 32) (g : VGrp) : VArgs :=
  { s := p.getLsbD 31, ty := pbits p 25 3, mask := pbits p 22 3, vs2 := pbits p 17 5, vs1 := pbits p 12 5,
    vd := pbits p 7 5, grp := g }

/-- The fields of a conversion parcel (R93). -/
def vCvtArgs (p : BitVec 32) (g : VGrp) : VCvt :=
  { dst := pbits p 28 4, rnd := pbits p 25 3, mask := pbits p 22 3, src := pbits p 17 4, vs1 := pbits p 12 5,
    vd := pbits p 7 5, grp := g }

/-- The instruction of classes 0 to 7 (R91), op and group given. -/
def decVLow (p : BitVec 32) (c op : Nat) (g : VGrp) : Option Instr :=
  let a := vArgs p g
  let un (i : Instr) : Option Instr := if !a.s ∧ a.vs2 = 0 then some i else none
  let me (i : Instr) : Option Instr := if a.s then some i else none
  match c, op with
  | 0, 0 => some (.vadd a)
  | 0, 1 => some (.vsub a)
  | 0, 2 => some (.vmul a)
  | 0, 3 => some (.vmulh a)
  | 0, 4 => some (.vmin a)
  | 0, 5 => some (.vmax a)
  | 0, 6 => un (.vabs a)
  | 0, 7 => un (.vneg a)
  | 1, 0 => some (.vand a)
  | 1, 1 => some (.vor a)
  | 1, 2 => some (.vxor a)
  | 1, 3 => some (.vshl a)
  | 1, 4 => some (.vshr a)
  | 1, 5 => some (.vsra a)
  | 1, 6 => some (.vsel a)
  | 2, _ => some (.vcmp (pbits p 28 3) a)
  | 3, 0 => some (.vfadd a)
  | 3, 1 => some (.vfsub a)
  | 3, 2 => some (.vfmul a)
  | 3, 3 => some (.vfma a)
  | 3, 4 => some (.vfms a)
  | 3, 5 => some (.vfmin a)
  | 3, 6 => some (.vfmax a)
  | 4, _ => if !p.getLsbD 21 then some (.vcvt (vCvtArgs p g)) else none
  | 5, 0 => un (.vredAdd a)
  | 5, 1 => un (.vredMin a)
  | 5, 2 => un (.vredMax a)
  | 5, 3 => un (.vfredAdd a)
  | 6, 0 => me (.vld a)
  | 6, 1 => me (.vst a)
  | 6, 2 => me (.vldx a)
  | 6, 3 => me (.vstx a)
  | 6, 4 => me (.vldBp a)
  | 6, 5 => me (.vstBp a)
  | 7, _ => some (.vfcmp (pbits p 28 3) a)
  | _, _ => none

/-- The instruction of classes 8 to 13 (R91). -/
def decVHigh (p : BitVec 32) (c op : Nat) : Option Instr :=
  let a := vArgs p .g1
  let kf (r : Reg) : Bool := decide (r.toNat < 8)
  let un (i : Instr) : Option Instr := if !a.s ∧ a.vs2 = 0 then some i else none
  let kk (i : Instr) : Option Instr :=
    if !a.s ∧ a.ty = 0 ∧ a.mask = 0 ∧ kf a.vs1 ∧ kf a.vs2 then some i else none
  match c, op with
  | 8, 0 => some (.vperm a)
  | 8, 1 => some (.vrot a)
  | 8, 2 => if !a.s then some (.vshuf a) else none
  | 8, 3 => some (.vbcast a)
  | 8, 4 => some (.vslide a)
  | 9, 0 => if a.s ∧ a.vs1 = 0 then some (.vmvVx a) else none
  | 9, 1 => if !a.s ∧ a.vs2 = 0 ∧ a.mask = 0 then some (.vmvXv a) else none
  | 9, 2 => if a.s ∧ a.mask = 0 then some (.vins a) else none
  | 9, 3 => if a.mask = 0 then some (.vext a) else none
  | 10, 0 => if !a.s then some (.vpack a) else none
  | 10, 1 => if !a.s ∧ a.vs2.toNat ≤ 1 then some (.vunpack a) else none
  | 11, 0 => if a.s ∧ kf a.vd ∧ a.vs1 = 0 ∧ a.ty = 0 ∧ a.mask = 0 then some (.vchn (pbits p 7 3) a.vs2) else none
  | 11, 1 => if a.ty = 0 then some (.vx a) else none
  | 12, 0 => if kf a.vd then kk (.kand (pbits p 7 3) (pbits p 12 3) (pbits p 17 3)) else none
  | 12, 1 => if kf a.vd then kk (.kor (pbits p 7 3) (pbits p 12 3) (pbits p 17 3)) else none
  | 12, 2 => if kf a.vd ∧ a.vs2 = 0 then kk (.knot (pbits p 7 3) (pbits p 12 3)) else none
  | 12, 3 => if a.vs2 = 0 then kk (.kpop a.vd (pbits p 12 3)) else none
  | 13, 0 => un (.vexp2 a)
  | 13, 1 => un (.vlog2 a)
  | 13, 2 => un (.vrcp a)
  | 13, 3 => un (.vrsqrt a)
  | 13, 4 => un (.vsin a)
  | 13, 5 => un (.vcos a)
  | _, _ => none

/-- The instruction of a V-parcel (R90, R91). -/
def decodeV (p : BitVec 32) : Option Instr :=
  let c := (pbits p 2 5).toNat
  let op := (pbits p 28 3).toNat
  if c < 8 then decVLow p c op .g1
  else if c < 16 then decVHigh p c op
  else if c < 24 then decVLow p (c - 16) op .g2
  else decVLow p (c - 24) op .g4

/-- The instruction that begins a list of parcels, its X-parcel included (R76, R77). Log entry 56. -/
def decodeParcels (ps : List (BitVec 32)) : Option Instr :=
  match ps with
  | [] => none
  | a :: t =>
    if isV a then decodeV a
    else if isA a then
      match t with
      | [] => decodeA a none
      | b :: u =>
        if isX b then
          if acceptsX a && !(match u with
            | c :: _ => isX c
            | [] => false) then decodeA a (some (xPart b)) else none
        else decodeA a none
    else none

/-- The fields of a node word (R95). -/
def nodeFields (w : BitVec 64) : NodeWord :=
  { caNode := w.extractLsb' 48 8, caPort := w.extractLsb' 46 2, cbNode := w.extractLsb' 38 8,
    cbPort := w.extractLsb' 36 2, strict := w.getLsbD 35, cls := w.extractLsb' 33 2, immb := w.getLsbD 32,
    imm := w.extractLsb' 0 32 }

/-- The node of an opcode (R97). -/
def nodeOf (opc : Nat) (n : NodeWord) : Option Instr :=
  match opc with
  | 0x01 => some (.nodeAdd n)
  | 0x02 => some (.nodeSub n)
  | 0x03 => some (.nodeMul n)
  | 0x04 => some (.nodeMulh n)
  | 0x05 => some (.nodeDiv n)
  | 0x06 => some (.nodeAnd n)
  | 0x07 => some (.nodeOr n)
  | 0x08 => some (.nodeXor n)
  | 0x09 => some (.nodeShl n)
  | 0x0A => some (.nodeShr n)
  | 0x0B => some (.nodeSra n)
  | 0x0C => some (.nodeCmp n)
  | 0x0D => some (.nodeSel n)
  | 0x0E => some (.nodeMin n)
  | 0x0F => some (.nodeMax n)
  | 0x10 => some (.nodeFadd n)
  | 0x11 => some (.nodeFmul n)
  | 0x12 => some (.nodeFfma n)
  | 0x13 => some (.nodeFcvt n)
  | 0x14 => some (.nodeFmin n)
  | 0x15 => some (.nodeFmax n)
  | 0x18 => some (.nodeDadd n)
  | 0x19 => some (.nodeDmul n)
  | 0x1A => some (.nodeDcmp n)
  | 0x1B => some (.nodeDtow n)
  | 0x1C => some (.nodeWtod n)
  | 0x20 => some (.nodeSteer n)
  | 0x21 => some (.nodeMerge n)
  | 0x22 => some (.nodeFan n)
  | 0x23 => some (.nodeGate n)
  | 0x24 => some (.nodeJoin n)
  | 0x25 => some (.nodeIter n)
  | 0x26 => some (.nodeDrop n)
  | 0x28 => some (.nodeWsplit n)
  | 0x29 => some (.nodeWjoin n)
  | 0x30 => some (.nodeAg n)
  | 0x31 => some (.nodeLdp n)
  | 0x32 => some (.nodeStp n)
  | 0x33 => some (.nodeLdl n)
  | 0x34 => some (.nodeAtom n)
  | 0x35 => some (.nodeFence n)
  | 0x38 => some (.nodeAcc n)
  | 0x39 => some (.nodeAccx n)
  | 0x40 => some (.nodeArg n)
  | 0x41 => some (.nodeRet n)
  | 0x42 => some (.nodeCall n)
  | 0x43 => some (.nodeTail n)
  | 0x44 => some (.nodeHsend n)
  | 0x48 => some (.nodeMark n)
  | 0x49 => some (.nodeEnd n)
  | 0x4A => some (.nodeFlush n)
  | 0x4B => some (.nodeReset n)
  | 0x4C => some (.nodeSwitch n)
  | 0x50 => some (.nodeConst n)
  | _ => none

/-- The node of a node word (R95, R97). Log entry 56. -/
def decodeNode (w : BitVec 64) : Option Instr := nodeOf (w.extractLsb' 56 8).toNat (nodeFields w)

/-- The fields of a command line (R102, R103); absent words are 0. -/
def lineFields (ws : List Word) : CmdLine :=
  let op := ws.getD 0 0
  { args := op.extractLsb' 24 40, flags := op.extractLsb' 16 8, rsv := op.extractLsb' 12 4,
    cscope := op.extractLsb' 8 4, a0 := ws.getD 1 0, a1 := ws.getD 2 0, b0 := ws.getD 3 0, b1 := ws.getD 4 0,
    dim := ws.getD 5 0, scale := ws.getD 6 0, comp := ws.getD 7 0 }

/-- The command of a line that a Ply (kind 0) or near-bank (kind 1) window received (R104). Log entry 56. -/
def decodeCommand (kind : Nat) (ws : List Word) : Option Instr :=
  let c := lineFields ws
  match kind, ((ws.getD 0 0).extractLsb' 0 8).toNat with
  | 0, 0x01 => some (.plyZero c)
  | 0, 0x02 => some (.plyMma c)
  | 0, 0x03 => some (.plyMmaMx c)
  | 0, 0x04 => some (.plyMmaBp c)
  | 0, 0x05 => some (.plyLdacc c)
  | 0, 0x06 => some (.plyStacc c)
  | 0, 0x07 => some (.plyTr c)
  | 0, 0x08 => some (.plySync c)
  | 1, 0x21 => some (.nbmGemv c)
  | 1, 0x22 => some (.nbmGemvBp c)
  | 1, 0x28 => some (.nbmSync c)
  | _, _ => none

/-- What the decoder reads from an instruction whose bits are w, laid out as parcels of 32 bits, zeros after. -/
def decodeTableWord (nbits w : Nat) : Option Instr :=
  if nbits = 64 then decodeNode (BitVec.ofNat 64 w)
  else decodeParcels [BitVec.ofNat 32 w, BitVec.ofNat 32 (w / 2 ^ 32), BitVec.ofNat 32 (w / 2 ^ 64)]

/-! The encoder. -/

def encR (opc : BitVec 7) (f3 : BitVec 3) (f7 : BitVec 7) (rd rs1 rs2 : Reg) : BitVec 32 :=
  f7 ++ rs2 ++ rs1 ++ f3 ++ rd ++ opc
def encI (opc : BitVec 7) (f3 : BitVec 3) (rd rs1 : Reg) (imm : BitVec 12) : BitVec 32 :=
  imm ++ rs1 ++ f3 ++ rd ++ opc
def encS (opc : BitVec 7) (f3 : BitVec 3) (rs1 rs2 : Reg) (imm : BitVec 12) : BitVec 32 :=
  imm.extractLsb' 5 7 ++ rs2 ++ rs1 ++ f3 ++ imm.extractLsb' 0 5 ++ opc
def encB (opc : BitVec 7) (f3 : BitVec 3) (rs1 rs2 : Reg) (imm : BitVec 13) : BitVec 32 :=
  imm.extractLsb' 12 1 ++ imm.extractLsb' 5 6 ++ rs2 ++ rs1 ++ f3 ++ imm.extractLsb' 1 4 ++ imm.extractLsb' 11 1 ++ opc
def encU (opc : BitVec 7) (rd : Reg) (imm : BitVec 32) : BitVec 32 := imm.extractLsb' 12 20 ++ rd ++ opc
def encJ (opc : BitVec 7) (rd : Reg) (imm : BitVec 21) : BitVec 32 :=
  imm.extractLsb' 20 1 ++ imm.extractLsb' 1 10 ++ imm.extractLsb' 11 1 ++ imm.extractLsb' 12 8 ++ rd ++ opc
def encSC (opc : BitVec 7) (f3 : BitVec 3) (rd rs1 rs2 : Reg) (scope : BitVec 4) (order : BitVec 2) (z : Bool) :
    BitVec 32 :=
  scope ++ order ++ BitVec.ofBool z ++ rs2 ++ rs1 ++ f3 ++ rd ++ opc
def encV (c : BitVec 3) (op : BitVec 3) (a : VArgs) : BitVec 32 :=
  BitVec.ofBool a.s ++ op ++ a.ty ++ a.mask ++ a.vs2 ++ a.vs1 ++ a.vd ++
    (match a.grp with
      | .g1 => 0#2
      | .g2 => 2#2
      | .g4 => 3#2) ++ c ++ 2#2
/-- Classes 8 to 13 (R91). -/
def encVHigh (c : BitVec 5) (op : BitVec 3) (a : VArgs) : BitVec 32 :=
  BitVec.ofBool a.s ++ op ++ a.ty ++ a.mask ++ a.vs2 ++ a.vs1 ++ a.vd ++ c ++ 2#2
def encCvt (a : VCvt) : BitVec 32 :=
  a.dst ++ a.rnd ++ a.mask ++ 0#1 ++ a.src ++ a.vs1 ++ a.vd ++
    (match a.grp with
      | .g1 => 0#2
      | .g2 => 2#2
      | .g4 => 3#2) ++ 4#3 ++ 2#2

/-- A parcel, followed by an X-parcel when the immediate does not fit its own w bits (R88, R109). -/
def withX (w : Nat) (imm : Word) (p : BitVec 32) : List (BitVec 32) :=
  if (imm.setWidth w).signExtend 64 = imm then [p] else [p, imm.extractLsb' w 30 ++ 1#2]

/-- A node word (R95). -/
def encNode (opc : Nat) (n : NodeWord) : BitVec 64 :=
  BitVec.ofNat 8 opc ++ n.caNode ++ n.caPort ++ n.cbNode ++ n.cbPort ++ BitVec.ofBool n.strict ++ n.cls ++
    BitVec.ofBool n.immb ++ n.imm

/-- A command line (R102, R103). -/
def encLine (opc : BitVec 8) (c : CmdLine) : List Word :=
  [c.args ++ c.flags ++ c.rsv ++ c.cscope ++ opc, c.a0, c.a1, c.b0, c.b1, c.dim, c.scale, c.comp]

/-- The kind and line of a command (R104). -/
def encodeCommand : Instr → Option (Nat × List Word)
  | .plyZero c => some (0, encLine 0x01 c)
  | .plyMma c => some (0, encLine 0x02 c)
  | .plyMmaMx c => some (0, encLine 0x03 c)
  | .plyMmaBp c => some (0, encLine 0x04 c)
  | .plyLdacc c => some (0, encLine 0x05 c)
  | .plyStacc c => some (0, encLine 0x06 c)
  | .plyTr c => some (0, encLine 0x07 c)
  | .plySync c => some (0, encLine 0x08 c)
  | .nbmGemv c => some (1, encLine 0x21 c)
  | .nbmGemvBp c => some (1, encLine 0x22 c)
  | .nbmSync c => some (1, encLine 0x28 c)
  | _ => none

/-- The node word of a node (R95, R97). -/
def encodeNode (i : Instr) : Option (BitVec 64) :=
  match i.node? with
  | some (opc, n) => some (encNode opc n)
  | none => none

/-- The fields of a mask operation (R173). -/
def kArgs (kd : Reg) (ka kb : BitVec 3) : VArgs :=
  { s := false, ty := 0, mask := 0, vs2 := kb.setWidth 5, vs1 := ka.setWidth 5, vd := kd, grp := .g1 }

/-- The parcels of a T instruction (R81 to R93); none for an operation that has no parcel. -/
def encode (i : Instr) : List (BitVec 32) :=
  match i with
  | .lui d v => withX 32 v (encU 0x37 d (v.setWidth 32))
  | .auipc d v => withX 32 v (encU 0x17 d (v.setWidth 32))
  | .addi d s v => withX 12 v (encI 0x13 0 d s (v.setWidth 12))
  | .slti d s v => withX 12 v (encI 0x13 2 d s (v.setWidth 12))
  | .sltin d s v => withX 12 v (encI 0x13 3 d s (v.setWidth 12))
  | .xori d s v => withX 12 v (encI 0x13 4 d s (v.setWidth 12))
  | .ori d s v => withX 12 v (encI 0x13 6 d s (v.setWidth 12))
  | .andi d s v => withX 12 v (encI 0x13 7 d s (v.setWidth 12))
  | .slli d s h => [encI 0x13 1 d s (0#6 ++ h)]
  | .srli d s h => [encI 0x13 5 d s (0#6 ++ h)]
  | .srai d s h => [encI 0x13 5 d s (16#6 ++ h)]
  | .add d s t => [encR 0x33 0 0 d s t]
  | .sub d s t => [encR 0x33 0 32 d s t]
  | .sll d s t => [encR 0x33 1 0 d s t]
  | .slt d s t => [encR 0x33 2 0 d s t]
  | .sltn d s t => [encR 0x33 3 0 d s t]
  | .xor d s t => [encR 0x33 4 0 d s t]
  | .srl d s t => [encR 0x33 5 0 d s t]
  | .sra d s t => [encR 0x33 5 32 d s t]
  | .or d s t => [encR 0x33 6 0 d s t]
  | .and d s t => [encR 0x33 7 0 d s t]
  | .addiw d s v => withX 12 v (encI 0x1B 0 d s (v.setWidth 12))
  | .slliw d s h => [encR 0x1B 1 0 d s h]
  | .srliw d s h => [encR 0x1B 5 0 d s h]
  | .sraiw d s h => [encR 0x1B 5 32 d s h]
  | .addw d s t => [encR 0x3b 0 0 d s t]
  | .subw d s t => [encR 0x3b 0 32 d s t]
  | .sllw d s t => [encR 0x3b 1 0 d s t]
  | .srlw d s t => [encR 0x3b 5 0 d s t]
  | .sraw d s t => [encR 0x3b 5 32 d s t]
  | .mul d s t => [encR 0x33 0 1 d s t]
  | .mulh d s t => [encR 0x33 1 1 d s t]
  | .mulhsn d s t => [encR 0x33 2 1 d s t]
  | .mulhn d s t => [encR 0x33 3 1 d s t]
  | .div d s t => [encR 0x33 4 1 d s t]
  | .divn d s t => [encR 0x33 5 1 d s t]
  | .rem d s t => [encR 0x33 6 1 d s t]
  | .remn d s t => [encR 0x33 7 1 d s t]
  | .mulw d s t => [encR 0x3b 0 1 d s t]
  | .divw d s t => [encR 0x3b 4 1 d s t]
  | .divnw d s t => [encR 0x3b 5 1 d s t]
  | .remw d s t => [encR 0x3b 6 1 d s t]
  | .remnw d s t => [encR 0x3b 7 1 d s t]
  | .beq s t v => withX 13 v (encB 0x63 0 s t (v.setWidth 13))
  | .bne s t v => withX 13 v (encB 0x63 1 s t (v.setWidth 13))
  | .blt s t v => withX 13 v (encB 0x63 4 s t (v.setWidth 13))
  | .bge s t v => withX 13 v (encB 0x63 5 s t (v.setWidth 13))
  | .bltn s t v => withX 13 v (encB 0x63 6 s t (v.setWidth 13))
  | .bgen s t v => withX 13 v (encB 0x63 7 s t (v.setWidth 13))
  | .jal d v => withX 21 v (encJ 0x6F d (v.setWidth 21))
  | .jalr d s v => withX 12 v (encI 0x67 0 d s (v.setWidth 12))
  | .lb d s v => withX 12 v (encI 0x03 0 d s (v.setWidth 12))
  | .lh d s v => withX 12 v (encI 0x03 1 d s (v.setWidth 12))
  | .lw d s v => withX 12 v (encI 0x03 2 d s (v.setWidth 12))
  | .ld d s v => withX 12 v (encI 0x03 3 d s (v.setWidth 12))
  | .lbn d s v => withX 12 v (encI 0x03 4 d s (v.setWidth 12))
  | .lhn d s v => withX 12 v (encI 0x03 5 d s (v.setWidth 12))
  | .lwn d s v => withX 12 v (encI 0x03 6 d s (v.setWidth 12))
  | .sb t s v => withX 12 v (encS 0x23 0 s t (v.setWidth 12))
  | .sh t s v => withX 12 v (encS 0x23 1 s t (v.setWidth 12))
  | .sw t s v => withX 12 v (encS 0x23 2 s t (v.setWidth 12))
  | .sd t s v => withX 12 v (encS 0x23 3 s t (v.setWidth 12))
  | .ldFe d s v => withX 12 v (encI 0x0B 0 d s (v.setWidth 12))
  | .ldFc d s v => withX 12 v (encI 0x0B 1 d s (v.setWidth 12))
  | .feSet d s v => withX 12 v (encI 0x0B 4 d s (v.setWidth 12))
  | .feClr d s v => withX 12 v (encI 0x0B 5 d s (v.setWidth 12))
  | .feTest d s v => withX 12 v (encI 0x0B 6 d s (v.setWidth 12))
  | .stEf t s v => withX 12 v (encS 0x0B 2 s t (v.setWidth 12))
  | .stF t s v => withX 12 v (encS 0x0B 3 s t (v.setWidth 12))
  | .fence c o => [encSC 0x0F 0 0 0 0 c o false]
  | .cacheInv s t => [encR 0x0F 1 0 0 s t]
  | .cacheWb s t => [encR 0x0F 2 0 0 s t]
  | .stashMap d s t => [encR 0x0F 3 0 d s t]
  | .cpy d s t u c => [encR 0x2B 0 (u ++ c) d s t]
  | .cpy2d d s t u c => [encR 0x2B 1 (u ++ c) d s t]
  | .cpyFill d s t u c => [encR 0x2B 2 (u ++ c) d s t]
  | .strb q s => [encR 0x2B 3 0 q s 0]
  | .strx q => [encR 0x2B 4 0 q 0 0]
  | .strq d s => [encR 0x2B 5 0 d s 0]
  | .amoAdd d t s c o z => [encSC 0x2F 0 d s t c o z]
  | .amoAnd d t s c o z => [encSC 0x2F 1 d s t c o z]
  | .amoOr d t s c o z => [encSC 0x2F 2 d s t c o z]
  | .amoXor d t s c o z => [encSC 0x2F 3 d s t c o z]
  | .amoMin d t s c o z => [encSC 0x2F 4 d s t c o z]
  | .amoMax d t s c o z => [encSC 0x2F 5 d s t c o z]
  | .amoMinn d t s c o z => [encSC 0x2F 6 d s t c o z]
  | .amoMaxn d t s c o z => [encSC 0x2F 7 d s t c o z]
  | .amoSwap d t s c o z => [encSC 0x7B 0 d s t c o z]
  | .amoCas d t s c o z => [encSC 0x7B 1 d s t c o z]
  | .amoCas2 d t s c o => [encSC 0x7B 2 d s t c o true]
  | .ldAcq d s c z => [encSC 0x7B 3 d s 0 c 0 z]
  | .stRel t s c z => [encSC 0x7B 4 0 s t c 0 z]
  | .callx d s => [encR 0x5B 0 0 d s 0]
  | .spawn d s t => [encR 0x5B 1 0 d s t]
  | .callatCl d s t => [encR 0x5B 2 0 d s t]
  | .callatAff d s t => [encR 0x5B 2 1 d s t]
  | .callatLeast d s => [encR 0x5B 2 2 d s 0]
  | .callatNbCl d s t => [encR 0x5B 3 0 d s t]
  | .callatNbAff d s t => [encR 0x5B 3 1 d s t]
  | .callatNbLeast d s => [encR 0x5B 3 2 d s 0]
  | .reply s t => [encR 0x5B 4 0 0 s t]
  | .launch d s => [encR 0x5B 5 0 d s 0]
  | .bar s => [encR 0x5B 6 0 0 s 0]
  | .rep s t l w => [encR 0x5B 7 (w ++ l ++ 0#1) 0 s t]
  | .repStop => [encR 0x5B 7 1 0 0 0]
  | .halt => [encI 0x73 0 0 0 0]
  | .yield => [encI 0x73 0 0 0 1]
  | .tret => [encI 0x73 0 0 0 2]
  | .brk => [encI 0x73 0 0 0 3]
  | .sysrd d n => [encI 0x73 1 d 0 n]
  | .syswr d n s => [encI 0x73 2 d s n]
  | .sysset d n s => [encI 0x73 3 d s n]
  | .sysclr d n s => [encI 0x73 4 d s n]
  | .trap n => [encI 0x73 5 0 0 n]
  | .tlbInv d s t u => [encR 0x73 6 (u ++ 0#2) d s t]
  | .tlbInvCtx d s => [encR 0x73 6 1 d s 0]
  | .tlbInvAll d => [encR 0x73 6 2 d 0 0]
  | .codeRetire d s t => [encR 0x73 7 0 d s t]
  | .vadd a => [encV 0 0 a]
  | .vsub a => [encV 0 1 a]
  | .vmul a => [encV 0 2 a]
  | .vmulh a => [encV 0 3 a]
  | .vmin a => [encV 0 4 a]
  | .vmax a => [encV 0 5 a]
  | .vabs a => [encV 0 6 a]
  | .vneg a => [encV 0 7 a]
  | .vand a => [encV 1 0 a]
  | .vor a => [encV 1 1 a]
  | .vxor a => [encV 1 2 a]
  | .vshl a => [encV 1 3 a]
  | .vshr a => [encV 1 4 a]
  | .vsra a => [encV 1 5 a]
  | .vsel a => [encV 1 6 a]
  | .vcmp c a => [encV 2 c a]
  | .vfadd a => [encV 3 0 a]
  | .vfsub a => [encV 3 1 a]
  | .vfmul a => [encV 3 2 a]
  | .vfma a => [encV 3 3 a]
  | .vfms a => [encV 3 4 a]
  | .vfmin a => [encV 3 5 a]
  | .vfmax a => [encV 3 6 a]
  | .vcvt a => [encCvt a]
  | .vredAdd a => [encV 5 0 a]
  | .vredMin a => [encV 5 1 a]
  | .vredMax a => [encV 5 2 a]
  | .vfredAdd a => [encV 5 3 a]
  | .vld a => [encV 6 0 a]
  | .vst a => [encV 6 1 a]
  | .vldx a => [encV 6 2 a]
  | .vstx a => [encV 6 3 a]
  | .vldBp a => [encV 6 4 a]
  | .vstBp a => [encV 6 5 a]
  | .vfcmp c a => [encV 7 c a]
  | .vperm a => [encVHigh 8 0 a]
  | .vrot a => [encVHigh 8 1 a]
  | .vshuf a => [encVHigh 8 2 a]
  | .vbcast a => [encVHigh 8 3 a]
  | .vslide a => [encVHigh 8 4 a]
  | .vmvVx a => [encVHigh 9 0 a]
  | .vmvXv a => [encVHigh 9 1 a]
  | .vins a => [encVHigh 9 2 a]
  | .vext a => [encVHigh 9 3 a]
  | .vpack a => [encVHigh 10 0 a]
  | .vunpack a => [encVHigh 10 1 a]
  | .vchn kd r => [encVHigh 11 0 { kArgs (kd.setWidth 5) 0 0 with s := true, vs2 := r }]
  | .vx a => [encVHigh 11 1 a]
  | .kand d a b => [encVHigh 12 0 (kArgs (d.setWidth 5) a b)]
  | .kor d a b => [encVHigh 12 1 (kArgs (d.setWidth 5) a b)]
  | .knot d a => [encVHigh 12 2 (kArgs (d.setWidth 5) a 0)]
  | .kpop d a => [encVHigh 12 3 (kArgs d a 0)]
  | .vexp2 a => [encVHigh 13 0 a]
  | .vlog2 a => [encVHigh 13 1 a]
  | .vrcp a => [encVHigh 13 2 a]
  | .vrsqrt a => [encVHigh 13 3 a]
  | .vsin a => [encVHigh 13 4 a]
  | .vcos a => [encVHigh 13 5 a]
  | _ => []

end Sys2Proof
end

