-- ==== Sys2Proof/Machine/Bits.lean ====
section
/-! DEFINITION. Bit fields, byte order, and the register files' plain reads and writes (R3, R4, R22). -/

namespace Sys2Proof.Machine
open Sys2Proof

/-- Bits h down to l of x (R4). -/
def field (x : Nat) (h l : Nat) : Nat := (x >>> l) % 2 ^ (h + 1 - l)

/-- Bits h down to l of a word, as a number. -/
def fld (x : Word) (h l : Nat) : Nat := field x.toNat h l

/-- Bit i of a word. -/
def tbit (x : Word) (i : Nat) : Bool := field x.toNat i i == 1

/-- The word whose bits h down to l are replaced by v. -/
def setFld (x : Word) (h l : Nat) (v : Nat) : Word :=
  BitVec.ofNat 64 (x.toNat - field x.toNat h l * 2 ^ l + (v % 2 ^ (h + 1 - l)) * 2 ^ l)

/-- v as a two's complement integer of w bits. -/
def toSigned (w : Nat) (v : Nat) : Int :=
  let u := v % 2 ^ w
  if 2 * u < 2 ^ w then (u : Int) else (u : Int) - (2 ^ w : Nat)

/-- An integer modulo 2^w. -/
def ofInt (w : Nat) (i : Int) : Nat := (i % ((2 ^ w : Nat) : Int)).toNat

/-- The low w bits of v, sign-extended to a word. -/
def sextW (w : Nat) (v : Nat) : Word := BitVec.ofInt 64 (toSigned w v)

/-- The low w bits of v, zero-extended to a word. -/
def zextW (w : Nat) (v : Nat) : Word := BitVec.ofNat 64 (v % 2 ^ w)

/-- n bytes of v, least significant first (R3). -/
def toBytes : Nat → Nat → List Byte
  | 0, _ => []
  | n + 1, v => BitVec.ofNat 8 v :: toBytes n (v / 256)

/-- The number whose bytes, least significant first, are listed (R3). -/
def ofBytes : List Byte → Nat
  | [] => 0
  | b :: t => b.toNat + 256 * ofBytes t

/-- One list entry, or the default. -/
def nth {α : Type} (d : α) (l : List α) (i : Nat) : α := l.getD i d

/-- Replaces one list entry. -/
def setNth {α : Type} (l : List α) (i : Nat) (a : α) : List α := l.set i a

/-- Element i of width w of a wide value (R22). -/
def elem (w : Nat) (x : Nat) (i : Nat) : Nat := (x >>> (w * i)) % 2 ^ w

/-- The number whose elements of width w, element 0 first, are listed (R22). -/
def ofElems (w : Nat) : List Nat → Nat
  | [] => 0
  | a :: t => a % 2 ^ w + 2 ^ w * ofElems w t

/-- ceil(a / b). -/
def cdiv (a b : Nat) : Nat := (a + b - 1) / b

/-- The numbers 0 to n - 1. -/
def upto (n : Nat) : List Nat := List.range n

end Sys2Proof.Machine
end

