-- ==== Sys2Proof/Machine/Num.lean ====
section
/-! DEFINITION. Number formats and rounding (02, R46 to R67, R69): exact values, one rounding function, and the
arithmetic of the IEEE formats on encodings. -/

namespace Sys2Proof.Machine
open Sys2Proof

/-- How a format uses its top exponent (R49, R53). -/
inductive FKind where
  | ieee | e4m3 | e5m2 | e2m1
  deriving DecidableEq, Repr

/-- A floating-point format: width, exponent bits, fraction bits, bias (R48, R53, R69). -/
structure FFmt where
  w : Nat
  eb : Nat
  fb : Nat
  bias : Nat
  kind : FKind
  deriving DecidableEq, Repr

def f32 : FFmt := ⟨32, 8, 23, 127, .ieee⟩
def f16 : FFmt := ⟨16, 5, 10, 15, .ieee⟩
def bf16 : FFmt := ⟨16, 8, 7, 127, .ieee⟩
def f64 : FFmt := ⟨64, 11, 52, 1023, .ieee⟩
def e4m3 : FFmt := ⟨8, 4, 3, 7, .e4m3⟩
def e5m2 : FFmt := ⟨8, 5, 2, 15, .e5m2⟩
def e2m1 : FFmt := ⟨4, 2, 1, 1, .e2m1⟩

/-- A value: a NaN (signalling or quiet), an infinity, or ±m·2^e with its sign (R49). -/
inductive FVal where
  | nan (sig : Bool)
  | inf (neg : Bool)
  | fin (neg : Bool) (m : Nat) (e : Int)
  deriving DecidableEq, Repr

/-- The value that an encoding stands for (R48, R49, R53). -/
def FFmt.decode (f : FFmt) (x : Nat) : FVal :=
  let fr := field x (f.fb - 1) 0
  let ex := field x (f.fb + f.eb - 1) f.fb
  let neg := field x (f.fb + f.eb) (f.fb + f.eb) == 1
  let top := 2 ^ f.eb - 1
  let fin := if ex = 0 then FVal.fin neg fr (1 - (f.bias : Int) - f.fb)
             else FVal.fin neg (fr + 2 ^ f.fb) ((ex : Int) - f.bias - f.fb)
  match f.kind with
  | .ieee => if ex = top then (if fr = 0 then .inf neg else .nan (field fr (f.fb - 1) (f.fb - 1) == 0)) else fin
  | .e5m2 => if ex = top then (if fr = 0 then .inf neg else .nan false) else fin
  | .e4m3 => if ex = top ∧ fr = 2 ^ f.fb - 1 then .nan false else fin
  | .e2m1 => fin

/-- The canonical NaN; +0 for e2m1, which has none (R48, R50, R53, R67). -/
def FFmt.qnan (f : FFmt) : Nat :=
  match f.kind with
  | .ieee => (2 ^ f.eb - 1) * 2 ^ f.fb + 2 ^ (f.fb - 1)
  | .e4m3 => 0x7F
  | .e5m2 => 0x7E
  | .e2m1 => 0

def FFmt.signBit (f : FFmt) (neg : Bool) : Nat := if neg then 2 ^ (f.eb + f.fb) else 0

/-- The encoding of an infinity (the largest finite magnitude in a format that has none). -/
def FFmt.infCode (f : FFmt) (neg : Bool) : Nat :=
  f.signBit neg + (match f.kind with
    | .ieee | .e5m2 => (2 ^ f.eb - 1) * 2 ^ f.fb
    | .e4m3 => 0x7E
    | .e2m1 => 7)

/-- The magnitude code of the largest finite value. -/
def FFmt.maxMag (f : FFmt) : Nat :=
  match f.kind with
  | .ieee | .e5m2 => (2 ^ f.eb - 1) * 2 ^ f.fb - 1
  | .e4m3 => 0x7E
  | .e2m1 => 7

/-- Whether overflow saturates in every mode (R64). -/
def FFmt.saturates (f : FFmt) : Bool :=
  match f.kind with
  | .ieee => false
  | _ => true

/-- The flags NV DZ OF UF NX in bits 4 to 0 (R41). -/
abbrev Flags := BitVec 5
def flNV : Flags := 16
def flDZ : Flags := 8
def flOF : Flags := 4
def flUF : Flags := 2
def flNX : Flags := 1

/-- A rounded result: its encoding, its flags, and whether the stochastic mode took its draw: once for a value that the format
does not represent, within its range or past it (R63, R64, R66). -/
structure FRes where
  bits : Nat
  fl : Flags
  drew : Bool
  deriving DecidableEq, Repr

/-- Rounds the magnitude m·2^(−sh) to an integer: the integer, and whether it was inexact (R63). `mode` is the
RMODE code and `r` the draw; `neg` is the sign of the value. -/
def roundMag (mode : Nat) (r : Nat) (neg : Bool) (m sh : Nat) : Nat × Bool :=
  let q := m >>> sh
  let rem := m % 2 ^ sh
  if rem = 0 then (q, false) else
  let up : Bool :=
    match mode with
    | 0 => decide (2 * rem > 2 ^ sh) || (decide (2 * rem = 2 ^ sh) && q % 2 == 1)
    | 1 => false
    | 2 => neg
    | 3 => !neg
    | _ => if neg then !decide (r < 2 ^ 32 * (2 ^ sh - rem) / 2 ^ sh)
           else decide (r < 2 ^ 32 * rem / 2 ^ sh)
  (if up then q + 1 else q, true)

/-- round(v, mode, format) of ±m·2^e with overflow by R64 and the flags of R51. A zero keeps its sign. -/
def FFmt.round (f : FFmt) (mode : Nat) (r : Nat) (neg : Bool) (m : Nat) (e : Int) : FRes :=
  if m = 0 then ⟨f.signBit neg, 0, false⟩ else
  let emin : Int := 1 - (f.bias : Int)
  let top : Int := (Nat.log2 m : Int) + e
  let q : Int := max top emin - f.fb
  let (s, nx) := if q ≤ e then (m * 2 ^ (e - q).toNat, false) else roundMag mode r neg m (q - e).toNat
  -- the code of the magnitude s·2^q, exponent carry included
  let mag : Nat := if s < 2 ^ f.fb then s else
    let (s', q') := if s = 2 ^ (f.fb + 1) then (2 ^ f.fb, q + 1) else (s, q)
    ((q' + f.fb + f.bias).toNat) * 2 ^ f.fb + (s' - 2 ^ f.fb)
  if mag > f.maxMag then
    let sat := f.saturates || (match mode with
      | 1 => true
      | 2 => !neg
      | 3 => neg
      | _ => false)
    ⟨if sat then f.signBit neg + f.maxMag else f.infCode neg, flOF ||| flNX, mode == 4⟩
  else
    let uf := nx && s != 0 && decide (s < 2 ^ f.fb)
    ⟨f.signBit neg + mag, (if nx then flNX else 0) ||| (if uf then flUF else 0), nx && mode == 4⟩

/-- A NaN result (R50). -/
def FFmt.nanRes (f : FFmt) (nv : Bool) : FRes := ⟨f.qnan, if nv then flNV else 0, false⟩

def FVal.isNan : FVal → Bool
  | .nan _ => true
  | _ => false

def FVal.isSig : FVal → Bool
  | .nan s => s
  | _ => false

def FVal.neg? : FVal → Bool
  | .nan _ => false
  | .inf n => n
  | .fin n _ _ => n

def FVal.flip : FVal → FVal
  | .nan s => .nan s
  | .inf n => .inf !n
  | .fin n m e => .fin (!n) m e

def FVal.isZero : FVal → Bool
  | .fin _ m _ => m == 0
  | _ => false

/-- Exact sum of two finite values as signed m at a common exponent. -/
def addExact (n1 : Bool) (m1 : Nat) (e1 : Int) (n2 : Bool) (m2 : Nat) (e2 : Int) : Int × Int :=
  let e := min e1 e2
  let a : Int := (m1 * 2 ^ (e1 - e).toNat : Nat)
  let b : Int := (m2 * 2 ^ (e2 - e).toNat : Nat)
  ((if n1 then -a else a) + (if n2 then -b else b), e)

/-- The sign of an exact zero sum (R51). -/
def zeroSumSign (mode : Nat) (n1 n2 : Bool) : Bool := if n1 == n2 then n1 else mode == 2

/-- x + y rounded into f, for values already exact (R51). -/
def FFmt.addV (f : FFmt) (mode r : Nat) (x y : FVal) (nv : Bool) : FRes :=
  match x, y with
  | .nan s, .nan t => f.nanRes (s || t || nv)
  | .nan s, _ => f.nanRes (s || nv)
  | _, .nan t => f.nanRes (t || nv)
  | .inf a, .inf b => if a == b then ⟨f.infCode a, 0, false⟩ else f.nanRes true
  | .inf a, _ => ⟨f.infCode a, 0, false⟩
  | _, .inf b => ⟨f.infCode b, 0, false⟩
  | .fin n1 m1 e1, .fin n2 m2 e2 =>
    let (s, e) := addExact n1 m1 e1 n2 m2 e2
    if s = 0 then ⟨f.signBit (zeroSumSign mode n1 n2), 0, false⟩
    else f.round mode r (decide (s < 0)) s.natAbs e

/-- The exact product, with the invalid case 0 × ∞ (R50). -/
def mulV (x y : FVal) : FVal × Bool :=
  match x, y with
  | .nan s, .nan t => (.nan (s || t), false)
  | .nan s, _ => (.nan s, false)
  | _, .nan t => (.nan t, false)
  | .inf a, .inf b => (.inf (a != b), false)
  | .inf a, .fin b m _ => if m = 0 then (.nan false, true) else (.inf (a != b), false)
  | .fin a m _, .inf b => if m = 0 then (.nan false, true) else (.inf (a != b), false)
  | .fin a m1 e1, .fin b m2 e2 => (.fin (a != b) (m1 * m2) (e1 + e2), false)

def FFmt.fadd (f : FFmt) (mode r a b : Nat) : FRes := f.addV mode r (f.decode a) (f.decode b) false
def FFmt.fsub (f : FFmt) (mode r a b : Nat) : FRes := f.addV mode r (f.decode a) (f.decode b).flip false

/-- Rounds a value into f (R63, R64), signalling NaNs raising NV. -/
def FFmt.ofVal (f : FFmt) (mode r : Nat) (x : FVal) (nv : Bool) : FRes :=
  match x with
  | .nan s => f.nanRes (s || nv)
  | .inf n => ⟨f.infCode n, 0, false⟩
  | .fin n m e => f.round mode r n m e

def FFmt.fmul (f : FFmt) (mode r a b : Nat) : FRes :=
  let (p, inv) := mulV (f.decode a) (f.decode b)
  f.ofVal mode r p inv

/-- round(a × b + c) in one rounding (R50, R51); `sub` gives a × b − c. -/
def FFmt.fma (f : FFmt) (mode r a b c : Nat) (sub : Bool) : FRes :=
  let (p, inv) := mulV (f.decode a) (f.decode b)
  let z := f.decode c
  f.addV mode r p (if sub then z.flip else z) inv

/-- Order of two values that are not NaNs: −1, 0 or 1 with −0 equal to +0. -/
def FVal.cmp (x y : FVal) : Int :=
  match x, y with
  | .inf a, .inf b => if a == b then 0 else if a then -1 else 1
  | .inf a, _ => if a then -1 else 1
  | _, .inf b => if b then 1 else -1
  | .fin n1 m1 e1, .fin n2 m2 e2 =>
    let (s, _) := addExact n1 m1 e1 (!n2) m2 e2
    if s = 0 then 0 else if s < 0 then -1 else 1
  | _, _ => 0

/-- minimumNumber and maximumNumber (R50), −0 ordered below +0. -/
def FFmt.fminmax (f : FFmt) (isMax : Bool) (a b : Nat) : FRes :=
  let x := f.decode a
  let y := f.decode b
  let nv : Flags := if x.isSig || y.isSig then flNV else 0
  if x.isNan && y.isNan then ⟨f.qnan, nv, false⟩
  else if x.isNan then ⟨b, nv, false⟩
  else if y.isNan then ⟨a, nv, false⟩
  else
    let c := FVal.cmp x y
    let aLess : Bool := if c = 0 then x.neg? && !y.neg? else decide (c < 0)
    ⟨if aLess != isMax then a else b, nv, false⟩

/-- A value rounded to an integer by mode: the integer and inexactness. -/
def roundInt (mode r : Nat) (neg : Bool) (m : Nat) (e : Int) : Int × Bool :=
  let (q, nx) := if 0 ≤ e then (m * 2 ^ e.toNat, false) else roundMag mode r neg m (-e).toNat
  (if neg then -(q : Int) else q, nx)

/-- A conversion to an integer type of w bits (R67): saturates with NV out of range, NaN gives 0 with NV. -/
def toIntRes (w : Nat) (signed : Bool) (mode r : Nat) (x : FVal) : FRes :=
  let lo : Int := if signed then -(2 ^ (w - 1) : Nat) else 0
  let hi : Int := if signed then (2 ^ (w - 1) : Nat) - 1 else (2 ^ w : Nat) - 1
  match x with
  | .nan _ => ⟨0, flNV, false⟩
  | .inf n => ⟨ofInt w (if n then lo else hi), flNV, false⟩
  | .fin n m e =>
    let (i, nx) := roundInt mode r n m e
    if i < lo then ⟨ofInt w lo, flNV, mode == 4⟩
    else if hi < i then ⟨ofInt w hi, flNV, mode == 4⟩
    else ⟨ofInt w i, if nx then flNX else 0, nx && mode == 4⟩

/-- An integer rounded into f (R67). -/
def FFmt.ofIntRes (f : FFmt) (mode r : Nat) (i : Int) : FRes :=
  f.round mode r (decide (i < 0)) i.natAbs 0

/-- A conversion between floating-point formats (R67). A NaN into e2m1 gives +0 with NV; an infinity into a format
without infinities saturates with OF and NX. -/
def FFmt.convert (dst : FFmt) (mode r : Nat) (x : FVal) : FRes :=
  match x with
  | .nan s => ⟨dst.qnan, if s || dst.kind == .e2m1 then flNV else 0, false⟩
  | .inf n => match dst.kind with
    | .e4m3 | .e2m1 => ⟨dst.infCode n, flOF ||| flNX, false⟩
    | _ => ⟨dst.infCode n, 0, false⟩
  | .fin n m e => dst.round mode r n m e

/-- fixed128 at exponent w of a value (R67, R161): the 128-bit pattern, INEXACT, RANGE, draw taken. -/
def toFixed128 (w : Int) (mode r : Nat) (x : FVal) : Nat × Bool × Bool × Bool :=
  let lo : Int := -(2 ^ 127 : Nat)
  let hi : Int := (2 ^ 127 : Nat) - 1
  match x with
  | .nan _ => (0, false, true, false)
  | .inf n => (ofInt 128 (if n then lo else hi), false, true, false)
  | .fin n m e =>
    let (i, nx) := roundInt mode r n m (e - (w - 96))
    if i < lo then (ofInt 128 lo, false, true, mode == 4)
    else if hi < i then (ofInt 128 hi, false, true, mode == 4)
    else (ofInt 128 i, nx, false, nx && mode == 4)

/-- round(S × 2^(w − 96), mode, f32) (R67, R161). -/
def ofFixed128 (w : Int) (mode r : Nat) (s : Nat) : FRes :=
  let i := toSigned 128 s
  f32.round mode r (decide (i < 0)) i.natAbs (w - 96)

/-- One step of a lane's generator: the new state, which is also the draw (R65). -/
def rngStep (g : BitVec 32) : BitVec 32 :=
  let s := g ^^^ (g <<< 13)
  let s := s ^^^ (s >>> 17)
  s ^^^ (s <<< 5)

/-- The seed of lane i (R65). -/
def rngSeed (srSeed launch : Word) (n i : Nat) : BitVec 32 :=
  let h := BitVec.ofNat 32 (fld srSeed 31 0) ^^^ BitVec.ofNat 32 (fld srSeed 63 32) ^^^ BitVec.ofNat 32 (fld launch 31 0)
    ^^^ BitVec.ofNat 32 (n * 0x9E3779B9) ^^^ BitVec.ofNat 32 (i * 0x85EBCA6B)
  if h = 0 then 0x6A09E667 else h

/-- The value of a BPN element at p planes (R57, R58), q the stored i8. -/
def bpnValue (p : Nat) (midpt : Bool) (q : Int) : Int :=
  let qp := q / (2 ^ (8 - p) : Nat)
  if p < 8 ∧ midpt then qp * (2 ^ (8 - p) : Nat) + (2 ^ (7 - p) : Nat) else qp * (2 ^ (8 - p) : Nat)

/-- round_acc: nearest even into the 24-bit form with binary64's exponent range (R69), as a binary64 encoding. -/
def roundAcc (neg : Bool) (m : Nat) (e : Int) : Nat :=
  if m = 0 then f64.signBit neg else
  let top : Int := (Nat.log2 m : Int) + e
  let q : Int := max top (-1022) - 23
  let s := if q ≤ e then m * 2 ^ (e - q).toNat else (roundMag 0 0 neg m (q - e).toNat).1
  (f64.round 0 0 neg s q).bits

end Sys2Proof.Machine
end

