-- ==== Sys2Proof/Config.lean ====
section
/-! DEFINITION. What an implementation fixes (the part's unit counts) and the free values, which have no body:
nothing can be proved of their value (log entries 2, 5, 6, 7). -/

namespace Sys2Proof.Config

/-- The fixed discovery data of a part (R1, R453, R454). -/
structure Part where
  part : BitVec 16
  cmask : List (BitVec 24)
  nstk : List Nat
  deriving DecidableEq, Repr

/-- The QBT-4624: 24 clusters and three stacks on each die (R1). Log entry 1. -/
def qbt4624 : Part :=
  { part := 0x4624, cmask := [0xFFFFFF, 0xFFFFFF, 0xFFFFFF, 0xFFFFFF], nstk := [3, 3, 3, 3] }

/-- The QBT-4620: 20 clusters on each die and ten stacks (R454). Log entry 1. -/
def qbt4620 : Part :=
  { part := 0x4620, cmask := [0x0FFFFF, 0x0FFFFF, 0x0FFFFF, 0x0FFFFF], nstk := [3, 3, 2, 2] }

/-- A latency that no rule binds, in ac (R183, R249, R239). Log entry 2. -/
opaque latency : Nat → Nat
/-- The entry that a full translation cache or set gives up: replacement is not specified (R349, R351, R407). Log entry 2. -/
opaque victim : Nat → Nat
/-- The set of an L2 slice that a line maps to (R351). Log entry 2. -/
opaque l2Set : Nat → Nat
/-- How many table pointers a die's walker holds after a walk (R407). Log entry 2. -/
opaque walkSize : Nat → Nat
/-- An f32 special-function result where the exact value is not representable; used only inside the bound of
R175. Operation, operand. Log entry 5. -/
opaque sfuF32 : Nat → BitVec 32 → BitVec 32
/-- The digits that a dadd or dmul emits, of the many forms of its exact result; used only where they are one (R61). Log
entry 2. -/
opaque digitForm : Nat → List Int
/-- Whether the Ed25519 signature (second list) of the first list verifies against an Aederna key whose hash the fuses hold
(R446). Log entry 7. -/
opaque ed25519Ok : List Byte → List Byte → Bool
/-- The same for the ML-DSA-65 signature (R446). Log entry 7. -/
opaque mldsaOk : List Byte → List Byte → Bool
/-- Whether the Ed25519 signature verifies against an owner key that the monitor holds (R446). Log entry 7. -/
opaque ownerEd25519Ok : List Byte → List Byte → Bool
/-- The same for the ML-DSA-65 signature (R446). Log entry 7. -/
opaque ownerMldsaOk : List Byte → List Byte → Bool
/-- SHA-384 (R446, R449). Log entry 7. -/
opaque sha384 : List Byte → List Byte
/-- The identity key's Ed25519 and ML-DSA-65 signatures of a report (R449). Log entry 7. -/
opaque ed25519Sign : List Byte → List Byte
/-- The identity key's ML-DSA-65 signature of a report (R449). Log entry 7. -/
opaque mldsaSign : List Byte → List Byte
/-- The device's identity certificates (R448). Log entry 7. -/
opaque certificates : List Byte
/-- The measurements of the ROM and the fuse configuration (R449). Log entry 7. -/
opaque romMeasure : List Byte
/-- Rotations of a cluster's Spindles that the Current Share Arbiter withholds in an interval: budgets are the device's own
(R395). Interval's draw, cluster. Log entry 2. -/
opaque withheld : Nat → Nat → Nat
/-- The measurement of the fuse configuration (R449). Log entry 7. -/
opaque fuseMeasure : List Byte
/-- The security version the fuses hold (R446). Log entry 7. -/
opaque fuseVersion : BitVec 32
/-- The NVMe status that RB_ERR holds when a storage port's link is down (R428, R445). Log entry 2. -/
opaque nvmeDown : BitVec 16
/-- WHERE of a KIND 6 record, for which R396 names no content. Log entry 2. -/
opaque storageWhere : Nat → Word
/-- Temperatures and rail currents at a reading (R450). Log entry 2. -/
opaque sensors : Nat → List Word
/-- Module power averaged over the last millisecond at a reading (R452). Log entry 2. -/
opaque powerNow : Nat → BitVec 12

end Sys2Proof.Config
end

