-- ==== Sys2Proof/Machine/State.lean ====
section
/-! DEFINITION. The state of the whole device as plain data (01; 07; 08; 11 to 14), the state after reset, and the
closed lists of faults and refusals. A numbered unit that a table does not list stands at its default. -/

namespace Sys2Proof.Machine
open Sys2Proof

/-- Why a step stops the model. No rule of the spec stops the machine, and no meaning of this model stops it: there is no
fault. -/
inductive Fault
  deriving DecidableEq, Repr

/-- Why the model has no answer. -/
inductive Refusal where
  /-- Raised by an arm of `exec` for an instruction that has no meaning yet. Safe. -/
  | notModelled (mnemonic : String)
  deriving DecidableEq, Repr

/-- The privilege levels, codes 00, 01 and 11 (R16). -/
inductive Level where
  | user | supervisor | monitor
  deriving DecidableEq, Repr

/-- The code of a level (R16). -/
def Level.code : Level → Nat
  | .user => 0
  | .supervisor => 1
  | .monitor => 3

/-- A trap cause: class, subcause, INFO, REPLAY and the value of TVAL (R42, R43). Log entry 54. -/
structure Cause where
  cls : Nat
  sub : Nat := 0
  info : Nat := 0
  replay : Bool := false
  tval : Word := 0
  deriving DecidableEq, Repr

/-- Access kinds, coded as INFO bits 2:0 (R399). ld.fe and fe.test are loads here: they
need R alone (R189). -/
inductive AKind where
  | load | store | rmw | fetch | place
  deriving DecidableEq, Repr

/-- What a physical address names (R339, R430, R438, R443). -/
inductive Place where
  | mem (off : Nat)
  | window (j : Nat)
  | utsen (off : Nat)
  | ctl (off : Nat)
  | hostif (off : Nat)
  | power (off : Nat)
  | aperture (h : Nat)
  | remote (dev off : Nat)
  | badDev
  | none
  deriving DecidableEq, Repr

/-- Where an access lands. -/
inductive Loc where
  /-- A byte of a Spindle's unified array. -/
  | ua (gsp off : Nat)
  /-- A device offset of the stacks. -/
  | mem (off : Nat)
  /-- A register of a platform block. -/
  | reg (p : Place)
  /-- A byte of the issuing context's command window on its Spindle, kind 0 Ply or 1 near-bank. -/
  | cmd (kind off : Nat)
  /-- Another device, or the host aperture, and the page through whose entry it is reached. -/
  | far (p : Place) (page : Nat × Nat)
  deriving DecidableEq, Repr

/-- An access: address, bytes, alignment, kind, whether it is a plain load or store, whether it is a full/empty or strand
operation, which the host aperture lacks (R443), and whether later checks of its group rest on its value. -/
structure Req where
  va : Nat
  n : Nat
  al : Nat
  k : AKind
  plain : Bool := true
  fe : Bool := false
  look : Bool := false
  deriving DecidableEq, Repr

/-- An address that a group has translated for n bytes, the physical address that it has for the group, and the page whose entry
it used: first address and size. -/
structure Reached where
  va : Nat
  n : Nat
  k : AKind
  pa : Nat
  page : Nat × Nat
  deriving DecidableEq, Repr

/-- What a parcel's effect leaves beside the state: its x results, and the pc when it transfers control. -/
structure Out where
  ws : List (Reg × Word) := []
  target : Option Word := none
  deriving DecidableEq, Repr

/-- What an A-parcel leaves beside memory, while the V-parcel of its group is performed (R79, R318): its x results, its target, and
the registers that its V-parcel consults as the group found them. -/
structure Aside where
  out : Out
  vrm : Word
  fmt : Word
  scas : List Word
  level : Level
  strands : Tab Word
  deriving DecidableEq, Repr

/-- A group that awaits what is performed outside its Spindle (R80, R183, R190, R434): the parcels it was formed from, where its
accesses land, and what it loaded to check itself by. Once it has passed its checks, no later change of tables, locks or code
reaches it, and each access that it has performed stands (R318): it is not performed again when the group goes on.
Log entry 12. -/
structure Flight where
  on : Bool := false
  parcels : List (BitVec 32) := []
  landed : List (Req × Loc) := []
  reached : List Reached := []
  seen : List (Nat × Nat) := []
  /-- It has passed every check, and performs its accesses. -/
  passed : Bool := false
  /-- Its full/empty operation has joined a wait list (R190). -/
  fe : Bool := false
  /-- The source values that it has read. -/
  srcs : List Word := []
  /-- What the A-parcel of two left, once it has been performed. -/
  aside : Option Aside := none
  /-- The values of the accesses that the parcel in course has performed, in order, and those still to be taken in this turn. -/
  done : List Word := []
  todo : List Word := []
  /-- Its results, once every parcel has been performed: those not yet written. -/
  out : Option Out := none
  /-- Strand descriptors by device offset (R209): those whose ring it is at, those from which it pops and to which it pushes, the
  elements that it has read there and pops with its pushes, and those that have room for its pushes. -/
  busy : List Nat := []
  both : List Nat := []
  claims : List Nat := []
  room : List Nat := []
  deriving DecidableEq, Repr

/-- What an empty register awaits (R18, R134): the reply of a generation requested under a thread key, or the
completion of a numbered asynchronous operation. -/
inductive Await where
  | reply (key : Nat) (gen : BitVec 16)
  | op (id : Nat)
  deriving DecidableEq, Repr

/-- Why a thread that is out of the rotation for want of room retries when an entry is freed. -/
inductive Room where
  /-- Two Hamper records in flight (R133). -/
  | records
  /-- The copy queue or range-lock table of the cluster is full (R201), or a command queue (R216). -/
  | copies
  /-- 64 invalidations outstanding on the die (R409). -/
  | invs
  /-- The die's launch queue is full (R372). -/
  | launchQueue
  deriving DecidableEq, Repr

/-- Where a thread stands (R19, R183, R392). -/
inductive Run where
  /-- In a position of the rotation (R392). -/
  | rotating
  /-- In the ready queue (R392). -/
  | ready
  /-- Parked on an empty register (R19). -/
  | parked (r : Reg)
  /-- Parked on an empty strand, in the wait list of its descriptor's home (R210). -/
  | strandWait (desc : Word)
  /-- Out of the rotation until an access completes (R183). -/
  | access
  /-- In the wait list of a full/empty word (R190). -/
  | feWait (id : Nat)
  /-- Awaiting an answer from another device or the host (R434, R443). -/
  | remote (id : Nat)
  /-- Awaiting room in a queue. -/
  | room (w : Room)
  /-- At barrier i of its party (R138). -/
  | barrier (i : Nat)
  /-- Awaiting the acceptance of its launch (R136). -/
  | launching
  /-- Awaiting its own asynchronous operations to halt (R140). -/
  | halting
  /-- Held by a page being filled, evicted or migrated (R361, R422), named by its first entry's address. -/
  | page (entry : Nat)
  /-- Its party is draining, staying or out (R423). -/
  | swapped
  /-- Stopped by a fatal event, awaiting a save block (R403). -/
  | stopped
  deriving DecidableEq, Repr

/-- The repetition state of a thread (R28) and its suspension by trap entry (R180): the number of handlers entered
since the repetition was suspended. -/
structure Rep where
  active : Bool := false
  len : BitVec 5 := 0
  pos : BitVec 4 := 0
  left : BitVec 32 := 0
  stride : BitVec 3 := 0
  stag : BitVec 48 := 0
  buf : List (BitVec 32) := []
  susp : Nat := 0
  deriving DecidableEq, Repr

/-- A special-function result on its way (R174): destination, the cycle it lands, value and active bits. -/
structure SfuPend where
  vd : Reg
  due : Nat
  value : VWord
  mask : Word
  width : Nat
  deriving DecidableEq, Repr

/-- A unit that reports its end: of a launch, of an Itinerary node's firing, or none (R371, R376). -/
inductive UnitRef where
  | none
  | launch (serial : Nat)
  | itin (serial node firing : Nat)
  deriving DecidableEq, Repr

/-- A call node's call in course (R279): its region, frame tag, node and activation frame. -/
structure CallRef where
  rid : Nat
  tag : BitVec 16
  node : BitVec 8
  f : Word
  deriving DecidableEq, Repr

/-- The caller of a frame, or of a T callee that runs as a frame would (R276, R279). -/
inductive Caller where
  | thread (op : Nat)
  | node (c : CallRef)
  | record (w7 : Word)
  | unit (u : UnitRef)
  deriving DecidableEq, Repr

/-- A thread's architectural and microarchitectural state (R17, R24 to R30, R41, R45). Log entry 3. -/
structure Thread where
  x : Tab Word := []
  empty : BitVec 32 := 0
  poison : BitVec 4 := 0
  v : Tab VWord := []
  k : Tab Word := []
  fmt : Word := 0
  sca0 : Word := 0
  sca1 : Word := 0
  sca2 : Word := 0
  sca3 : Word := 0
  pc : Word := 0
  level : Level := .user
  fflags : BitVec 5 := 0
  vrm : Word := 0
  utvec : Word := 0
  uepc : Word := 0
  ucause : Word := 0
  utval : Word := 0
  uscratch : Word := 0
  uact : Bool := false
  sstatus : BitVec 3 := 0
  sepc : Word := 0
  scause : Word := 0
  stval : Word := 0
  sscratch : Word := 0
  mstatus : BitVec 3 := 0
  mepc : Word := 0
  mcause : Word := 0
  mtval : Word := 0
  mscratch : Word := 0
  retain : Word := 0
  rep : Rep := {}
  strands : Tab Word := []
  rng : List (BitVec 32) := []
  launch : Word := 0
  nidx : BitVec 32 := 0
  psize : BitVec 7 := 0
  pidx : BitVec 7 := 0
  ctx : BitVec 12 := 0
  cls : Nat := 0
  inflight : Nat := 0
  replygen : BitVec 16 := 0
  awaits : Tab Await := []
  /-- The activation frame of the callee whose abandonment poisoned a0 to a3, and the device's copy of its frame status (R126). -/
  calleeF : Word := 0
  calleeStatus : Word := 0
  /-- The activation frame of each callx in course, and the thread key that its call record names, by its operation (R122, R123). -/
  callees : List (Nat × Word × Nat) := []
  ops : List Nat := []
  sfu : List SfuPend := []
  party : Nat := 0
  /-- Whom a T callee of a call node or of a tail answers at its halt, and its activation frame (R279, R280). -/
  answers : Option (Caller × Word) := none
  run : Run := .ready
  len : Word := 4
  /-- Answers that the group whose access waited has obtained, oldest first (R190, R422, R434). Log entry 12. -/
  grants : List Answer := []
  /-- Strand elements popped for a parked reader (R210): descriptor and element. -/
  popped : List (Word × Word) := []
  /-- Names the thread for as long as it lives, whatever its slot: its records in flight hold it (R133). -/
  uid : Nat := 0
  /-- Restored and not yet fetched since (R302). -/
  resumed : Bool := false
  /-- The group whose accesses are in course. -/
  flight : Flight := {}
  rot : Nat := 0
  beats : Nat := 0
  deriving DecidableEq, Repr

/-- A thread slot that holds no thread. -/
def Thread.blank : Thread := {}

/-- The role of a granule of a unified array (R345). -/
inductive Role where
  | l1
  | spad (party : Nat)
  | retained (ctx : BitVec 12) (succ : BitVec 16)
  deriving DecidableEq, Repr

/-- A granule: its role and the stash range it maps, if any (R212, R345). -/
structure Gran where
  role : Role := .l1
  stash : Option Word := none
  deriving DecidableEq, Repr

/-- The states of a command (R241); one that is checked is so within a turn. -/
inductive CmdSt where
  | queued | waiting | held | running | paused | filling
  deriving DecidableEq, Repr

/-- A Ply or near-bank command in its queue (R102, R216, R415): the eight words of its line, what its submission
captured, and its progress. `id` orders submissions and names its locks and its operation. -/
structure Cmd where
  id : Nat
  line : List Word
  fmt : Word
  sca0 : Word
  sca1 : Word
  sca2 : Word
  sca3 : Word
  party : Nat
  rng : List (BitVec 32)
  level : Level
  st : CmdSt := .queued
  started : Bool := false
  /-- Next k group or stripe. -/
  next : Nat := 0
  /-- The cycle at which the running group, stripe or command ends; 0 once it has stopped to be saved. -/
  ends : Nat := 0
  /-- The status that it ends with, before its end: of a failed scale page, of a cancellation (R428, R244); in the filling state,
  the one that it fills. -/
  fail : Option Nat := none
  exc : BitVec 5 := 0
  scales : List Nat := []
  /-- Its access to another device or the host whose answer it awaits (R434). -/
  far : Option Nat := none
  /-- The pages of its near-bank matrix, as its checks found them: first address, size, first device offset (R226). -/
  mat : List (Nat × Nat × Nat) := []
  deriving DecidableEq, Repr

/-- A Spindle (R343 to R347, R392 to R394; 07): positions, ready queue, slot table, granules with their bytes, command
windows and staging bytes of each context, accumulator tiles, and queues. Tables are keyed by context, then by the
numbers given. Log entry 3. -/
structure Spindle where
  pos : List (Option Nat) := List.replicate 8 none
  ready : List Nat := []
  plyslot : List Word := [0, 0, 0, 0]
  grans : List Gran := List.replicate 20 {}
  ua : Tab Byte := []
  /-- Window base of kind 0 (Ply) or 1 (near-bank), keyed ctx × 2 + kind (R212). -/
  win : Tab Word := []
  /-- Staging bytes, keyed (ctx × 2 + kind) × 4,096 + byte (R214). -/
  staging : Tab Byte := []
  /-- Tile elements as binary64, keyed ctx × 4,096 + tile × 1,024 + 32 i + j (R222). -/
  acc : Tab Word := []
  /-- Queues, keyed ctx × 2 + kind (R218). -/
  queue : Tab (List Cmd) := []
  /-- Contexts whose tiles the unit holds (R222). -/
  tiles : List (BitVec 12) := []
  /-- The context that holds the Ply unit at the moment (R221). -/
  unit : Option (BitVec 12) := none
  /-- Rotations still to be withheld in this interval, and whether this one is (R395). -/
  withheld : Nat := 0
  idle : Bool := false
  /-- The last generation each slot's thread left (R134), keyed by slot. -/
  gens : Tab (BitVec 16) := []
  deriving DecidableEq, Repr

/-- The swap states of a party (R423). -/
inductive Swap where
  | running | draining | staying | saving | out | queued | restoring
  deriving DecidableEq, Repr

/-- A thread of a party that is in its save block (R414), with what only the device keeps of it. -/
structure SavedThread where
  key : Nat
  area : Nat
  stopped : Bool
  rest : Thread
  deriving DecidableEq, Repr

/-- A party (R138, R364, R389, R413, R423). -/
structure Party where
  ctx : BitVec 12
  rid : Nat
  size : Nat
  live : Nat
  cls : Nat
  owner : UnitRef := .none
  succ : BitVec 16 := 0
  /-- Word 7 of the record that its task carries (R387). -/
  target : Word := 0
  /-- The key of the thread of each party index that is resident. -/
  keys : Tab Nat := []
  /-- Granules held on each Spindle index, in the order of R346. -/
  grans : Tab (List Nat) := []
  arrived : Tab Nat := []
  swap : Swap := .running
  /-- The pages the party awaits, by first-entry address: PEND is their number (R423). -/
  pend : List Nat := []
  block : Option Nat := none
  saved : List SavedThread := []
  /-- Saved by a SAVE command and not yet resumed (R412). -/
  held : Bool := false
  deriving DecidableEq, Repr

/-- A range lock (R205): lines [lo, hi], the operation that owns it, whether it guards a destination. -/
structure Lock where
  id : Nat
  ctx : BitVec 12
  party : Option Nat
  lo : Nat
  hi : Nat
  owner : Nat
  dest : Bool
  /-- Registered for physical addresses, by a monitor-level thread (R11). -/
  phys : Bool := false
  deriving DecidableEq, Repr

/-- The three copy forms (R199). -/
inductive CopyKind where
  | flat
  | rect (rows rowBytes : Nat) (dstStride srcStride : Int)
  | fill (pattern : Word)
  deriving DecidableEq, Repr

/-- A copy in the queue of a cluster (R201). -/
structure Copy where
  id : Nat
  key : Nat
  ctx : BitVec 12
  party : Nat
  level : Level
  dst : Word
  src : Word
  len : Nat
  kind : CopyKind
  scope : BitVec 2
  done : Nat := 0
  /-- The page that it waits for, by its first entry. -/
  held : Option Nat := none
  /-- Its access to another device or the host whose answer it awaits. -/
  far : Option Nat := none
  deriving DecidableEq, Repr

/-- The operations that wait on a full/empty word, and a strand reader (R190, R210). -/
inductive FeOp where
  | ldFe | ldFc
  | stEf (v : Word)
  | pop
  deriving DecidableEq, Repr

/-- An entry of an L2 slice's wait list (R354), oldest first. A remote waiter answers its device. -/
structure Waiter where
  id : Nat
  addr : Nat
  op : FeOp
  key : Option Nat
  deriving DecidableEq, Repr

/-- A record held by a Hamper (R380, R381, R386). -/
structure HEntry where
  set : Nat
  way : Nat
  record : HRecord
  arrival : Nat
  num : Nat
  cls : Nat
  due : Bool := false
  deriving DecidableEq, Repr

/-- What a dispatcher entry asks for (R388): a due record, a party of a launch, a firing of an Itinerary node, a
saved party or region image that resumes. -/
inductive DWhat where
  | record (num : Nat)
  | launch (serial party : Nat)
  | itin (serial node firing : Nat)
  | resume (party : Nat)
  | image (block : Nat)
  deriving DecidableEq, Repr

/-- An entry of a dispatcher (R388). -/
structure DEntry where
  num : Nat
  arrival : Nat
  cls : Nat
  what : DWhat
  /-- Frames of a party of a launch that have started (R369). -/
  begun : Nat := 0
  deriving DecidableEq, Repr

/-- A cached translation (R407, R408). `slot` tags a micro-TLB entry. -/
structure TlbEnt where
  ctx : BitVec 12
  slot : Nat
  base : Nat
  size : Nat
  pte : Word
  entry : Nat
  deriving DecidableEq, Repr

/-- A cluster (R15): copy engine, locks, wait list, Hamper, dispatcher, translation cache, power. -/
structure Cluster where
  copies : List Copy := []
  locks : List Lock := []
  waits : List Waiter := []
  records : List HEntry := []
  /-- Records on their way, in order of arrival (R134, R385). -/
  arrivals : List HRecord := []
  /-- Refused records and the cycle they arrive again (R384). -/
  refused : List (Nat × HRecord) := []
  entries : List DEntry := []
  reserved : Option Nat := none
  decisions : Nat := 0
  /-- Records in the cluster's spill rings: context, ring index and the fc of the first arrival (R385). -/
  firsts : List (BitVec 12 × Word × Nat) := []
  /-- Which context's ring the next reload serves first (R385). -/
  reloadTurn : Nat := 0
  powered : Bool := false
  wheld : Nat := 0
  tlb : List TlbEnt := []
  deriving DecidableEq, Repr

/-- The states of a frame-table entry (R33), coded 0 to 4 in this order (R418). -/
inductive FrameSt where
  | free | live | quiescent | evicted | faulted
  deriving DecidableEq, Repr

/-- A token at a port or on its way (R32, R101), and the node that sent it, or 256 (R250). -/
structure Tok where
  pay : Word
  cls : BitVec 2
  port : BitVec 2
  node : BitVec 8
  tag : BitVec 16
  src : Nat := 256
  deriving DecidableEq, Repr

/-- An entry of the frame table with what the region keeps of its activation (R31, R33, R275, R285, R288).
Log entry 3. -/
structure Frame where
  st : FrameSt := .free
  gen : BitVec 8 := 0
  cut : Word := 0
  /-- Bytes allotted to the record at the cut pointer (R418). -/
  allot : Nat := 0
  /-- Activation-frame address; none when it was started without one. -/
  f : Option Word := none
  args : List Word := []
  caller : Caller := .unit .none
  cls : Nat := 0
  /-- The device's copy of the frame status (R125), and the results as values. -/
  status : Word := 0
  results : List Word := [0, 0, 0, 0]
  marks : BitVec 16 := 0
  fmt : Word := 0
  sca : List Word := []
  /-- The ret nodes that have fired (R276). -/
  rets : List Nat := []
  /-- The arg nodes that have fired (R275, R284), and those that had at the last cut. -/
  argsFired : List Nat := []
  cutArgs : List Nat := []
  /-- Whether it has taken a cut, and the tokens its arg nodes emitted before its first (R288). -/
  isCut : Bool := false
  startToks : List Tok := []
  /-- An evicted frame whose cut record holds a completion token (R279). -/
  back : Bool := false
  /-- State words of stateful nodes, keyed by node (R285). -/
  nst : Tab (List Word) := []
  /-- Stream counts keyed by node (R252, R253, R259): firings since the last END, tokens sent to A, B, C and D since the
  last END there, and whether the pending END is a mismatch; and the counts at the last cut. -/
  counts : Tab (List Nat) := []
  cutCounts : Tab (List Nat) := []
  /-- Its calls in course (R279), and those that were at its last cut. -/
  calls : List CallRef := []
  cutCalls : List CallRef := []
  /-- The fc since which it is quiescent (R278). -/
  quietAt : Nat := 0
  /-- Whether the frame has fired a node since it started (R284). -/
  started : Bool := false
  deriving DecidableEq, Repr

/-- A buffered store of a port (R266). -/
structure BufStore where
  node : BitVec 8
  tag : BitVec 16
  addr : Word
  data : List Byte
  deriving DecidableEq, Repr

/-- A withheld token of a port (R271, R416): the node and frame it would fire, since when, and the failure. -/
structure Withheld where
  node : BitVec 8
  tag : BitVec 16
  since : Nat
  cause : Cause
  /-- The page it waits for, when that page is not resident or is migrating (R361). -/
  page : Option Nat := none
  moving : Bool := false
  /-- The port walks again now (R416). -/
  again : Bool := false
  deriving DecidableEq, Repr

/-- An access for a node of a frame, or for the sequencer of a region as node 255, to another device or the host: whose turn sent
it, the frame whose it is, the access and where it goes, the request, and its answer (R434). A load keeps the bytes that the frame's
own stores gave it when it was sent (R266); a store of a commit keeps its port (R285). -/
structure NodeFar where
  node : Nat
  tag : BitVec 16
  frame : BitVec 16
  id : Nat
  q : Req
  place : Place
  page : Nat × Nat
  op : RemoteOp
  own : List (Option Byte) := []
  commit : Option Nat := none
  answer : Option Answer := none
  deriving DecidableEq, Repr

/-- A Whorl region (R31; 08). Log entry 3. -/
structure Region where
  ctx : Option (BitVec 12) := none
  rpc : Nat := 0
  rcfg : List Word := []
  image : Word := 0
  header : List Word := []
  nodes : List Word := []
  /-- The frame table at keys 0 to 255; an evicted frame at 256 (n + 1) + its entry (R33). -/
  frames : Tab Frame := []
  mismatch : Bool := false
  stale : Bool := false
  fault : Bool := false
  drain : Bool := false
  /-- Tokens waiting at ports of the current configuration, in order of arrival. -/
  toks : List Tok := []
  /-- Buffered stores, keyed by port (R266). -/
  stores : Tab (List BufStore) := []
  withheld : List Withheld := []
  carry : List Tok := []
  target : Option Nat := none
  /-- The tiles that have taken their nodes of the target configuration (R284). -/
  taken : List Nat := []
  ranges : Tab (List TlbEnt) := []
  lastCtx : Tab (BitVec 12) := []
  inflight : Nat := 0
  area : Option Nat := none
  areaNext : Nat := 0
  remote : List NodeFar := []
  /-- Pages, by first entry, whose Read failed, and the node and tag whose access has yet to fail (R428). -/
  failed : List (Nat × Nat × BitVec 16) := []
  draining : Bool := false
  /-- The tiles that have fired in this ac (R248). -/
  busy : List Nat := []
  deriving DecidableEq, Repr

/-- A region image in a save block (R418): its cluster, why it waits, and what only the device keeps of the region. -/
structure Image where
  rid : Nat
  ctx : BitVec 12
  /-- The page that it waits for, after a drain that a page caused (R417). -/
  page : Option Nat := none
  /-- It stands in a dispatcher for placement. -/
  queued : Bool := false
  rest : Region
  deriving DecidableEq, Repr

/-- A launch in course (R363, R371). `serial` names it; `left` counts level-0 units not yet ended, `next` the next party
request to send. -/
structure Launch where
  serial : Nat
  words : List Word
  ctx : BitVec 12
  cls : Nat
  die : Nat
  isG : Bool := false
  next : Nat := 0
  parties : Nat := 0
  left : Nat := 0
  status : Nat := 0
  /-- The address of its record (R396). -/
  image : Word := 0
  /-- Sent to its dispatchers whole. -/
  sent : Bool := false
  /-- A domain launch of other devices that have not reported their end (R371). -/
  remoteLeft : Nat := 0
  deriving DecidableEq, Repr

/-- A running Itinerary instance (R374 to R379). Counters are in memory. -/
structure Itin where
  serial : Nat
  header : Word
  ctx : BitVec 12
  /-- Words 0 to 4 of the header, once the instance has begun. -/
  head : List Word := []
  /-- Firings that have not ended, parked ones among them: node and firing index. -/
  running : List (Nat × Nat) := []
  /-- Firings issued of each fixed-rate stage. -/
  fired : Tab Nat := []
  parked : List (Nat × Nat) := []
  /-- Firings about to be parked, and why. -/
  parking : List (Nat × Nat × Cause) := []
  /-- A request was discarded because its context was not active: no node is dispatched any more (R372). -/
  ending : Bool := false
  deriving DecidableEq, Repr

/-- Who waits for a page (R422, R424): a thread, a copy, a command, a memory port of a region. -/
inductive PWaiter where
  | thread (key party : Nat)
  | copy (rid id : Nat)
  | cmd (gsp id : Nat)
  | port (rid : Nat) (node : BitVec 8) (tag : BitVec 16)
  deriving DecidableEq, Repr

/-- An NVMe command as a Rambler submits it (R421): the storage port and one of its 32 queue pairs, the opcode, the namespace, the
first LBA and the count of blocks less 1, and the frame that its PRP list names. -/
structure Nvme where
  port : Nat
  pair : Nat
  opcode : Nat
  nsid : Nat
  slba : Nat
  nlb : Nat
  frame : Nat
  deriving DecidableEq, Repr

/-- A page request of a Rambler (R422): the page by its first entry, the non-resident entry it was made through, the slot
once it has one. `id` names its NVMe Read. -/
structure PageReq where
  id : Nat
  entry : Nat
  ctx : BitVec 12
  va : Nat
  pte : Word
  slot : Option Nat := none
  reading : Bool := false
  cmd : Option Nvme := none
  retried : Bool := false
  waiters : List PWaiter := []
  deriving DecidableEq, Repr

/-- An eviction in course (R427): accesses that used a removed translation complete first, then, for a page to be written back, its
Write, which `id` names; `serves` is the request that takes the slot. -/
structure Evict where
  id : Nat
  slot : Nat
  entry : Nat
  saved : Word
  va : Nat
  ctx : BitVec 12
  /-- The entries that had D set. -/
  dirty : List Nat := []
  /-- The uses of the removed translations that have not completed (R409). -/
  users : List Nat := []
  /-- The Write, once it is issued. -/
  cmd : Option Nvme := none
  /-- Whether the page is to be written back. -/
  write : Bool := true
  retried : Bool := false
  serves : Option Nat := none
  deriving DecidableEq, Repr

/-- The states of a migration (R360). -/
inductive MigSt where
  | invalidating | copying | installing
  deriving DecidableEq, Repr

/-- A page migration in course (R359 to R361). -/
structure Migration where
  id : Nat
  ctx : BitVec 12
  va : Nat
  size : Nat
  entry : Nat
  /-- The values that the page's entries held when it began. -/
  ptes : List Word
  /-- The old and the new frame. -/
  old : Nat
  new : Nat
  src : Nat
  dst : Nat
  st : MigSt := .invalidating
  /-- The uses of the removed translations that have not completed (R360). -/
  users : List Nat := []
  waiters : List PWaiter := []
  deriving DecidableEq, Repr

/-- An invalidation outstanding on a die (R148, R409): once every unit has removed what it selects, the accesses that used a
removed entry and have not completed. -/
structure Inv where
  id : Nat
  ctx : Option (BitVec 12)
  lo : Nat
  hi : Nat
  users : Option (List Nat) := none
  deriving DecidableEq, Repr

/-- A die: launch queue, Rambler, invalidations, last-level TLB and walker cache (R372, R407, R409, R420).
Log entry 3. -/
structure Die where
  launchQ : List Nat := []
  rbPool : Word := 0
  rbPoolN : Word := 0
  rbHand : Word := 0
  rbMres : Word := 0
  rbMresN : Word := 0
  rbErr : Word := 0
  reqs : List PageReq := []
  /-- Those who wait for a request to end because 512 are held, with the page each waits for (R422). -/
  reqWait : List PageReq := []
  evicts : List Evict := []
  /-- The page address that each pool slot's page was filled for. -/
  slotVa : Tab Nat := []
  invs : List Inv := []
  tlb : List TlbEnt := []
  /-- Cached table pointers: entry address and value (R407). -/
  walk : List (Nat × Word) := []
  itins : List Itin := []
  deriving DecidableEq, Repr

/-- What the device keeps of a context beside its descriptor (R398, R411, R412). -/
structure Ctx where
  saved : Bool := false
  saving : Bool := false
  frozen : Bool := false
  /-- Save blocks of its Ply states (R415). -/
  plyBlocks : List Nat := []
  /-- What only the device keeps of the commands in the Ply blocks. -/
  plyKeep : List Cmd := []
  /-- A pool that could not be read has been reported (R403). -/
  poolTold : Bool := false
  deriving DecidableEq, Repr

/-- Memory by device offset: cells with rising addresses, none equal to 0, which an unlisted address reads as (R342). -/
abbrev Memory := List Host.Cell

/-- An entry of a home slice (R351): the clusters that hold the line, none of them (uncached), several (shared) or one, and
whether that one has modified it (owned). -/
structure Dir where
  sharers : List Nat
  dirty : Bool
  deriving DecidableEq, Repr

/-- A line in the L1 slices of a cluster, by its number (offset / 64), and its way, in [0, 79] (R345, R349). -/
structure L1Line where
  rid : Nat
  line : Nat
  way : Nat
  deriving DecidableEq, Repr

/-- A line in a stash: its Spindle, and the address through which it was filled (R355, R356). -/
structure StashLine where
  gsp : Nat
  ctx : BitVec 12
  va : Nat
  deriving DecidableEq, Repr

/-- An error in a memory array (R342, R343): the line, whether it is in a stack's codeword or in a word of an L1, L2 or stash
array, and the number of symbols of the codeword, or bits of the word, that are wrong. Log entry 49. -/
structure Upset where
  line : Nat
  stack : Bool
  wrong : Nat
  deriving DecidableEq, Repr

/-- An access of this device to another device or the host in course (R434, R443): the port it left through, or none for
the host; the page whose entry it used; the unit that awaits it. -/
structure Remote where
  id : Nat
  dev : Nat
  off : Nat
  ctx : BitVec 12
  page : Nat × Nat
  op : RemoteOp
  port : Option Nat
  waiter : PWaiter
  deriving DecidableEq, Repr

/-- Boot and platform state (R446, R447, R450). -/
structure Boot where
  booted : Bool := false
  recovery : Bool := false
  /-- The boot flash image and the image offered through the DOE mailbox. -/
  flash : List Byte := []
  doe : List Byte := []
  /-- The digests of the bodies that run, and where the monitor's starts (R446, R449). -/
  monitorHash : List Byte := []
  supervisorHash : List Byte := []
  entry : Nat := 0
  /-- Whether power-on reset has run. -/
  done : Bool := false
  /-- Whether a Utsen port has been up (R450). -/
  trained : Bool := false
  deriving DecidableEq, Repr

/-- The units whose turn comes within one ac: an issue slot of a thread, the firing of a node for a frame, the head
command of a queue, or an event. -/
inductive Move where
  | issue (key : Nat)
  | fire (rid node : Nat) (tag : BitVec 16)
  | command (gsp ctx kind : Nat)
  | event (i : Instr) (a : EvArg)
  /-- The turns of a die's Itinerary engine and of its Rambler; an agent's second ac of an fc, and its end. Log entry 4. -/
  | itins (die : Nat)
  | rambler (die : Nat)
  | half (agent : Nat)
  | whole
  deriving DecidableEq, Repr

/-- The device. Log entries 1, 3. -/
structure State where
  part : Config.Part := Config.qbt4624
  cycle : Nat := 0
  -- memory
  mem : Memory := []
  empties : List Nat := []
  poisoned : List Nat := []
  /-- The entries of the home slices, by line number (R351). -/
  dir : Tab Dir := []
  l1 : List L1Line := []
  stashed : Tab StashLine := []
  /-- Granules of the L1 role that are powered down until a line fills them, as 20 × Spindle + granule (R347). -/
  gransOff : List Nat := []
  -- compute
  threads : Tab Thread := []
  spindles : Tab Spindle := []
  clusters : Tab Cluster := []
  regions : Tab Region := []
  /-- Region images by save block (R418). -/
  images : Tab Image := []
  utlb : Tab (List TlbEnt) := []
  parties : Tab Party := []
  -- launches and dispatch
  launches : Tab Launch := []
  nextSerial : Nat := 1
  -- dies
  dies : Tab Die := []
  migrations : List Migration := []
  -- device system registers
  stvec : Word := 0
  mtvec : Word := 0
  ctxtab : Word := 0
  mdeleg : Word := 0x3FFF
  stepping : BitVec 8 := 0
  -- context control
  ctxs : Tab Ctx := []
  ctxcmd : Word := 0
  ctxarg : Word := 0
  drainlim : Word := 0x14
  -- Utsen
  uport : Tab Word := []
  uportFails : Tab Nat := []
  uroute : Tab Word := []
  uimport : Tab Word := []
  remotes : List Remote := []
  remoteWaits : List Nat := []
  answersOut : List (Nat × Answer) := []
  /-- Serials of launches at domain level whose share this device has reported as ended, oldest first (R371). -/
  sharesEnded : List Nat := []
  devnum : Option (BitVec 10) := none
  -- host interface
  hcpage : Word := 0
  biascmd : Word := 0
  cwbase : Word := 0
  /-- Words of the MSI-X table; at reset each vector is masked, as PCIe defines it. -/
  msix : Tab Word := [(1, 0x100000000), (3, 0x100000000), (5, 0x100000000), (7, 0x100000000)]
  /-- Vectors pending, and vectors sent to the host, oldest first. -/
  msixPend : List Nat := []
  msixSent : List Nat := []
  /-- What host reads of the control window returned, oldest first (R439). -/
  hostReads : List (List Byte) := []
  /-- What the bias flip that runs holds (R441). -/
  flipWaits : List PWaiter := []
  hostBias : List Nat := []
  hostLines : List Nat := []
  hostModified : List Nat := []
  /-- Host lines of the aperture that a cluster holds modified: line address, cluster (R443, R444). -/
  aper : Tab Nat := []
  /-- Host lines that the device held modified at a hard reset (R444). -/
  hardMod : List Nat := []
  notices : List Word := []
  linkRate : Nat := 0
  linkWidth : Nat := 0
  /-- Answers to snoops, oldest first: the line, and 0 not held, 1 from the device copy, 2 poisoned data (R444). -/
  snoopAnswers : List (Nat × Nat) := []
  -- platform
  supPorts : BitVec 8 := 0
  pwrlim : Word := 2600
  pwrnow : Word := 0
  corrected : Tab Nat := []
  uncorrected : List Nat := []
  mgmtOut : List (List Byte) := []
  boot : Boot := {}
  -- the model's own fields
  agenda : List Move := []
  timed : List (Nat × Move) := []
  inputs : List (Nat × Instr × EvArg) := []
  /-- Errors that the memory arrays are to suffer, and when (R343). Log entry 49. -/
  upsets : List (Nat × Upset) := []
  cur : Nat := 0
  curNode : Nat × Nat × BitVec 16 := (0, 0, 0)
  curCmd : Nat × Nat × Nat := (0, 0, 0)
  ev : EvArg := .nil
  free : Nat := 0
  nextId : Nat := 1
  deriving DecidableEq, Repr

/-- The machine right after reset: every field as its rule gives (R2, R41, R44, R342, R410, R430 to R453), no thread, no
frame, no record, and the boot ROM's work next (R446, R447). Registers whose reset value no rule gives are 0: log
entry 3. Log entries 3, 46. -/
def State.reset : State := { agenda := [.event .powerOnReset .nil] }

end Sys2Proof.Machine
end

