-- ==== Sys2Proof/Machine/Ops.lean ====
section
/-! DEFINITION. Named operations over the state: units, registers, memory, full/empty words and their waiters, the
trap queue, save blocks, asynchronous completions, taking a trap and returning from one. -/

namespace Sys2Proof.Machine
open Sys2Proof

/-! Units. -/

/-- Global Spindle identifier, slot, region identifier and die of a thread key (R15). -/
def gspOf (key : Nat) : Nat := key / 16
def slotOf (key : Nat) : Nat := key % 16
def ridOf (key : Nat) : Nat := key / 128
def dieOf (rid : Nat) : Nat := rid / 24

/-- The thread whose turn it is. -/
def State.thr (s : State) : Thread := s.threads.getD Thread.blank s.cur
/-- Changes the thread whose turn it is. -/
def State.onThr (f : Thread → Thread) (s : State) : State :=
  { s with threads := s.threads.put s.cur (f s.thr) }
def State.thread (s : State) (key : Nat) : Thread := s.threads.getD Thread.blank key
def State.onThread (key : Nat) (f : Thread → Thread) (s : State) : State :=
  { s with threads := s.threads.put key (f (s.thread key)) }
def State.spindle (s : State) (g : Nat) : Spindle := s.spindles.getD {} g
def State.onSpindle (g : Nat) (f : Spindle → Spindle) (s : State) : State :=
  { s with spindles := s.spindles.put g (f (s.spindle g)) }
def State.cluster (s : State) (r : Nat) : Cluster := s.clusters.getD {} r
def State.onCluster (r : Nat) (f : Cluster → Cluster) (s : State) : State :=
  { s with clusters := s.clusters.put r (f (s.cluster r)) }
/-- A cluster powers up when its dispatcher places work (R451). -/
def State.powerUp (r : Nat) (s : State) : State := s.onCluster r (fun k => { k with powered := true })
def State.region (s : State) (r : Nat) : Region := s.regions.getD {} r
def State.onRegion (r : Nat) (f : Region → Region) (s : State) : State :=
  { s with regions := s.regions.put r (f (s.region r)) }
def State.die (s : State) (d : Nat) : Die := s.dies.getD {} d
def State.onDie (d : Nat) (f : Die → Die) (s : State) : State :=
  { s with dies := s.dies.put d (f (s.die d)) }
def State.party? (s : State) (p : Nat) : Option Party := Tab.find p s.parties
def State.onParty (p : Nat) (f : Party → Party) (s : State) : State :=
  match s.party? p with
  | some a => { s with parties := s.parties.put p (f a) }
  | none => s
def State.ctx (s : State) (c : BitVec 12) : Ctx := s.ctxs.getD {} c.toNat
def State.onCtx (c : BitVec 12) (f : Ctx → Ctx) (s : State) : State :=
  { s with ctxs := s.ctxs.put c.toNat (f (s.ctx c)) }

/-- The device's own number (R12, R432); 0 until it is set. -/
def State.own (s : State) : Nat := match s.devnum with
  | some d => d.toNat
  | none => 0

/-- Whether the cluster of a region identifier is present (R15, R454). Log entry 53. -/
def State.present (s : State) (rid : Nat) : Bool :=
  decide (rid < 96) && (s.part.cmask.getD (dieOf rid) 0).getLsbD (rid % 24)
/-- Present clusters of a die, ascending. -/
def State.clustersOf (s : State) (d : Nat) : List Nat := ((upto 24).map (24 * d + ·)).filter s.present

/-! Moves. -/

/-- Puts a move next. -/
def State.soon (m : Move) (s : State) : State := { s with agenda := m :: s.agenda }
/-- Puts an event next. -/
def State.soonEv (i : Instr) (a : EvArg) (s : State) : State := s.soon (.event i a)
/-- Puts a move behind those of this ac. -/
def State.later (m : Move) (s : State) : State := { s with agenda := s.agenda ++ [m] }
/-- A move at d ac from now. -/
def State.after (d : Nat) (m : Move) (s : State) : State := { s with timed := s.timed ++ [(s.cycle + d, m)] }
/-- The next free value's number. Log entry 2. -/
def State.draw (s : State) : Nat × State := (s.free, { s with free := s.free + 1 })
/-- A move after a latency that no rule binds (R183, R249). Log entry 2. -/
def State.eventually (m : Move) (s : State) : State :=
  let (n, s) := s.draw
  s.after (1 + Config.latency n) m
/-- A fresh identifier of an operation. -/
def State.newId (s : State) : Nat × State := (s.nextId, { s with nextId := s.nextId + 1 })

/-! Registers of a thread. -/

/-- x(r); x0 reads zero (R17). -/
def Thread.rx (t : Thread) (r : Reg) : Word := if r = 0 then 0 else t.x.getD 0 r.toNat
/-- Which of the poison marks of a0 to a3 a register carries (R126). -/
def poisonBit (r : Reg) : BitVec 4 := if 10 ≤ r.toNat ∧ r.toNat ≤ 13 then 1#4 <<< (r.toNat - 10) else 0
/-- Writes x(r), discarding a write to x0 (R17) and clearing its poison mark (R126). -/
def Thread.wx (t : Thread) (r : Reg) (v : Word) : Thread :=
  if r = 0 then t else { t with x := t.x.put r.toNat v, poison := t.poison &&& ~~~(poisonBit r) }
/-- The empty bit of a register (R18). -/
def Thread.isEmpty (t : Thread) (r : Reg) : Bool := r != 0 && t.empty.getLsbD r.toNat
def Thread.setEmpty (t : Thread) (r : Reg) (a : Await) : Thread :=
  if r = 0 then t else { t with empty := t.empty ||| (1#32 <<< r.toNat), awaits := t.awaits.put r.toNat a }
def Thread.setFull (t : Thread) (r : Reg) : Thread :=
  { t with empty := t.empty &&& ~~~(1#32 <<< r.toNat), awaits := t.awaits.del r.toNat }
def Thread.isPoisoned (t : Thread) (r : Reg) : Bool := t.poison &&& poisonBit r != 0
/-- The descriptor a register is bound to (R29). -/
def Thread.strand (t : Thread) (r : Reg) : Option Word := Tab.find r.toNat t.strands

def Thread.rv (t : Thread) (r : Nat) : VWord := t.v.getD 0 r
def Thread.wv (t : Thread) (r : Nat) (v : VWord) : Thread := { t with v := t.v.put r v }
/-- k(i); k0 reads all ones (R23). -/
def Thread.rk (t : Thread) (k : Nat) : Word := if k = 0 then BitVec.allOnes 64 else t.k.getD 0 k
def Thread.wk (t : Thread) (k : Nat) (v : Word) : Thread := if k = 0 then t else { t with k := t.k.put k v }

/-- A group of n vector registers as one number, element 0 lowest (R22). -/
def Thread.rvg (t : Thread) (r : Nat) : Nat → Nat
  | 0 => 0
  | n + 1 => (t.rv r).toNat + 2 ^ 512 * t.rvg (r + 1) n
/-- Writes a group of n vector registers (R22). -/
def Thread.wvg (t : Thread) (r : Nat) : Nat → Nat → Thread
  | 0, _ => t
  | n + 1, v => (t.wv r (BitVec.ofNat 512 v)).wvg (r + 1) n (v / 2 ^ 512)

/-- A thread in user, supervisor or monitor order. -/
def Level.below (a b : Level) : Bool := decide (a.code < b.code)

/-! Memory by device offset (R339, R342). -/

/-- The byte of an address; 0 where nothing is listed (R342). Log entry 51. -/
def Memory.read (m : Memory) (a : Nat) : Byte := Tab.getD 0 a m
/-- Writes a byte, keeping the canonical form: a 0 is not listed. Log entry 51. -/
def Memory.write (m : Memory) (a : Nat) (v : Byte) : Memory := if v = 0 then Tab.del a m else Tab.put a v m
/-- The canonical form: addresses rise and no byte is the 0 that an unlisted address reads as. Log entry 51. -/
def Memory.wf (m : Memory) : Bool :=
  match m with
  | [] => true
  | [(_, v)] => v != 0
  | (a, v) :: (b, w) :: t => v != 0 && decide (a < b) && Memory.wf ((b, w) :: t)

def Memory.readN (m : Memory) (a : Nat) : Nat → List Byte
  | 0 => []
  | n + 1 => m.read a :: Memory.readN m (a + 1) n
def Memory.writeN (m : Memory) (a : Nat) : List Byte → Memory
  | [] => m
  | b :: t => Memory.writeN (m.write a b) (a + 1) t

/-- Reads n bytes at a device offset as a number (R3). -/
def State.rd (s : State) (a n : Nat) : Nat := ofBytes (s.mem.readN a n)
/-- Writes n bytes of v at a device offset (R3). -/
def State.wr (s : State) (a n v : Nat) : State := { s with mem := s.mem.writeN a (toBytes n v) }
def State.rd8 (s : State) (a : Nat) : Word := BitVec.ofNat 64 (s.rd a 8)
def State.wr8 (s : State) (a : Nat) (v : Word) : State := s.wr a 8 v.toNat
def State.wrBytes (s : State) (a : Nat) (bs : List Byte) : State := { s with mem := s.mem.writeN a bs }
/-- Writes consecutive words. -/
def State.wrWords (s : State) (a : Nat) : List Word → State
  | [] => s
  | w :: t => (s.wr8 a w).wrWords (a + 8) t
def State.rdWords (s : State) (a : Nat) : Nat → List Word
  | 0 => []
  | n + 1 => s.rd8 a :: s.rdWords (a + 8) n

/-- Inserts into a rising list. -/
def insertNat (a : Nat) : List Nat → List Nat
  | [] => [a]
  | b :: t => if a < b then a :: b :: t else if a = b then b :: t else b :: insertNat a t

/-- The full/empty bit of the word at a device offset (R342): full unless listed. -/
def State.isFull (s : State) (a : Nat) : Bool := !s.empties.contains (a / 8 * 8)
def State.setFull (s : State) (a : Nat) (full : Bool) : State :=
  { s with empties := if full then s.empties.filter (· != a / 8 * 8) else insertNat (a / 8 * 8) s.empties }

/-- A full write of a poisoned line clears its poison (R343). Log entry 49. -/
def State.unpoison (s : State) (a n : Nat) : State :=
  { s with poisoned := s.poisoned.filter (fun l => !(decide (a ≤ l) && decide (l + 64 ≤ a + n))) }
/-- Whether a byte range touches a poisoned line (R343). Log entry 49. -/
def State.isPoisoned (s : State) (a n : Nat) : Bool :=
  s.poisoned.any (fun l => decide (l < a + n) && decide (a < l + 64))

/-! The physical map. -/

def gib64 : Nat := 0x1000000000
/-- First offset and size of a die's stacks (R339, R454). -/
def State.dieBase (s : State) (d : Nat) : Nat := ((s.part.nstk.take d).foldl (· + ·) 0) * gib64
def State.dieSize (s : State) (d : Nat) : Nat := s.part.nstk.getD d 0 * gib64
/-- Whether the stacks hold an offset. -/
def State.inStacks (s : State) (o : Nat) : Bool := decide (o < (s.part.nstk.foldl (· + ·) 0) * gib64)
/-- The die whose range holds an offset. -/
def State.dieAt (s : State) (o : Nat) : Nat :=
  if o < s.dieBase 1 then 0 else if o < s.dieBase 2 then 1 else if o < s.dieBase 3 then 2 else 3
/-- The region identifier of the home slice of a line (R341, R454). -/
def State.home (s : State) (o : Nat) : Nat :=
  let d := s.dieAt o
  let cs := s.clustersOf d
  cs.getD (((o - s.dieBase d) / 4096) % (max 1 cs.length)) (24 * d)

/-- The place of a device offset (R339, R430). -/
def State.placeOff (s : State) (o : Nat) : Place :=
  if s.inStacks o then .mem o
  else if 0xC000000000 ≤ o ∧ o ≤ 0xC00FFFFFFF then .window (o - 0xC000000000)
  else if 0xD000000000 ≤ o ∧ o ≤ 0xD00007FFFF then .utsen (o - 0xD000000000)
  else if 0xE000000000 ≤ o ∧ o ≤ 0xE000004FFF then .ctl (o - 0xE000000000)
  else if 0xF000000000 ≤ o ∧ o ≤ 0xF000003FFF then .hostif (o - 0xF000000000)
  else if 0xF000010000 ≤ o ∧ o ≤ 0xF000010FFF then .power (o - 0xF000010000)
  else if 0x10000000000 ≤ o ∧ o ≤ 0x1FFFFFFFFFF then .aperture (o - 0x10000000000)
  else .none
/-- The place of a physical address (R12). -/
def State.place (s : State) (pa : Nat) : Place :=
  let dev := field pa 51 42
  let o := field pa 41 0
  if 576 ≤ dev then .badDev else if dev = s.own then s.placeOff o else .remote dev o

/-- Device offset of the memory that a place names, if it is this device's memory (R438). -/
def State.placeMem (s : State) (p : Place) : Option Nat :=
  match p with
  | .mem o => some o
  | .window j => some (s.cwbase.toNat + j)
  | _ => none

/-- The home recalls every copy of a line: no cluster holds it (R351, R353). -/
def State.recall (line : Nat) (s : State) : State :=
  { s with
    l1 := s.l1.filter (fun e => e.line != line), stashed := s.stashed.del line
    dir := if (Tab.find line s.dir).isSome then s.dir.put line ⟨[], false⟩ else s.dir }

/-- Reads a word of a physical structure that the supervisor keeps (descriptors, tables, queues); 0 where the address
names no memory of this device. -/
def State.prd8 (s : State) (pa : Nat) : Word :=
  match s.placeMem (s.place pa) with
  | some o => s.rd8 o
  | none => 0
/-- Writes a word of such a structure: the home performs the write and recalls every copy of the line (R351). Log entry 50. -/
def State.pwr8 (s : State) (pa : Nat) (v : Word) : State :=
  match s.placeMem (s.place pa) with
  | some o => (s.wr8 o v).recall (o / 64)
  | none => s
def State.pwrEach (s : State) (pa : Nat) : List Word → State
  | [] => s
  | w :: t => (s.pwr8 pa w).pwrEach (pa + 8) t
/-- A run of words; the lines that it writes whole are poisoned no more (R343). -/
def State.pwrWords (s : State) (pa : Nat) (ws : List Word) : State :=
  match s.placeMem (s.place pa) with
  | some o => (s.pwrEach pa ws).unpoison o (8 * ws.length)
  | none => s
def State.prdWords (s : State) (pa : Nat) : Nat → List Word
  | 0 => []
  | n + 1 => s.prd8 pa :: s.prdWords (pa + 8) n

/-! Context descriptors (R13, R14). -/

/-- Physical address of word w of a context's descriptor (R13). -/
def State.descAddr (s : State) (c : BitVec 12) (w : Nat) : Nat := s.ctxtab.toNat + 128 * c.toNat + 8 * w
def State.desc (s : State) (c : BitVec 12) (w : Nat) : Word := s.prd8 (s.descAddr c w)
def State.ctxActive (s : State) (c : BitVec 12) : Bool := tbit (s.desc c 0) 0
def State.prioCeil (s : State) (c : BitVec 12) : Nat := fld (s.desc c 4) 2 0
/-- Whether a reserved bit of the descriptor is set (R13, R14). -/
def State.descReserved (s : State) (c : BitVec 12) : Bool :=
  let r (w : Nat) (m : Word) : Bool := s.desc c w &&& m != 0
  r 0 0xFFF0000000000FFE || r 1 0xFFF000000000003F || r 2 0xFFF000000000003F || r 3 0xFFF000000000003F
    || r 4 0x00000000FFFFFFF8 || (upto 9).any (fun i => s.desc c (7 + i) != 0)
/-- Whether a context is frozen (R398): its identifier serves a new one once ACTIVE is set again. -/
def State.isFrozen (s : State) (c : BitVec 12) : Bool := (s.ctx c).frozen && !s.ctxActive c
/-- Whether a unit of the context may start (R14). -/
def State.admits (s : State) (c : BitVec 12) : Bool := s.ctxActive c && !s.descReserved c
/-- SDELEG (R44): bits 5, 8 and 11. -/
def State.sdeleg (s : State) (c : BitVec 12) : Word := s.desc c 6 &&& 0x920

/-- The level of a context's frames and regions (R262, R396). -/
def ctxLevel (c : BitVec 12) : Level := if c = 0 then .supervisor else .user

/-! The trap queue (R396, R397). -/

structure TrapRec where
  kind : Nat
  cause : Cause
  loc : Word
  ftag : Nat := 0
  unit : Nat
  slot : Nat := 0
  level : Nat
  ctx : BitVec 12
  aux : Word := 0
  deriving DecidableEq, Repr

/-- The words of a record with TAIL t (R396). -/
def TrapRec.words (r : TrapRec) (time t : Nat) : List Word :=
  [ BitVec.ofNat 64 (r.cause.info % 2 ^ 32 * 2 ^ 32 + r.kind * 2 ^ 28 + r.cause.sub % 256 * 2 ^ 8
      + (if r.cause.replay then 16 else 0) + r.cause.cls),
    r.cause.tval, r.loc,
    BitVec.ofNat 64 (r.ftag * 2 ^ 48 + r.unit % 1024 * 2 ^ 16 + r.slot),
    BitVec.ofNat 64 (r.level * 2 ^ 16 + r.ctx.toNat), r.aux, BitVec.ofNat 64 time,
    BitVec.ofNat 64 (2 ^ 63 + t % 2 ^ 63) ]

/-- Places a record in its context's trap queue (R397). A fatal record that finds no place freezes the context. -/
def State.trapRecord (r : TrapRec) (s : State) : State :=
  let base := fld (s.desc r.ctx 1) 51 6 * 64
  let tail := s.prd8 base
  let head := s.prd8 (base + 8)
  let put (slot : Nat) (s : State) : State := s.pwrWords (base + 64 + 64 * slot) (r.words s.cycle tail.toNat)
  if (tail - head).toNat < 511 then (put (tail.toNat % 511) s).pwr8 base (tail + 1)
  else if r.kind ≠ 7 then
    let lost := s.prd8 (base + 16)
    if lost = BitVec.allOnes 64 then s else s.pwr8 (base + 16) (lost + 1)
  else if !tbit (s.prd8 (base + 64 + 64 * 511 + 56)) 63 then put 511 s
  else s.soonEv .ctxcmdFreeze (.freeze r.ctx r.kind r.cause.cls)

/-! Ready queues and wakes (R392). -/

/-- The thread joins the tail of its Spindle's ready queue. -/
def State.makeReady (key : Nat) (s : State) : State :=
  (s.onThread key (fun t => { t with run := .ready, rot := 0 })).onSpindle (gspOf key)
    (fun p => { p with ready := (p.ready.filter (· != slotOf key)) ++ [slotOf key] })

/-- Whether a thread's group is in flight with its parcels read. -/
def Thread.flying (t : Thread) : Bool := t.flight.on && !t.flight.parcels.isEmpty
/-- The completion of an access of a thread comes next, behind those that came before it: waiters that are served in one step go
on oldest first (R191). -/
def State.soonAnswer (key : Nat) (s : State) : State :=
  let isAnswer : Move → Bool := fun m => match m with
    | .event .memoryAccessCompletion _ => true
    | _ => false
  { s with agenda := s.agenda.takeWhile isAnswer ++ .event .memoryAccessCompletion (.access key none) :: s.agenda.dropWhile isAnswer }
/-- An answer comes to a thread out of the rotation: its group in flight goes on next, and one that has yet to be fetched or
checked issues again (R183, R191). Log entry 12. -/
def State.answer (key : Nat) (a : Answer) (s : State) : State :=
  let s := s.onThread key (fun t => { t with grants := t.grants ++ [a] })
  if (s.thread key).flying then s.soonAnswer key else s.makeReady key

def Run.isOut : Run → Bool
  | .rotating | .ready => false
  | _ => true

/-- Wakes every thread of the device that waits for room of a kind, to issue its group again. -/
def State.wakeRoom (w : Room) (s : State) : State :=
  s.threads.foldl (fun s (k, t) => if t.run = .room w then s.makeReady k else s) s

/-! Causes. -/

def tPage (sub info : Nat) (replay : Bool) (tval : Word) : Cause := ⟨3, sub, info, replay, tval⟩
def tPerm (sub info : Nat) (replay : Bool) (tval : Word) : Cause := ⟨4, sub, info, replay, tval⟩
def tIll (info : Nat) : Cause := ⟨0, 0, info, false, 0⟩
def tTag (tval : Word) : Cause := ⟨1, 0, 0, false, tval⟩
def tAlign (tval : Word) : Cause := ⟨2, 0, 0, false, tval⟩

/-- INFO of a failure without a walk (R399). Log entry 54. -/
def infoNoWalk (kind : Nat) : Nat := kind + 0xF0
/-- The cause of reading a part of a save area with a poisoned line in it (R343, R403). -/
def State.areaError (s : State) (pa n : Nat) : Option Cause :=
  (s.placeMem (s.place pa)).bind (fun o => (s.poisoned.find? (fun l => decide (l < o + n) && decide (o < l + 64))).map (fun l =>
    tPage 0x40 (infoNoWalk 0) false (BitVec.ofNat 64 (pa + l - o))))


/-! Save blocks (R413, R414). -/

/-- The pool of a context (R413). -/
def State.poolAt (c : BitVec 12) (s : State) : Nat := fld (s.desc c 3) 51 6 * 64
/-- The cause of taking a block whose pool word, or whose own link, stands in a poisoned line (R343, R403). -/
def State.poolError (c : BitVec 12) (s : State) : Option Cause :=
  (s.areaError (s.poolAt c) 8).or (if s.prd8 (s.poolAt c) = 0 then none else s.areaError (s.prd8 (s.poolAt c)).toNat 8)
/-- Takes the first free block of a context's pool (R413); none while the pool is empty, or cannot be read. -/
def State.takeBlock (c : BitVec 12) (s : State) : Option (Nat × State) :=
  let b := s.prd8 (s.poolAt c)
  if b = 0 ∨ (s.poolError c).isSome then none else some (b.toNat, s.pwr8 (s.poolAt c) (s.prd8 b.toNat))
/-- A save that found no block to take waits; a pool that cannot be read is a fatal event of the context, reported once for Spindle or
cluster `unit` (R403). Log entry 59. -/
def State.poolMet (c : BitVec 12) (unit : Nat) (s : State) : State :=
  let told := (s.ctx c).poolTold
  match s.poolError c with
  | none => if told then s.onCtx c (fun x => { x with poolTold := false }) else s
  | some e => if told then s else (s.onCtx c (fun x => { x with poolTold := true })).trapRecord {
      kind := 7, cause := e, loc := BitVec.ofNat 64 (s.poolAt c), unit := unit, level := (ctxLevel c).code, ctx := c }
/-- Returns a block to its pool. -/
def State.returnBlock (c : BitVec 12) (b : Nat) (s : State) : State :=
  (s.pwr8 b (s.prd8 (s.poolAt c))).pwr8 (s.poolAt c) (BitVec.ofNat 64 b)

/-- Swap-state codes of a party block (R423). -/
def Swap.code : Swap → Nat
  | .saving => 2
  | .out => 3
  | .queued => 4
  | .restoring => 5
  | _ => 0

/-- The words of a thread area (R414), its reserved bytes 0. -/
def Thread.area (t : Thread) (stopped : Bool) : List Word :=
  (upto 32).map (fun r => t.rx (BitVec.ofNat 5 r))
  ++ [t.empty.setWidth 64, (t.poison.setWidth 64) <<< 10]
  ++ (upto 32).flatMap (fun r => (upto 8).map (fun j => (t.rv r).extractLsb' (64 * j) 64))
  ++ (upto 8).map t.rk
  ++ [t.fmt, t.sca0, t.sca1, t.sca2, t.sca3, t.pc,
      BitVec.ofNat 64 (t.level.code + (if t.uact then 4 else 0) + (if stopped then 8 else 0) + t.replygen.toNat * 2 ^ 16),
      t.fflags.setWidth 64, t.vrm, t.utvec, t.uepc, t.ucause, t.utval, t.uscratch,
      t.sstatus.setWidth 64, t.sepc, t.scause, t.stval, t.sscratch,
      BitVec.ofNat 64 ((if t.rep.active then 1 else 0) + t.rep.len.toNat * 2 + t.rep.pos.toNat * 2 ^ 6
        + t.rep.stride.toNat * 2 ^ 10 + t.rep.left.toNat * 2 ^ 32),
      t.rep.stag.setWidth 64]
  ++ (upto 8).map (fun j => (t.rep.buf.getD (2 * j + 1) 0 ++ t.rep.buf.getD (2 * j) 0 : Word))
  ++ (upto 8).map (fun j => match t.strand (BitVec.ofNat 5 (24 + j)) with
      | some d => d ||| 1
      | none => 0)
  ++ (upto 8).map (fun j => (t.rng.getD (2 * j + 1) 0 ++ t.rng.getD (2 * j) 0 : Word))
  ++ [t.retain, t.launch, t.nidx ++ (0#9 ++ t.psize ++ 0#9 ++ t.pidx), BitVec.ofNat 64 t.inflight]
  ++ List.replicate 37 0

/-- The level of a code; code 10 is never held (R16). -/
def levelOf (c : Nat) : Level := if c = 0 then .user else if c = 1 then .supervisor else .monitor

/-- Fields of VRM, of a cause register and of RETAIN (R41, R42, R155, R347): their other bits read as 0 (R6). -/
def vrmMask : Word := 0xFF07
def causeMask : Word := 0xFFFFFFFF0000FF1F
def retainMask : Word := 0xFFFF0001

/-- A thread restored from its area (R414) over what the device kept of it. -/
def Thread.ofArea (t : Thread) (w : List Word) : Thread :=
  let g (i : Nat) : Word := w.getD i 0
  let st := g 304
  { t with
    x := (upto 31).map (fun r => (r + 1, g (r + 1)))
    empty := (g 32).setWidth 32
    poison := ((g 33) >>> 10).setWidth 4
    v := (upto 32).map (fun r => (r, BitVec.ofNat 512 (ofElems 64 ((upto 8).map (fun j => (g (34 + 8 * r + j)).toNat)))))
    k := (upto 7).map (fun r => (r + 1, g (291 + r)))
    fmt := g 298, sca0 := g 299, sca1 := g 300, sca2 := g 301, sca3 := g 302, pc := g 303
    level := levelOf (fld st 1 0), uact := tbit st 2, replygen := BitVec.ofNat 16 (fld st 31 16)
    fflags := (g 305).setWidth 5, vrm := g 306 &&& vrmMask
    utvec := g 307, uepc := g 308, ucause := g 309 &&& causeMask, utval := g 310, uscratch := g 311
    sstatus := (g 312).setWidth 3, sepc := g 313, scause := g 314 &&& causeMask, stval := g 315, sscratch := g 316
    rep := { t.rep with
      active := tbit (g 317) 0, len := BitVec.ofNat 5 (fld (g 317) 5 1), pos := BitVec.ofNat 4 (fld (g 317) 9 6),
      stride := BitVec.ofNat 3 (fld (g 317) 12 10), left := BitVec.ofNat 32 (fld (g 317) 63 32),
      stag := (g 318).setWidth 48,
      buf := (upto 16).map (fun k => BitVec.ofNat 32 (fld (g (319 + k / 2)) (32 * (k % 2) + 31) (32 * (k % 2)))) }
    strands := (upto 8).filterMap (fun j => if tbit (g (327 + j)) 0 then some (24 + j, g (327 + j) &&& ~~~1) else none)
    rng := (upto 16).map (fun k => BitVec.ofNat 32 (fld (g (335 + k / 2)) (32 * (k % 2) + 31) (32 * (k % 2))))
    retain := g 343 &&& retainMask, launch := g 344, nidx := BitVec.ofNat 32 (fld (g 345) 63 32)
    psize := BitVec.ofNat 7 (fld (g 345) 22 16), pidx := BitVec.ofNat 7 (fld (g 345) 6 0) }

/-- Physical address of the thread area of a party index (R413). -/
def areaAddr (block pidx : Nat) : Nat := block + 4096 + 3072 * pidx

/-- The header words of a party block: bytes 8 to 47 and the stash mappings (R413). -/
def State.writePartyHeader (p : Party) (b : Nat) (s : State) : State :=
  let used := (upto 8).foldl (fun n i => if (p.grans.getD [] i) ≠ [] ∨ p.keys.any (fun (_, k) => gspOf k % 8 == i)
    then n + 2 ^ i else n) 0
  let s := s.pwr8 (b + 8) (BitVec.ofNat 64 (p.ctx.toNat + 1 * 2 ^ 16))
  let s := s.pwr8 (b + 16) (BitVec.ofNat 64 (used + (p.size - 1) * 2 ^ 8 + p.rid * 2 ^ 16 + p.swap.code * 2 ^ 24))
  let s := s.pwr8 (b + 24) (BitVec.ofNat 64 p.pend.length)
  let cnt (i : Nat) : Nat := p.arrived.getD 0 i
  let s := s.pwr8 (b + 32) (BitVec.ofNat 64 (ofElems 8 ((upto 8).map cnt)))
  s.pwr8 (b + 40) (BitVec.ofNat 64 (ofElems 8 ((upto 8).map (fun i => cnt (8 + i)))))

/-- Frees a thread's slot (R140): its generation counter stays with the slot (R134). -/
def State.freeSlot (key : Nat) (s : State) : State :=
  let t := s.thread key
  { (s.onSpindle (gspOf key) (fun p => { p with
      pos := p.pos.map (fun o => if o = some (slotOf key) then none else o)
      ready := p.ready.filter (· != slotOf key)
      gens := p.gens.put (slotOf key) t.replygen })) with threads := s.threads.del key }

/-- Whether a mask of n elements has element i active; a wider form has no mask (R154). -/
def active (mask : Word) (n i : Nat) : Bool := decide (64 < n) || mask.getLsbD i
/-- Elements of a destination: active ones computed, the others kept. -/
def vMap (act : Nat → Bool) (old f : Nat → Nat) (n : Nat) : List Nat := (upto n).map (fun i => if act i then f i else old i)
/-- A special-function result lands in the active elements of vd (R174). -/
def SfuPend.land (p : SfuPend) (t : Thread) : Thread :=
  let n := 512 / p.width
  t.wv p.vd.toNat (BitVec.ofNat 512 (ofElems p.width (vMap (active p.mask n) (elem p.width (t.rv p.vd.toNat).toNat)
    (elem p.width p.value.toNat) n)))
/-- The special-function results of a thread that are due land. -/
def Thread.sfuLand (cycle : Nat) (t : Thread) : Thread :=
  let t' := (t.sfu.filter (fun p => decide (p.due ≤ cycle))).foldl (fun t p => p.land t) t
  { t' with sfu := t.sfu.filter (fun p => decide (cycle < p.due)) }
/-- All of them land: a save waits at most 24 ac for the last (R45). -/
def Thread.sfuAll (t : Thread) : Thread := { t.sfu.foldl (fun t p => p.land t) t with sfu := [] }
/-- What stays of a group that a save stops in a wait list (R192): nothing, so that it issues again at its pc; but strand elements
that it has popped, and answers that it has, are kept for it. Log entry 12. -/
def Thread.unissued (t : Thread) : Thread :=
  { t with flight :=
      if t.flight.on && (!t.grants.isEmpty || (t.flight.passed && !t.strands.isEmpty)) then
        { t.flight with landed := [], reached := [], fe := false }
      else {} }

/-- Saves a thread into its area of a block and frees its slot (R45, R414). -/
def State.saveThread (key block : Nat) (stopped : Bool) (s : State) : State :=
  let t := s.thread key
  let a := areaAddr block t.pidx.toNat
  let s := s.pwrWords a (t.area stopped)
  let e : SavedThread := {
    key := key, area := a, stopped := stopped,
    rest := { t.unissued with
      x := [], v := [], k := [], beats := 0
      run := match t.run with
        | .barrier i => .barrier i
        | .page e => .page e
        | _ => .ready } }
  let s := s.onParty t.party (fun p => { p with saved := p.saved ++ [e], keys := p.keys.del t.pidx.toNat })
  s.freeSlot key

/-- The thread stops at its group boundary (R403): into its party's block, taking one for it if the pool has one, else
waiting out of the rotation for a block; and first for its special-function results (R45). -/
def State.stopThread (key : Nat) (s : State) : State :=
  let t := s.thread key
  if !t.sfu.isEmpty then s.onThread key (fun t => { t with run := .stopped }) else
  match s.party? t.party with
  | none => s.onThread key (fun t => { t with run := .stopped })
  | some p => match p.block with
    | some b => s.saveThread key b true
    | none => match s.takeBlock t.ctx with
      | some (b, s) =>
        let p := { p with block := some b }
        ((s.onParty t.party (fun q => { q with block := some b })).writePartyHeader p b).saveThread key b true
      | none => (s.onThread key (fun t => { t with run := .stopped })).poolMet t.ctx (gspOf key)

/-- The firing that a unit is of its Itinerary node is to be parked (R379). -/
def State.parkUnit (u : UnitRef) (c : Cause) (s : State) : State :=
  match u with
  | .itin n node firing =>
    let e : Nat × Nat × Cause := (node, firing, c)
    let note (i : Itin) : Itin :=
      if i.serial = n ∧ i.running.contains (node, firing) ∧ !i.parked.contains (node, firing)
          ∧ i.parking.all (fun q => q.1 != node || q.2.1 != firing) then { i with parking := i.parking ++ [e] }
      else i
    { s with dies := s.dies.map (fun (d, r) => (d, { r with itins := r.itins.map note })) }
  | _ => s

/-- A fatal event of a thread (R403): a KIND 7 record, and the thread stops; its Itinerary node is parked (R379). -/
def State.fatal (key : Nat) (c : Cause) (s : State) : State :=
  let t := s.thread key
  let owner : UnitRef := match s.party? t.party with
    | some p => p.owner
    | none => .none
  ((s.trapRecord {
    kind := 7, cause := c, loc := t.pc, unit := gspOf key, slot := slotOf key, level := t.level.code,
    ctx := t.ctx }).stopThread key).parkUnit owner c

/-! Taking a trap and returning from one (R401, R402, R146). -/

/-- The word of a cause register (R42). -/
def Cause.word (c : Cause) : Word :=
  BitVec.ofNat 64 (c.info % 2 ^ 32 * 2 ^ 32 + c.sub % 256 * 2 ^ 8 + (if c.replay then 16 else 0) + c.cls % 16)

/-- Whether the handler of a level is active (R401). -/
def Thread.active (t : Thread) : Level → Bool
  | .user => t.uact
  | .supervisor => t.sstatus.getLsbD 2
  | .monitor => t.mstatus.getLsbD 2

/-- The level that takes a trap (R401), or none above monitor. `up` is the trap instruction's rule (R144). -/
def State.trapLevel (s : State) (t : Thread) (cls : Nat) (up : Bool) : Option Level :=
  let e := t.level
  let h := if s.mdeleg.getLsbD cls then Level.supervisor else .monitor
  let h := if h = .supervisor ∧ (s.sdeleg t.ctx).getLsbD cls ∧ t.utvec ≠ 0 ∧ e = .user then Level.user else h
  let h? : Option Level :=
    if up then
      if e.below h then some h else (match e with
        | .user => some .supervisor
        | .supervisor => some .monitor
        | .monitor => none)
    else some (if h.below e then e else h)
  match h? with
  | none => none
  | some h =>
    let cand := [Level.user, .supervisor, .monitor].filter (fun l => !l.below h)
    cand.find? (fun l => !t.active l)

/-- The vector register of a level (R402). -/
def State.vector (s : State) (t : Thread) : Level → Word
  | .user => t.utvec
  | .supervisor => s.stvec
  | .monitor => s.mtvec

/-- What entry saves: EPC, CAUSE and TVAL of the level, and who was interrupted (R402). -/
def Thread.enter (t : Thread) (h : Level) (epc : Word) (c : Cause) : Thread :=
  match h with
  | .user => { t with uepc := epc, ucause := c.word, utval := c.tval, uact := true }
  | .supervisor => { t with sepc := epc, scause := c.word, stval := c.tval,
                            sstatus := BitVec.ofNat 3 (4 + t.level.code) }
  | .monitor => { t with mepc := epc, mcause := c.word, mtval := c.tval,
                         mstatus := BitVec.ofNat 3 (4 + t.level.code) }

/-- Trap entry of the thread whose turn it is (R401, R402): the level that delegation picks saves the pc and the cause,
its handler becomes active, and the pc goes to its vector; a repetition is suspended (R180). A replayable trap taken
above user level also writes a record (R400). Log entry 54. -/
def State.takeTrap (c : Cause) (epc : Word) (up : Bool) (s : State) : State :=
  let t := s.thr
  match s.trapLevel t c.cls up with
  | none => s.fatal s.cur c
  | some h =>
    let v := s.vector t h
    let s1 := s.onThr (fun t => t.enter h epc c)
    if field v.toNat 2 0 ≠ 0 ∨ v = 0 then s1.fatal s.cur c
    else
      let s2 := s1.onThr (fun t => { t with
        level := h, pc := v, poison := 0,
        rep := if t.rep.active then { t.rep with susp := t.rep.susp + 1 } else t.rep })
      if c.replay ∧ h ≠ .user then
        let aux := match s.party? t.party with
          | some p => p.block.getD 0
          | none => 0
        s2.trapRecord { kind := 0, cause := c, loc := t.pc, unit := gspOf s.cur, slot := slotOf s.cur,
                        level := t.level.code, ctx := t.ctx, aux := BitVec.ofNat 64 aux }
      else s2

/-! Control-transfer checks (R118). -/

/-- The checks of a transfer's target at a level (R118). -/
def targetCheck (lvl : Level) (t : Word) : Option Cause :=
  if fld t 63 57 ≠ 0 ∨ (lvl = .monitor ∧ fld t 63 52 ≠ 0) then some (tPage 0x01 (infoNoWalk 3) false t)
  else if lvl = .user ∧ tbit t 56 then some (tPerm 0x01 (infoNoWalk 3) false t)
  else none

/-- Return from a trap (R146): the level that tret enters and the address it takes, or the T-ILL of a reserved level. -/
def Thread.returnTo (t : Thread) : Except Cause (Level × Word) :=
  match t.level with
  | .user => .ok (.user, t.uepc)
  | .supervisor => if t.sstatus.toNat % 4 ≤ 1 then .ok (levelOf (t.sstatus.toNat % 4), t.sepc) else .error (tIll 0)
  | .monitor => if t.mstatus.toNat % 4 = 2 then .error (tIll 0) else .ok (levelOf (t.mstatus.toNat % 4), t.mepc)

/-- What tret changes (R146, R402): the active bit of the level it leaves, the level, and a suspended repetition resumes
(R180). -/
def Thread.leave (t : Thread) (new : Level) : Thread :=
  let t := match t.level with
    | .user => { t with uact := false }
    | .supervisor => { t with sstatus := t.sstatus &&& 3 }
    | .monitor => { t with mstatus := t.mstatus &&& 3 }
  { t with level := new, rep := { t.rep with susp := t.rep.susp - 1 } }

/-! Full/empty waiters (R190, R191). -/

/-- What a waiter gets when it is served. Log entry 27. -/
def State.serveOne (w : Waiter) (ans : Word) (s : State) : State :=
  match w.key with
  | some k => s.answer k (.done ans 0)
  | none => { s with answersOut := s.answersOut ++ [(w.id, .done ans 0)],
                     remoteWaits := s.remoteWaits.filter (· != w.id) }

/-- One pass over the waiters of a word, oldest first: the list that is left, whether any was served (R191). -/
def State.feePass (a : Nat) : List Waiter → State → List Waiter × Bool × State
  | [], s => ([], false, s)
  | w :: t, s =>
    let keep := fun (s : State) =>
      let (l, b, s') := State.feePass a t s
      (w :: l, b, s')
    let gone := fun (s : State) =>
      let (l, _, s') := State.feePass a t s
      (l, true, s')
    if w.addr ≠ a then keep s else
    match w.op with
    | .ldFe => if s.isFull a then gone (s.serveOne w (s.rd8 a)) else keep s
    | .ldFc => if s.isFull a then gone ((s.serveOne w (s.rd8 a)).setFull a false) else keep s
    | .stEf v => if s.isFull a then keep s else gone (((s.serveOne w 0).wr8 a v).setFull a true)
    | .pop => keep s

/-- Serves the waiters of a word until none can be served (R191): each pass serves at least one. -/
def State.feeServe (a rid : Nat) : Nat → State → State
  | 0, s => s
  | n + 1, s =>
    let (l, served, s') := State.feePass a (s.cluster rid).waits s
    let s'' := s'.onCluster rid (fun c => { c with waits := l })
    if served then State.feeServe a rid n s'' else s''

/-- After a change of the bit of the word at device offset a (R191). -/
def State.feeChanged (a : Nat) (s : State) : State :=
  let rid := s.home a
  s.feeServe a rid ((s.cluster rid).waits.length + 1)

/-- Fills the word at device offset a with v and sets it full, serving waiters (R189, R219). -/
def State.fillWord (a : Nat) (v : Word) (s : State) : State := ((s.wr8 a v).setFull a true).feeChanged a

/-! Completion of asynchronous operations (R18, R20, R140). -/

/-- Registers of a thread that await an operation. -/
def Thread.awaiting (t : Thread) (a : Await) : List Reg :=
  t.awaits.filterMap (fun (r, b) => if b = a then some (BitVec.ofNat 5 r) else none)

/-- A thread parked on a register that filled rejoins the ready queue (R19). -/
def State.unpark (key : Nat) (r : Reg) (s : State) : State :=
  if (s.thread key).run = .parked r then s.makeReady key else s

/-- Fills register r of a resident thread (R18). -/
def State.fillReg (key : Nat) (r : Reg) (v : Word) (s : State) : State :=
  (s.onThread key (fun t => (t.wx r v).setFull r)).unpark key r

/-- Fills register r of a saved thread: value, empty bit and poison mark of its area (R20, R126). -/
def State.fillSaved (p : Nat) (e : SavedThread) (r : Reg) (v : Word) (s : State) : State :=
  let s := s.pwr8 (e.area + 8 * r.toNat) v
  let s := s.pwr8 (e.area + 256) (s.prd8 (e.area + 256) &&& ~~~(1#64 <<< r.toNat))
  let s := s.pwr8 (e.area + 264) (s.prd8 (e.area + 264) &&& ~~~((poisonBit r).setWidth 64 <<< 10))
  s.onParty p (fun q => { q with saved := q.saved.map (fun f =>
    if f.area = e.area then { f with rest := f.rest.setFull r } else f) })

/-- The thread, resident (left) or saved (right, with its party), that satisfies a test on what the device keeps. -/
def State.findThread (f : Thread → Bool) (s : State) : Option (Nat ⊕ (Nat × SavedThread)) :=
  match s.threads.find? (fun (_, t) => f t) with
  | some (k, _) => some (.inl k)
  | none => s.parties.findSome? (fun (p, q) => (q.saved.find? (fun e => f e.rest)).map (fun e => .inr (p, e)))

/-- Fills a register wherever its thread is. -/
def State.fillAt (w : Nat ⊕ (Nat × SavedThread)) (r : Reg) (v : Word) (s : State) : State :=
  match w with
  | .inl k => s.fillReg k r v
  | .inr (p, e) => s.fillSaved p e r v

/-- Changes what the device keeps of a thread wherever it is. -/
def State.onAt (w : Nat ⊕ (Nat × SavedThread)) (f : Thread → Thread) (s : State) : State :=
  match w with
  | .inl k => s.onThread k f
  | .inr (p, e) => s.onParty p (fun q => { q with saved := q.saved.map (fun g =>
      if g.area = e.area then { g with rest := f g.rest } else g) })

/-- Operation id of a thread has completed: a thread that waits to halt for it is ready again (R140). -/
def State.opDone (id : Nat) (s : State) : State :=
  match s.findThread (fun t => t.ops.contains id) with
  | none => s
  | some w =>
    let s := s.onAt w (fun t => { t with ops := t.ops.filter (· != id) })
    match w with
    | .inl k => if (s.thread k).run = .halting then s.makeReady k else s
    | .inr _ => s

/-- Completion of operation id with value v into the register that awaits it, if any (R18, R20, R21). -/
def State.fillOp (id : Nat) (v : Word) (s : State) : State :=
  let s := match s.findThread (fun t => t.awaiting (.op id) != []) with
    | none => s
    | some w =>
      let t := match w with
        | .inl k => s.thread k
        | .inr (_, e) => e.rest
      (t.awaiting (.op id)).foldl (fun s r => s.fillAt w r v) s
  s.opDone id

end Sys2Proof.Machine
end

