-- ==== Sys2Proof/Machine/Caches.lean ====
section
/-! DEFINITION. The stacks' units and pseudo-channels (11, R340), and who holds the lines of memory: the L1 slices, the stashes,
the home slices with their directory (R345 to R356), and errors of the arrays (R342, R343). The data of a line stands once, in
`mem`: its copies always agree (log entry 50). -/

namespace Sys2Proof.Machine
open Sys2Proof

/-! The stacks (R340). -/

/-- Size of a unit of the stacks. -/
def unitSize : Nat := 512
/-- The die, the stack of the device, counted upward, and the pseudo-channel that hold the byte at a device offset (R340). -/
def State.channelOf (s : State) (o : Nat) : Nat × Nat × Nat :=
  let d := s.dieAt o
  let u := (o - s.dieBase d) / unitSize
  let c := u % (96 * max 1 (s.part.nstk.getD d 0))
  (d, (s.part.nstk.take d).foldl (· + ·) 0 + c / 96, c % 96)

/-! Sets and ways (R349). -/

/-- The Spindle of a cluster whose L1 slice alone may hold a line: o[10:8]. -/
def sliceOf (rid line : Nat) : Nat := 8 * rid + line / 4 % 8
/-- The set of a line in its slice: o[14:11] × 4 + o[7:6]. -/
def l1Set (line : Nat) : Nat := line / 32 % 16 * 4 + line % 4
/-- Whether a Spindle's L1 slice has a way: its granule has the L1 role. -/
def State.hasWay (s : State) (g way : Nat) : Bool := ((s.spindle g).grans.getD (way / 4) {}).role == .l1

/-! Giving up copies. -/

/-- Gives up every copy of the lines that satisfy a test, with their entries: modified ones are written back. -/
def State.linesDrop (f : Nat → Bool) (s : State) : State :=
  { s with
    l1 := s.l1.filter (fun e => !f e.line), stashed := s.stashed.filter (fun (l, _) => !f l)
    dir := s.dir.filter (fun (l, _) => !f l) }
/-- A cluster gives up its copy of a line, written back if it is modified. -/
def State.lineGive (rid line : Nat) (s : State) : State :=
  { s with
    l1 := s.l1.filter (fun e => e.line != line || e.rid != rid)
    stashed := s.stashed.filter (fun (l, e) => l != line || e.gsp / 8 != rid)
    dir := match Tab.find line s.dir with
      | some e => s.dir.put line ⟨e.sharers.filter (· != rid), e.dirty && !e.sharers.contains rid⟩
      | none => s.dir }
/-- A cluster gives up every copy that it holds (R451). -/
def State.clusterGive (rid : Nat) (s : State) : State :=
  { s with
    l1 := s.l1.filter (fun e => e.rid != rid), stashed := s.stashed.filter (fun (_, e) => e.gsp / 8 != rid)
    dir := s.dir.map (fun (l, e) => (l, ⟨e.sharers.filter (· != rid), e.dirty && !e.sharers.contains rid⟩)) }
/-- Stash lines that satisfy a test are written back and dropped (R213, R356). -/
def State.stashDrop (f : StashLine → Bool) (s : State) : State :=
  (s.stashed.filter (fun (_, e) => f e)).foldl (fun s (l, e) => s.lineGive (e.gsp / 8) l) s
/-- The L1 lines in granules of a Spindle are written back and dropped (R347). -/
def State.waysDrop (g : Nat) (ns : List Nat) (s : State) : State :=
  (s.l1.filter (fun e => sliceOf e.rid e.line == g && ns.contains (e.way / 4))).foldl (fun s e => s.lineGive e.rid e.line) s

/-! Taking copies. -/

/-- Makes room for a line's entry in its home slice, 16-way and 3 MiB: an entry that is evicted recalls every copy first (R351).
Log entry 2. -/
def State.dirRoom (line : Nat) (s : State) : State :=
  if s.dir.length < 16 ∨ (Tab.find line s.dir).isSome then s
  else
    let same (k : Nat) : Bool := s.home (64 * k) == s.home (64 * line) && Config.l2Set k % 3072 == Config.l2Set line % 3072
    let set := s.dir.filter (fun (k, _) => same k)
    if set.length < 16 then s
    else
      let (n, s) := s.draw
      match set[Config.victim n % set.length]? with
      | some (k, _) => s.linesDrop (· == k)
      | none => s
/-- A cluster's L1 takes a line: in a free way of its set, else in place of a line of the set (R349). Its granule is powered
from then on (R347). Log entry 50. -/
def State.l1Fill (rid line : Nat) (s : State) : State :=
  if s.l1.any (fun e => e.rid == rid && e.line == line) then s
  else
    let g := sliceOf rid line
    let set := s.l1.filter (fun e => sliceOf e.rid e.line == g && l1Set e.line == l1Set line)
    let put (w : Nat) (s : State) : State :=
      { s with l1 := ⟨rid, line, w⟩ :: s.l1, gransOff := s.gransOff.filter (· != 20 * g + w / 4) }
    match (upto 80).find? (fun w => s.hasWay g w && set.all (fun e => e.way != w)) with
    | some w => put w s
    | none =>
      let (n, s) := s.draw
      match set[Config.victim n % set.length]? with
      | some e => put e.way (s.lineGive e.rid e.line)
      | none => s

/-- Whether a device offset lies in a window page in host bias (R438). -/
def State.hostBiased (s : State) (o : Nat) : Bool :=
  decide (s.cwbase.toNat ≤ o ∧ o < s.cwbase.toNat + 0x10000000) && s.hostBias.contains ((o - s.cwbase.toNat) / 4096)
/-- A device access to a line in host bias goes through the host agent: no cache of the device holds the line, and the host gives
up what stands in its way, its copy for a write, its modified copy for a read (R439). Log entry 45. -/
def State.hostYield (o : Nat) (w : Bool) (s : State) : State :=
  let l := (o - s.cwbase.toNat) / 64 * 64
  { s with
    hostModified := s.hostModified.filter (· != l)
    hostLines := if w then s.hostLines.filter (· != l) else s.hostLines }

/-- An access by an agent of a cluster to a line of memory, and who holds the line then (R213, R350 to R352, R439): a read of a
line that stands in a stash is served there; any other makes the cluster's L1 hold the line, for a write alone.
Log entry 50. -/
def State.dirTouch (rid off : Nat) (w : Bool) (s : State) : State :=
  let l := off / 64
  if s.hostBiased off then s.hostYield off w
  else if !w && (Tab.find l s.stashed).isSome then s
  else
    let s := s.dirRoom l
    let e := s.dir.getD ⟨[], false⟩ l
    State.l1Fill rid l { s with
      l1 := if w then s.l1.filter (fun x => x.line != l || x.rid == rid) else s.l1
      stashed := s.stashed.del l
      dir := s.dir.put l (if w then ⟨[rid], true⟩ else if e.dirty ∧ e.sharers = [rid] then e else ⟨insertNat rid e.sharers, false⟩) }
/-- The home performs an operation on a line itself: it recalls every copy first (R190, R353). -/
def State.homeTakes (off : Nat) (s : State) : State :=
  if s.hostBiased off then s.hostYield off true
  else
    let s := (s.dirRoom (off / 64)).recall (off / 64)
    { s with dir := s.dir.put (off / 64) ⟨[], false⟩ }
/-- Another device, the host or an engine accesses a line at its home: a write leaves no copy, a read no modified one (R351). -/
def State.homeAccess (off : Nat) (w : Bool) (s : State) : State :=
  if w then s.recall (off / 64)
  else { s with dir := match Tab.find (off / 64) s.dir with
    | some e => if e.dirty then s.dir.put (off / 64) { e with dirty := false } else s.dir
    | none => s.dir }

/-! The stash (R212, R213, R355). -/

/-- Whether a granule of Spindle g that a party of the context holds maps the address as stash. -/
def State.stashMaps (s : State) (g : Nat) (c : BitVec 12) (va : Nat) : Bool :=
  (s.spindle g).grans.any (fun r => match r.role, r.stash with
    | .spad p, some b => decide (b.toNat ≤ va ∧ va < b.toNat + 16384) && (match s.party? p with
      | some a => a.ctx == c
      | none => false)
    | _, _ => false)
/-- Spindle g's stash takes or keeps a line, the cluster's only copy; another stash that holds it gives it up (R213, R355,
R356). -/
def State.stashFill (g : Nat) (c : BitVec 12) (va off : Nat) (w : Bool) (s : State) : State :=
  let l := off / 64
  let s := s.dirRoom l
  let e := s.dir.getD ⟨[], false⟩ l
  { s with
    l1 := s.l1.filter (fun x => x.line != l)
    stashed := s.stashed.put l ⟨g, c, va / 64 * 64⟩
    dir := s.dir.put l ⟨[g / 8], w || (e.dirty && e.sharers == [g / 8])⟩ }
/-- The caches after a thread's access to a line of memory: its stash takes or keeps the line; a full/empty operation or an atomic
is the home's; any other access goes through the L1 (R213, R350, R353). -/
def State.lineTouch (g : Nat) (c : BitVec 12) (va off : Nat) (w plain : Bool) (s : State) : State :=
  if !plain then s.homeTakes off
  else if s.thr.level != .monitor && !s.hostBiased off && s.stashMaps g c va then s.stashFill g c va off w
  else s.dirTouch (g / 8) off w

/-! Errors of the arrays (R342, R343). -/

/-- An error of an array. The code of a stack's line corrects one wrong symbol, that of an array word one wrong bit; a corrected
error is counted for the management path. More are uncorrectable: the line is poisoned, and its address reported; but a clean
line of a cache is fetched again. Log entry 49. -/
def State.upset (u : Upset) (s : State) : State :=
  let array := if u.stack then 0 else 1
  let clean := match Tab.find u.line s.dir with
    | some e => !e.dirty
    | none => true
  if u.wrong = 0 then s
  else if u.wrong = 1 then { s with corrected := s.corrected.put array (s.corrected.getD 0 array + 1) }
  else if !u.stack && clean then s.recall u.line
  else { s with
    poisoned := insertNat (64 * u.line) s.poisoned
    uncorrected := s.uncorrected ++ [64 * u.line] }
/-- The errors of an ac. -/
def State.upsetsDue (s : State) : State :=
  (s.upsets.filter (fun (t, _) => decide (t ≤ s.cycle))).foldl (fun s (_, u) => s.upset u)
    { s with upsets := s.upsets.filter (fun (t, _) => decide (s.cycle < t)) }

end Sys2Proof.Machine
end

