-- ==== Sys2Proof/Machine/Trans.lean ====
section
/-! DEFINITION. Translation (13, R399, R404 to R409, R419; 01, R9 to R12): the walk, its checks, the translation
caches, and routes to other devices (R434). -/

namespace Sys2Proof.Machine
open Sys2Proof

def AKind.code : AKind → Nat
  | .load => 0
  | .store => 1
  | .rmw => 2
  | .fetch => 3
  | .place => 4
def AKind.writes : AKind → Bool
  | .store | .rmw => true
  | _ => false
def AKind.isCode : AKind → Bool
  | .fetch | .place => true
  | _ => false

/-! Page-table entries (R404). -/

def pteV (e : Word) : Bool := tbit e 0
def pteT (e : Word) : Bool := tbit e 1
def pteR (e : Word) : Bool := tbit e 2
def pteW (e : Word) : Bool := tbit e 3
def pteX (e : Word) : Bool := tbit e 4
def pteU (e : Word) : Bool := tbit e 5
def pteA (e : Word) : Bool := tbit e 6
def pteD (e : Word) : Bool := tbit e 7
def ptePS (e : Word) : Nat := fld e 9 8
def pteBR (e : Word) : Bool := tbit e 10
def pteSB (e : Word) : Bool := tbit e 11
def pteADDR (e : Word) : Nat := fld e 51 12 * 4096
def ptePIN (e : Word) : Bool := tbit e 52
def pteRET (e : Word) : Bool := tbit e 53
def pteWATCH (e : Word) : Bool := tbit e 54
def pteRES (e : Word) : Bool := tbit e 55
def pteBDX (e : Word) : Nat := fld e 62 57
/-- A non-resident storage-backed entry (R419). -/
def pteNonRes (e : Word) : Bool := pteSB e && !pteRES e

/-- Word w of the backing descriptor that a non-resident entry names (R419). -/
def State.bdWord (s : State) (e : Word) (w : Nat) : Word := s.prd8 (pteADDR e + 64 * pteBDX e + 8 * w)
/-- A descriptor that keeps R419 and covers address a. -/
def State.bdOk (s : State) (e : Word) (a : Nat) : Bool :=
  let b (w : Nat) : Word := s.bdWord e w
  decide ((b 0).toNat % 65536 = 0) && fld (b 2) 63 41 == 0 && [9, 12].contains (fld (b 2) 39 36)
    && decide (fld (b 2) 35 32 ≤ 7) && [4, 5, 6, 7].all (fun w => b w == 0)
    && decide ((b 0).toNat ≤ a ∧ a < (b 0).toNat + 65536 * (b 3).toNat)

/-- Page sizes of PS codes (R404). -/
def pageSize (ps : Nat) : Nat :=
  match ps with
  | 0 => 0x1000
  | 1 => 0x10000
  | 2 => 0x200000
  | _ => 0x4000000

/-- Whether a range of a frame meets a platform range of this device (R430). -/
def State.meetsPlatform (s : State) (pa size : Nat) : Bool :=
  decide (field pa 51 42 = s.own) &&
  [(0xC000000000, 0xC00FFFFFFF), (0xD000000000, 0xD00007FFFF), (0xE000000000, 0xE000004FFF),
   (0xF000000000, 0xF000003FFF), (0xF000010000, 0xF000010FFF), (0x10000000000, 0x1FFFFFFFFFF)].any
    (fun (lo, hi) => decide (field pa 41 0 ≤ hi ∧ lo < field pa 41 0 + size))

/-- A malformed valid entry at a level (R405, R430). -/
def State.malformed (s : State) (lvl : Nat) (e : Word) : Bool :=
  if pteT e then decide (lvl = 0) || (e &&& ~~~0x000FFFFFFFFFF003) != 0
  else
    decide (2 ≤ lvl) || (decide (lvl = 1) && decide (ptePS e < 2)) || (decide (lvl = 0) && decide (2 ≤ ptePS e))
    || (pteW e && !pteR e) || (pteBR e && pteSB e) || (pteSB e && ptePS e != 1)
    || (pteBR e && field (pteADDR e) 51 42 != s.own) || (pteBDX e != 0 && !pteNonRes e)
    || (!pteNonRes e && pteADDR e % pageSize (ptePS e) != 0)
    || (pteU e && !pteNonRes e && s.meetsPlatform (pteADDR e) (pageSize (ptePS e)))
    || tbit e 63 || tbit e 56

/-- What a walk finds. -/
inductive Walk where
  | leaf (lvl entry : Nat) (pte : Word)
  | bad (sub lvl : Nat)
  deriving DecidableEq, Repr

/-- Whether an entry is a table pointer that the walker of a die holds in its cache (R407). -/
def State.walkRead (s : State) (die : Nat) (a : Nat) : Word :=
  match (s.die die).walk.find? (fun p => p.1 == a) with
  | some (_, v) => v
  | none => s.prd8 a

/-- The context whose tables an address walks (R10). -/
def rootCtx (c : BitVec 12) (va : Nat) : BitVec 12 := if field va 56 56 = 1 then 0 else c

/-- The table pointers that a walk from a table at a level reads (R404, R407). -/
def State.walkPtrs (s : State) (die va table : Nat) : Nat → List (Nat × Word)
  | 0 => []
  | n + 1 =>
    let a := table + 8 * field va (20 + 9 * (n + 1)) (12 + 9 * (n + 1))
    let e := s.walkRead die a
    if pteV e && pteT e && !s.malformed (n + 1) e then (a, e) :: s.walkPtrs die va (pteADDR e) n else []
/-- A walk leaves table pointers in the cache of its die's walker; how many stay there is not specified (R407). Log entry 2. -/
def State.walkKeep (die : Nat) (c : BitVec 12) (va : Nat) (s : State) : State :=
  let ps := s.walkPtrs die va (fld (s.desc (rootCtx c va) 0) 51 12 * 4096) 4
  let (n, s) := s.draw
  s.onDie die (fun r => { r with
    walk := (ps ++ r.walk.filter (fun p => ps.all (fun q => q.1 != p.1))).take (Config.walkSize n) })

/-- The walk from a table at a level (R404, R405). -/
def State.walk (s : State) (die va table : Nat) : Nat → Walk
  | 0 =>
    let a := table + 8 * field va 20 12
    let e := s.walkRead die a
    if !pteV e then .bad 0x02 0 else if s.malformed 0 e then .bad 0x04 0 else .leaf 0 a e
  | n + 1 =>
    let a := table + 8 * field va (20 + 9 * (n + 1)) (12 + 9 * (n + 1))
    let e := s.walkRead die a
    if !pteV e then .bad 0x02 (n + 1)
    else if s.malformed (n + 1) e then .bad 0x04 (n + 1)
    else if pteT e then s.walk die va (pteADDR e) n
    else .leaf (n + 1) a e

/-- Walks a virtual address (R404). -/
def State.walkVa (s : State) (die : Nat) (c : BitVec 12) (va : Nat) : Walk :=
  s.walk die va (fld (s.desc (rootCtx c va) 0) 51 12 * 4096) 4

/-- The first entry of the page that an entry belongs to (R405). -/
def firstEntry (entry : Nat) (pte : Word) : Nat :=
  match ptePS pte with
  | 1 => entry / 128 * 128
  | 3 => entry / 256 * 256
  | _ => entry

/-! Routes (R434). -/

/-- The ports that are up among a device's route, ascending. -/
def State.routeUp (s : State) (dev : Nat) : List Nat :=
  let m := s.uroute.getD 0 dev
  (upto 18).filter (fun p => tbit m p && tbit (s.uport.getD 0 p) 0)
/-- The port that a request of a context leaves through (R434). Log entry 44. -/
def State.routePort (s : State) (dev : Nat) (c : BitVec 12) : Option Nat :=
  let u := s.routeUp dev
  u[c.toNat % max 1 u.length]?

/-- Whether the feature of a number is available to a context (R309); the device has all seven. Log entry 21. -/
def State.feature (s : State) (c : BitVec 12) (n : Nat) : Bool := tbit (s.desc c 4) (32 + n)
/-- Use of a feature that is not available (R311). Log entry 21. -/
def tFeature (n : Nat) : Cause := ⟨0, 0x30, n, false, 0⟩

/-- Checks of the physical target of an access of n bytes, in the order of R399: device number, no memory, poisoned
line, no port up. -/
def State.physCheck (s : State) (c : BitVec 12) (pa n : Nat) (info : Nat) (va : Word) : Option Cause :=
  match s.place pa with
  | .badDev => some (tPage 0x05 info false va)
  | .none => some (tPage 0x11 info false va)
  | .remote d _ => if s.routeUp d = [] then some (tPage 0x12 (info % 8 + 0xF0 + d * 256) true va)
                   else if !s.feature c 5 then some (tFeature 5) else none
  | p => match s.placeMem p with
    | some o => if s.isPoisoned o n then some (tPage 0x40 info false va) else none
    | none => none

/-- Permissions of a leaf for an access kind at a level (R399, R406). -/
def permCheck (lvl : Level) (k : AKind) (e : Word) (info : Nat) (va : Word) : Option Cause :=
  if (k == .load || k == .rmw) && !pteR e then some (tPerm 0x02 info true va)
  else if k.writes && !pteW e then some (tPerm 0x03 info true va)
  else if k.isCode && !pteX e then some (tPerm 0x04 info true va)
  else if lvl == .user && !pteU e then some (tPerm 0x05 info true va)
  else none

/-! Translation caches (R407, R408). -/

/-- Which path a unit's translations take. -/
inductive Via where
  | thread (gsp slot : Nat)
  | cluster (rid : Nat)
  | port (rid p : Nat)
  | die (d : Nat)
  deriving DecidableEq, Repr

inductive TlbId where
  | micro (g : Nat)
  | cluster (r : Nat)
  | last (d : Nat)
  | port (r p : Nat)
  deriving DecidableEq, Repr

def Via.path : Via → List TlbId
  | .thread g _ => [.micro g, .cluster (g / 8), .last (g / 192)]
  | .cluster r => [.cluster r, .last (r / 24)]
  | .port r p => [.port r p, .last (r / 24)]
  | .die d => [.last d]
def Via.dieOf : Via → Nat
  | .thread g _ => g / 192
  | .cluster r | .port r _ => r / 24
  | .die d => d
def Via.slot : Via → Nat
  | .thread _ s => s
  | _ => 0
/-- Only threads obey WATCH (R406). -/
def Via.isThread : Via → Bool
  | .thread _ _ => true
  | _ => false

def TlbId.cap : TlbId → Nat
  | .micro _ => 32
  | .cluster _ => 4096
  | .last _ => 32768
  | .port _ _ => 16
def State.tlb (s : State) : TlbId → List TlbEnt
  | .micro g => s.utlb.getD [] g
  | .cluster r => (s.cluster r).tlb
  | .last d => (s.die d).tlb
  | .port r p => (s.region r).ranges.getD [] p
def State.setTlb (l : List TlbEnt) (s : State) : TlbId → State
  | .micro g => { s with utlb := s.utlb.put g l }
  | .cluster r => s.onCluster r (fun c => { c with tlb := l })
  | .last d => s.onDie d (fun c => { c with tlb := l })
  | .port r p => s.onRegion r (fun c => { c with ranges := c.ranges.put p l })

/-- Whether an entry translates an address of a context; only a micro-TLB entry is tagged by slot. -/
def TlbEnt.hits (e : TlbEnt) (id : TlbId) (c : BitVec 12) (slot va : Nat) : Bool :=
  e.ctx == c && decide (e.base ≤ va) && decide (va < e.base + e.size) &&
  (match id with
    | .micro _ => e.slot == slot
    | _ => true)

/-- Adds an entry, giving up one of a full cache: replacement is not specified (R407). Log entry 2. -/
def State.tlbAdd (e : TlbEnt) (s : State) (id : TlbId) : State :=
  let l := s.tlb id
  if l.length < id.cap then s.setTlb (e :: l) id
  else
    let (n, s) := s.draw
    s.setTlb (e :: l.eraseIdx (Config.victim n % l.length)) id

/-- The first cache of a path that holds a translation, and the caches before it. -/
def State.tlbFind (s : State) (c : BitVec 12) (slot va : Nat) : List TlbId → Option (TlbEnt × List TlbId)
  | [] => none
  | id :: t => match (s.tlb id).find? (fun e => e.hits id c slot va) with
    | some e => some (e, [])
    | none => (s.tlbFind c slot va t).map (fun (e, l) => (e, id :: l))

/-! Translation. -/

/-- The outcome of a translation: a physical address, a failure, or a page that is not resident or migrating (named by its
first entry) with the entry that the request starts from. -/
inductive Tr where
  | ok (pa : Nat) (pte : Word)
  | bad (c : Cause)
  | absent (entry : Nat) (pte : Word)
  | moving (entry : Nat)
  deriving DecidableEq, Repr

/-- Whether a page of a context is being migrated (R360). -/
def State.migrating (s : State) (c : BitVec 12) (va : Nat) : Option Migration :=
  s.migrations.find? (fun m => m.ctx == c && decide (m.va ≤ va) && decide (va < m.va + m.size))

/-- A retired page used as code: as a fetch, or as a placement (R302). -/
def tRetired (k : AKind) (w : Word) : Cause := ⟨9, if k = .fetch then 0x02 else 0x03, 0, false, w⟩
/-- Translates va for an access of n bytes: caches, walk, checks in the order of R399, WATCH, then A and D (R406).
Log entry 54. -/
def State.translateNow (c : BitVec 12) (lvl : Level) (via : Via) (va n : Nat) (k : AKind) (s : State) : Tr × State :=
  let w := BitVec.ofNat 64 va
  if lvl = .monitor then
    match s.physCheck c va n (infoNoWalk k.code) w with
    | some e => (.bad e, s)
    | none => (.ok va 0, s)
  else
  let rc := rootCtx c va
  match s.migrating rc va with
  | some m => (.moving m.entry, s)
  | none =>
  let slow : Tr × State :=
    match s.walkVa via.dieOf c va with
    | .bad sub l => (.bad (tPage sub (k.code + 16 * l) true w), s)
    | .leaf l a e =>
      let info := k.code + 16 * l
      if pteNonRes e then
        if !s.bdOk e va then (.bad (tPage 0x06 info true w), s)
        else match permCheck lvl k e info w with
        | some x => (.bad x, s)
        | none =>
          if k.isCode ∧ pteRET e then (.bad (tRetired k w), s)
          else if via.isThread ∧ pteWATCH e then (.bad ⟨12, 0, 0, true, w⟩, s)
          else if !s.feature c 4 then (.bad (tFeature 4), s)
          else (.absent (firstEntry a e) e, s)
      else
        let size := pageSize (ptePS e)
        let pa := pteADDR e + va % size
        match s.physCheck c pa n info w with
        | some x => (.bad x, s)
        | none => match permCheck lvl k e info w with
          | some x => (.bad x, s)
          | none =>
            if k.isCode ∧ pteRET e then (.bad (tRetired k w), s)
            else if via.isThread ∧ pteWATCH e then (.bad ⟨12, 0, 0, true, w⟩, s)
            else if pteSB e ∧ !s.feature c 4 then (.bad (tFeature 4), s)
            else
              let e' := e ||| 0x40 ||| (if k.writes then 0x80 else 0)
              let s := if e' = e then s else s.pwr8 a e'
              let ent : TlbEnt := {
                ctx := rc, slot := via.slot, base := va / size * size, size := size, pte := e', entry := a }
              let s := s.walkKeep via.dieOf c va
              (.ok pa e', if pteWATCH e then s else via.path.foldl (State.tlbAdd ent) s)
  match s.tlbFind rc via.slot va via.path with
  | some (e, before) =>
    let pa := pteADDR e.pte + va % e.size
    if (permCheck lvl k e.pte 0 w).isNone ∧ (!k.writes ∨ pteD e.pte) ∧ ¬(k.isCode ∧ pteRET e.pte)
        ∧ (s.physCheck c pa n 0 w).isNone ∧ (!pteSB e.pte ∨ s.feature c 4) then
      (.ok pa e.pte, before.foldl (State.tlbAdd { e with slot := via.slot }) s)
    else slow
  | none => slow

/-- What stands for the entry of a migrating page where a bias flip holds an access: no entry has this address. -/
def flipEntry : Nat := 2 ^ 64
/-- Whether a flip of the window page that a physical address lies in runs (R441). -/
def State.flipHolds (s : State) (pa : Nat) : Bool :=
  tbit s.biascmd 63 && (match s.placeMem (s.place pa) with
    | some o => decide (s.cwbase.toNat ≤ o ∧ (o - s.cwbase.toNat) / 4096 = fld s.biascmd 15 0)
    | none => false)
/-- Translates va; a new device access to a page whose bias flip runs is held, as one to a migrating page is (R361, R441). -/
def State.translate (c : BitVec 12) (lvl : Level) (via : Via) (va n : Nat) (k : AKind) (s : State) : Tr × State :=
  match s.translateNow c lvl via va n k with
  | (.ok pa e, t) => if s.flipHolds pa then (.moving flipEntry, s) else (.ok pa e, t)
  | r => r

/-- Whether an invalidation of a context, or of all, selects a page (R147, R148). -/
def invSelects (c : Option (BitVec 12)) (lo hi : Nat) (d : BitVec 12) (base size : Nat) : Bool :=
  (match c with
    | some c => d == c
    | none => true) && decide (base < hi) && decide (lo < base + size)
/-- The cached translations through which a stash line may have been filled. -/
def State.stashTlb (s : State) (e : StashLine) : List TlbEnt :=
  s.tlb (.micro e.gsp) ++ s.tlb (.cluster (e.gsp / 8)) ++ s.tlb (.last (e.gsp / 192))
/-- What uses a translation that an invalidation selects and has not completed (R148, R409): groups in flight, accesses on their way
to another device or the host, near-bank commands that run; with `waits`, full/empty operations on wait lists too. Each has
its own number. Log entry 23. -/
def State.usesOf (s : State) (c : Option (BitVec 12)) (lo hi : Nat) (waits : Bool) : List Nat :=
  let sel (d : BitVec 12) (p : Nat × Nat) : Bool := p.2 != 0 && invSelects c lo hi (rootCtx d p.1) p.1 p.2
  let listed (t : Thread) : Bool := match t.run with
    | .feWait _ | .strandWait _ => true
    | _ => false
  (s.threads.filter (fun (_, t) => t.flight.on && (waits || !listed t) && t.flight.reached.any (fun r => sel t.ctx r.page))).map
      (fun (_, t) => 3 * t.uid)
    ++ (s.remotes.filter (fun r => sel r.ctx r.page)).map (fun r => 3 * r.id + 1)
    ++ s.spindles.flatMap (fun (_, p) => p.queue.flatMap (fun (k, q) => (q.filter (fun x =>
        x.mat.any (fun m => sel (BitVec.ofNat 12 (k / 2)) (m.1, m.2.1)))).map (fun x => 3 * x.id + 2)))
/-- Removes what an invalidation selects from every translation structure of the device, and every cached table pointer
(R148, R409); stash lines filled through a removed translation are dropped (R356). Log entry 23. -/
def State.tlbRemove (c : Option (BitVec 12)) (lo hi : Nat) (s : State) : State :=
  let gone (e : TlbEnt) : Bool := invSelects c lo hi e.ctx e.base e.size
  let keep (l : List TlbEnt) : List TlbEnt := l.filter (fun e => !gone e)
  let s := s.stashDrop (fun e => invSelects c lo hi (rootCtx e.ctx e.va) e.va 64
    || (s.stashTlb e).any (fun t => gone t && t.ctx == rootCtx e.ctx e.va && decide (t.base ≤ e.va ∧ e.va < t.base + t.size)))
  { s with
    utlb := s.utlb.map (fun (k, l) => (k, keep l))
    clusters := s.clusters.map (fun (k, r) => (k, { r with tlb := keep r.tlb }))
    dies := s.dies.map (fun (k, d) => (k, { d with tlb := keep d.tlb, walk := [] }))
    regions := s.regions.map (fun (k, r) => (k, { r with ranges := r.ranges.map (fun (p, l) => (p, keep l)) })) }

end Sys2Proof.Machine
end

