-- ==== Sys2Proof/Machine/Registers.lean ====
section
/-! DEFINITION. The platform blocks as registers: the Utsen block (R433, R435), the context control block (R410, R411,
R420), the host-interface block (R440, R441) and the power block (R452). A write that starts a command puts its event
next. -/

namespace Sys2Proof.Machine
open Sys2Proof

/-! Utsen block (R433). -/

/-- Bits of word w of an import entry that hold fields (R435). -/
def importMask (w : Nat) : Word :=
  match w with
  | 0 => 0xF0000000FFC00FFF
  | 1 | 2 => 0x000003FFFFFFFFFF
  | _ => 0

def State.utsenRead (s : State) (o : Nat) : Word :=
  if o < 8 * 18 then s.uport.getD 0 (o / 8)
  else if 0x10000 ≤ o ∧ o < 0x10000 + 8 * 576 then s.uroute.getD 0 ((o - 0x10000) / 8)
  else if 0x40000 ≤ o ∧ o < 0x40000 + 32 * 1024 then s.uimport.getD 0 ((o - 0x40000) / 8)
  else 0
def State.utsenWrite (s : State) (o : Nat) (v : Word) : State :=
  if 0x10000 ≤ o ∧ o < 0x10000 + 8 * 576 then
    { s with uroute := s.uroute.put ((o - 0x10000) / 8) (v &&& 0x3FFFF) }
  else if 0x40000 ≤ o ∧ o < 0x40000 + 32 * 1024 then
    { s with uimport := s.uimport.put ((o - 0x40000) / 8) (v &&& importMask ((o - 0x40000) / 8 % 4)) }
  else s

/-- A read of UPORT p clears its retransmission count (R433). -/
def State.uportClear (s : State) (p : Nat) : State :=
  { s with uport := s.uport.put p (s.uport.getD 0 p &&& 1) }

/-! Context control block (R410, R411, R420). -/

def State.ramblerRead (s : State) (d o : Nat) : Word :=
  let r := s.die d
  match o with
  | 0x00 => r.rbPool
  | 0x08 => r.rbPoolN
  | 0x10 => r.rbHand
  | 0x18 => r.rbMres
  | 0x20 => r.rbMresN
  | 0x28 => r.rbErr
  | _ => 0
def State.ramblerWrite (s : State) (d o : Nat) (v : Word) : State :=
  match o with
  | 0x00 => s.onDie d (fun r => { r with rbPool := v &&& 0x000FFFFFFFFFF000 })
  | 0x08 => s.onDie d (fun r => { r with rbPoolN := v &&& 0xFFFFF })
  | 0x18 => s.onDie d (fun r => { r with rbMres := v &&& 0x000FFFFFFFFFFFFF })
  | 0x20 => s.onDie d (fun r => { r with rbMresN := v })
  | _ => s

def State.ctlRead (s : State) (o : Nat) : Word :=
  if o = 0 then s.ctxcmd else if o = 8 then s.ctxarg else if o = 0x10 then s.drainlim
  else if 0x1000 ≤ o then s.ramblerRead (o / 0x1000 - 1) (o % 0x1000) else 0

/-- The end of a context command: RESULT written and BUSY clear (R411). -/
def State.ctxcmdEnd (result : Nat) (s : State) : State :=
  { s with ctxcmd := (s.ctxcmd &&& 0xFFFF) ||| BitVec.ofNat 64 (result * 2 ^ 16) }

/-- A write of CTXCMD (R411, R412): ignored while BUSY; otherwise the command runs, or ends with RESULT. -/
def State.ctxcmdWrite (s : State) (v : Word) : State :=
  if tbit s.ctxcmd 63 then s else
  let c := BitVec.ofNat 12 (fld v 11 0)
  let cmd := fld v 15 12
  let s := { s with ctxcmd := v &&& 0xFFFF }
  let x := s.ctx c
  let run (i : Instr) (a : EvArg) : State := { s with ctxcmd := s.ctxcmd ||| 0x8000000000000000 }.soonEv i a
  if cmd = 0 ∨ 5 < cmd then s.ctxcmdEnd 0x03
  else if cmd = 3 ∧ s.isFrozen c then s.ctxcmdEnd 0x02
  else if c = 0 ∨ !s.ctxActive c then s.ctxcmdEnd 0x01
  else match cmd with
    | 1 => if x.saved then s.ctxcmdEnd 0x02 else run .ctxcmdSave (.ctx c)
    | 2 => if !x.saved then s.ctxcmdEnd 0x02 else run .ctxcmdResume (.ctx c)
    | 3 => run .ctxcmdFreeze (.freeze c 0xF 0)
    | 4 => run .ctxcmdReinject (.ctx c)
    | _ => run .ctxcmdAbandon (.ctx c)

def State.ctlWrite (s : State) (o : Nat) (v : Word) : State :=
  if o = 0 then s.ctxcmdWrite v else if o = 8 then { s with ctxarg := v }
  else if o = 0x10 then { s with drainlim := v &&& 0xFFFF }
  else if 0x1000 ≤ o then s.ramblerWrite (o / 0x1000 - 1) (o % 0x1000) v else s

/-- The drain limit in ac: DRAINLIM µs, 0 taken as 1, at 4,000 ac a µs (R5, R410). -/
def State.drainAc (s : State) : Nat := max 1 (fld s.drainlim 15 0) * 4000

/-! Host-interface block (R440, R441). -/

def State.histat (s : State) : Word :=
  BitVec.ofNat 64 ((if s.boot.booted then 1 else 0) + (if s.boot.recovery then 2 else 0))
/-- Word i of the bias table: 1 is device bias (R438). -/
def State.biasWord (s : State) (i : Nat) : Word :=
  s.hostBias.foldl (fun (w : Word) p => if p / 64 = i then w &&& ~~~(1#64 <<< (p % 64)) else w) (BitVec.allOnes 64)

/-- The bits of the pending vectors. Log entry 46. -/
def State.msixBits (s : State) : Word := s.msixPend.foldl (fun (w : Word) v => w ||| 1#64 <<< v) 0
/-- Sends the pending vectors that the table does not mask, once the link is trained (R437). Log entry 46. -/
def State.msixFlush (s : State) : State :=
  let (go, stay) := s.msixPend.partition (fun v => s.linkWidth != 0 && !tbit (s.msix.getD 0 (2 * v + 1)) 32)
  { s with msixSent := s.msixSent ++ go, msixPend := stay }
/-- Raises a vector (R437). Log entry 46. -/
def State.raiseMsix (v : Nat) (s : State) : State :=
  State.msixFlush { s with msixPend := if s.msixPend.contains v then s.msixPend else s.msixPend ++ [v] }

def State.hostifRead (s : State) (o : Nat) : Word :=
  if o = 0 then s.hcpage else if o = 8 then s.biascmd else if o = 0x10 then s.cwbase else if o = 0x18 then s.histat
  else if 0x1000 ≤ o ∧ o < 0x1040 then s.msix.getD 0 ((o - 0x1000) / 8) else if o = 0x1040 then s.msixBits
  else if 0x2000 ≤ o ∧ o < 0x4000 then s.biasWord ((o - 0x2000) / 8) else 0

/-- The end of a bias flip (R441). -/
def State.biasEnd (result : Nat) (s : State) : State :=
  { s with biascmd := (s.biascmd &&& 0x1FFFF) ||| BitVec.ofNat 64 (result * 2 ^ 24) }
/-- The window page of the host control page (R440). -/
def State.hcIndex (s : State) : Nat := fld s.hcpage 27 12
def State.hcEnabled (s : State) : Bool := tbit s.hcpage 0

/-- A write of BIASCMD (R441): ignored while BUSY. A flip to device bias of a page of which the host holds modified
lines ends when the host has answered the back-invalidations; any other flip ends at once. -/
def State.biasWrite (s : State) (v : Word) : State :=
  if tbit s.biascmd 63 then s else
  let page := fld v 15 0
  let toDev := tbit v 16
  let s := { s with biascmd := v &&& 0x1FFFF }
  let isDev := !s.hostBias.contains page
  if isDev == toDev then s.biasEnd 0x01
  else if !toDev ∧ s.hcEnabled ∧ s.hcIndex = page then s.biasEnd 0x02
  else
    let s := { s with biascmd := s.biascmd ||| 0x8000000000000000 }
    if !toDev then s.soonEv .biasFlipHost (.unit page)
    else if s.hostModified.any (fun l => l / 4096 == page) then s
    else s.soonEv .biasFlipDevice (.flip (BitVec.ofNat 16 page) [])

/-- A write of CWBASE (R438): kept only when the window lies within die 0's stacks. -/
def State.cwbaseSet (s : State) (v : Word) : State :=
  let w := v &&& 0x000003FFF0000000
  if w.toNat + 0x10000000 ≤ s.dieSize 0 then { s with cwbase := w } else s

def State.hostifWrite (s : State) (o : Nat) (v : Word) : State :=
  if o = 0 then { s with hcpage := v &&& 0x0FFFF001 }
  else if o = 8 then s.biasWrite v
  else if o = 0x10 then s.soonEv .cwbaseWrite (.word v)
  else if 0x1000 ≤ o ∧ o < 0x1040 then State.msixFlush { s with msix := s.msix.put ((o - 0x1000) / 8) v }
  else s

/-! Power block (R452). -/

def State.pwrlimSet (s : State) (v : Nat) : State := { s with pwrlim := BitVec.ofNat 64 (min (max (v % 4096) 600) 2600) }
def State.powerRead (s : State) (o : Nat) : Word :=
  if o = 0 then s.pwrlim else if o = 8 then s.pwrnow
  else if 0x100 ≤ o ∧ o < 0x100 + 8 * 96 then BitVec.ofNat 64 (s.cluster ((o - 0x100) / 8)).wheld else 0
def State.powerWrite (s : State) (o : Nat) (v : Word) : State := if o = 0 then s.pwrlimSet v.toNat else s

/-- Whether a place is a block of registers (R430). -/
def Place.isBlock : Place → Bool
  | .utsen _ | .ctl _ | .hostif _ | .power _ => true
  | _ => false

/-- Reads a register of a block. -/
def State.regRead (s : State) (p : Place) : Word × State :=
  match p with
  | .utsen o => (s.utsenRead o, if o < 8 * 18 then s.uportClear (o / 8) else s)
  | .ctl o => (s.ctlRead o, s)
  | .hostif o => (s.hostifRead o, s)
  | .power o => (s.powerRead o, s)
  | _ => (0, s)
/-- Writes a register of a block. -/
def State.regWrite (s : State) (p : Place) (v : Word) : State :=
  match p with
  | .utsen o => s.utsenWrite o v
  | .ctl o => s.ctlWrite o v
  | .hostif o => s.hostifWrite o v
  | .power o => s.powerWrite o v
  | _ => s

end Sys2Proof.Machine
end

