-- ==== Sys2Proof/Machine/Rambler.lean ====
section
/-! DEFINITION. The Rambler storage engines: page requests, fills, the clock and evictions, and what wakes those who
wait (13, R419 to R428). The environment answers a Read or a Write that stands in a die's `reqs` or `evicts` with the event
of its completion. -/

namespace Sys2Proof.Machine
open Sys2Proof

/-! Waking. -/

/-- The threads of a party that wait for its pages or its swap rejoin their ready queues (R423). -/
def State.wakeParty (p : Nat) (s : State) : State :=
  match s.party? p with
  | none => s
  | some a => a.keys.foldl (fun s (_, k) => match (s.thread k).run with
    | .page _ | .swapped => s.makeReady k
    | _ => s) s

/-- Writes PEND into the party's block (R423). -/
def State.pendWrite (p : Nat) (s : State) : State :=
  match s.party? p with
  | some a => match a.block with
    | some b => s.pwr8 (b + 24) (BitVec.ofNat 64 a.pend.length)
    | none => s
  | none => s

/-- Writes the swap state into the party's block (R413, R423); it stays 0 in a block that SAVE has saved. -/
def State.swapWrite (p : Nat) (s : State) : State :=
  match s.party? p with
  | some a => match a.block with
    | some b => if fld (s.prd8 (b + 16)) 27 24 = 0 then s else s.pwr8 (b + 16) (setFld (s.prd8 (b + 16)) 27 24 a.swap.code)
    | none => s
  | none => s

/-- A request enters the dispatcher of a cluster (R388). -/
def State.enqueue (rid cls : Nat) (what : DWhat) (s : State) : State :=
  let (n, s) := s.newId
  s.onCluster rid (fun c => { c with
    entries := c.entries ++ [{ num := n, arrival := s.cycle / 2, cls := cls, what := what }] })

/-- PEND of a party has reached 0 (R423): one that drains goes on to its save. Log entry 39. -/
def State.pendZero (p : Nat) (s : State) : State :=
  match s.party? p with
  | none => s
  | some a => match a.swap with
    | .staying => (s.onParty p (fun a => { a with swap := .running })).wakeParty p
    | .out =>
      let s := (s.onParty p (fun a => { a with swap := .queued })).swapWrite p
      if a.held then s else s.enqueue a.rid (min 7 (s.prioCeil a.ctx)) (.resume p)
    | _ => s

/-- A page that a party awaits has come, or has failed (R423, R428). Log entry 39. -/
def State.pagePend (p entry : Nat) (s : State) : State :=
  match s.party? p with
  | none => s
  | some a =>
    if !a.pend.contains entry then s else
    let s := (s.onParty p (fun a => { a with pend := a.pend.filter (· != entry) })).pendWrite p
    if a.pend.filter (· != entry) = [] then s.pendZero p else s

/-- Gives the thread that waits for a page, resident or saved, the answer that its access is refused (R428). -/
def State.pageFail (key p entry : Nat) (s : State) : State :=
  match s.party? p with
  | none => s
  | some a =>
    if a.keys.any (fun (_, k) => k == key) ∧ (s.thread key).run = .page entry then
      s.onThread key (fun t => { t with grants := t.grants ++ [.refused] })
    else s.onParty p (fun a => { a with saved := a.saved.map (fun e =>
      if e.key = key ∧ e.rest.run = .page entry then { e with rest := { e.rest with grants := e.rest.grants ++ [.refused] } } else e) })

/-- Wakes one who waits for a page (R422, R424, R428). -/
def State.wakePage (entry : Nat) (fail : Bool) (s : State) (w : PWaiter) : State :=
  match w with
  | .thread key p => (if fail then s.pageFail key p entry else s).pagePend p entry
  | .copy rid id => s.later (.event .copyEngineRun (.pair rid (if fail then 2 * id + 1 else 2 * id)))
  | .cmd gsp id => s.later (.event .ramblerReadComplete (.pair gsp (if fail then 2 * id + 1 else 2 * id)))
  | .port rid node tag =>
    s.later (.event .portRewalk (.pair (2 * rid + if fail then 1 else 0) (node.toNat + 256 * tag.toNat + 2 ^ 24 * entry)))

/-! Commands to the SSD. -/

/-- The die that serves a non-resident entry's storage port (R419). -/
def State.bdDie (s : State) (e : Word) : Nat := fld (s.bdWord e 2) 35 32 / 2

/-- Whether the entry's storage port is up (R445). -/
def State.bdPortUp (s : State) (e : Word) : Bool := s.supPorts.getLsbD (fld (s.bdWord e 2) 35 32)

/-- The LBA of the page at a (R419). -/
def State.bdLba (s : State) (e : Word) (a : Nat) : Nat :=
  (s.bdWord e 1).toNat + (a / 65536 * 65536 - (s.bdWord e 0).toNat) / 2 ^ fld (s.bdWord e 2) 39 36

/-- The commands in course on queue pair q of a port. -/
def State.pairLoad (s : State) (p q : Nat) : Nat :=
  let on (c : Option Nvme) : Bool := c.any (fun c => c.port == p && c.pair == q)
  let d := s.die (p / 2)
  (d.reqs.filter (fun r => on r.cmd)).length + (d.evicts.filter (fun e => on e.cmd)).length
/-- The command, Read 0x02 or Write 0x01, that moves the page at virtual address a between its LBAs and a frame (R419, R421), on the
first of the port's 32 queue pairs, of depth 64 each, that has room: at most 1,024 are in course on a die. Log entry 42. -/
def State.nvme (s : State) (opcode : Nat) (e : Word) (a frame : Nat) : Nvme :=
  let p := fld (s.bdWord e 2) 35 32
  { port := p, pair := ((upto 32).find? (fun q => decide (s.pairLoad p q < 64))).getD 0, opcode := opcode
    nsid := fld (s.bdWord e 2) 31 0, slba := s.bdLba e a, nlb := 2 ^ (16 - fld (s.bdWord e 2) 39 36) - 1, frame := frame }

/-- A command that a down port takes fails (R445). -/
def State.downCheck (e : Word) (i : Instr) (id : Nat) (s : State) : State :=
  if s.bdPortUp e then s else s.after 1 (.event i (.unit id))

def State.slotAddr (s : State) (d i : Nat) : Nat := (s.die d).rbPool.toNat + 32 * i

/-- The first free slot of a die's pool at or after i (R422). -/
def State.freePool (s : State) (d i : Nat) : Nat → Option Nat
  | 0 => none
  | n + 1 => if fld (s.prd8 (s.slotAddr d i)) 1 0 = 0 then some i else s.freePool d (i + 1) n

def State.onReq (d entry : Nat) (f : PageReq → PageReq) (s : State) : State :=
  s.onDie d (fun r => { r with reqs := r.reqs.map (fun q => if q.entry = entry then f q else q) })

/-- Issues the Read of a request into a slot that is BUSY for it (R421, R422). -/
def State.readInto (d entry slot : Nat) (e : Word) (s : State) : State :=
  let (id, s) := s.newId
  let frame := fld (s.prd8 (s.slotAddr d slot)) 51 16 * 65536
  (s.onReq d entry (fun q => { q with
    slot := some slot, reading := true, id := id, cmd := some (s.nvme 0x02 e q.va frame) })).downCheck e .ramblerReadComplete id

/-! The clock (R427). -/

/-- The 16 entries of a page. -/
def pageEntries (e : Nat) : List Nat := (upto 16).map (fun i => e + 8 * i)

/-- Swaps back the entries of a victim in order: the state, and whether every compare held (R427). Log entry 42. -/
def State.swapBack (s : State) (frame : Nat) (saved : Word) : List Nat → Bool × State
  | [] => (true, s)
  | a :: t =>
    let v := s.prd8 a
    if pteV v && pteSB v && pteRES v && pteADDR v == frame then (s.pwr8 a saved).swapBack frame saved t
    else (false, s)

/-- Issues the Write of an eviction (R421, R427). -/
def State.writeOut (d id : Nat) (s : State) : State :=
  match (s.die d).evicts.find? (fun e => e.id == id) with
  | none => s
  | some e =>
    let frame := fld (s.prd8 (s.slotAddr d e.slot)) 51 16 * 65536
    (s.onDie d (fun r => { r with evicts := r.evicts.map (fun x =>
      if x.id = id then { x with users := [], cmd := some (s.nvme 0x01 e.saved e.va frame) } else x) })).downCheck
        e.saved .ramblerWriteComplete id

/-- One pass of the clock over at most n slots for a request; the victim's slot when it is free at once, or none when a
Write must end first or no victim is found (R427). Log entry 42. -/
def State.clock (d : Nat) (serves : Nat) : Nat → State → Option Nat × State
  | 0, s => (none, s)
  | n + 1, s =>
    let size := fld (s.die d).rbPoolN 19 0
    let h := (s.die d).rbHand.toNat % max 1 size
    let a := s.slotAddr d h
    let w0 := s.prd8 a
    let w1 := s.prd8 (a + 8)
    let saved := s.prd8 (a + 16)
    let frame := fld w0 51 16 * 65536
    let entry := fld w1 51 0
    let es := pageEntries entry
    let onward (s : State) : Option Nat × State :=
      State.clock d serves n (s.onDie d (fun r => { r with rbHand := BitVec.ofNat 64 ((h + 1) % max 1 size) }))
    if fld w0 1 0 ≠ 1 then onward s
    else if es.any (fun e => pteA (s.prd8 e)) then
      onward (es.foldl (fun s e => s.pwr8 e (s.prd8 e &&& ~~~0x40)) s)
    else
      let off := (s.placeMem (s.place frame)).getD frame
      let inPage (x : Nat) : Bool := decide (off ≤ x ∧ x < off + 65536)
      if s.empties.any inPage || s.clusters.any (fun (_, c) => c.waits.any (fun w => inPage w.addr))
          || (s.die d).reqs.any (fun q => q.entry == entry) then onward s
      else
        let dirty := es.filter (fun e => pteD (s.prd8 e))
        let s := s.pwr8 a (w0 ||| 2)
        let (ok, s) := s.swapBack frame saved es
        if !ok then onward (s.pwr8 a w0)
        else
          let c := BitVec.ofNat 12 (fld w1 63 52)
          let va := (s.die d).slotVa.getD 0 h
          let users := s.usesOf (some (rootCtx c va)) va (va + 65536) true
          let s := (s.tlbRemove (some (rootCtx c va)) va (va + 65536)).linesDrop (fun l => inPage (64 * l))
          let write := fld (s.bdWord saved 2) 40 40 == 1 && dirty != []
          if !write && users == [] then (some h, s.pwr8 a ((w0 &&& ~~~3) ||| 2))
          else
            let (id, s) := s.newId
            let s := s.onDie d (fun r => { r with evicts := r.evicts ++ [{
              id := id, slot := h, entry := entry, saved := saved, va := va, ctx := c, dirty := dirty, users := users
              write := write, serves := some serves }] })
            (none, if users = [] then s.writeOut d id else s)

/-- Gives a request without a slot one, if it can: a free slot, else a victim (R422, R426, R427). -/
def State.reqStart (d : Nat) (s : State) (q : PageReq) : State :=
  if q.slot.isSome ∨ (s.die d).evicts.any (fun e => e.entry == q.entry || e.serves == some q.entry) then s
  else
    let size := fld (s.die d).rbPoolN 19 0
    match s.freePool d 0 size with
    | some i => (s.pwr8 (s.slotAddr d i) (s.prd8 (s.slotAddr d i) ||| 2)).readInto d q.entry i q.pte
    | none => match s.clock d q.entry (if size = 0 then 0 else 2 * size + 1) with
      | (some i, s) => s.readInto d q.entry i q.pte
      | (none, s) => s

/-- Tries again for every request of a die that has no slot. -/
def State.reqsStart (d : Nat) (s : State) : State := (s.die d).reqs.foldl (State.reqStart d) s

/-- A fault on a non-resident page makes or joins a request of the descriptor's die; with 512 held, it waits (R422).
Log entry 42. -/
def State.pageRequest (w : PWaiter) (c : BitVec 12) (va entry : Nat) (pte : Word) (s : State) : State :=
  let d := s.bdDie pte
  if (s.die d).reqs.any (fun q => q.entry == entry) then
    s.onReq d entry (fun q => { q with waiters := if q.waiters.contains w then q.waiters else q.waiters ++ [w] })
  else
    let q : PageReq := { id := 0, entry := entry, ctx := rootCtx c va, va := va, pte := pte, waiters := [w] }
    if 512 ≤ (s.die d).reqs.length then s.onDie d (fun r => { r with reqWait := r.reqWait ++ [q] })
    else (s.onDie d (fun r => { r with reqs := r.reqs ++ [q] })).reqStart d q

/-- A fault that waited beyond a die's 512 requests makes or joins one now. -/
def State.requestAgain (s : State) (q : PageReq) : State :=
  q.waiters.foldl (fun s w => s.pageRequest w q.ctx q.va q.entry q.pte) s
/-- Ends a request: those who wait are woken, and others start (R422). Log entry 42. -/
def State.reqEnd (d : Nat) (q : PageReq) (fail : Bool) (s : State) : State :=
  let late := (s.die d).reqWait
  let s := s.onDie d (fun r => { r with reqs := r.reqs.filter (fun p => p.entry != q.entry), reqWait := [] })
  let s := q.waiters.foldl (State.wakePage q.entry fail) s
  let s := late.foldl State.requestAgain s
  s.reqsStart d

/-- The waiting party's save block, for AUX of a KIND 6 record (R396). -/
def State.waiterBlock (s : State) (ws : List PWaiter) : Nat :=
  (ws.findSome? (fun w => match w with
    | .thread _ p => (s.party? p).bind (fun a => a.block)
    | _ => none)).getD 0

/-- A KIND 6 record and RB_ERR (R420, R428). No rule gives its UNIT and SLOT, which the model makes 0. Log entries 2, 42. -/
def State.storageError (d : Nat) (c : BitVec 12) (va aux : Nat) (e : Word) (status : BitVec 16) (s : State) : State :=
  let (n, s) := s.draw
  let s := s.onDie d (fun r => { r with
    rbErr := BitVec.ofNat 64 (status.toNat + fld (s.bdWord e 2) 35 32 * 2 ^ 16) })
  s.trapRecord {
    kind := 6, cause := tPage 0x03 0xF0 false (BitVec.ofNat 64 va), loc := Config.storageWhere n, unit := 0,
    level := if c = 0 then 1 else 0, ctx := c, aux := BitVec.ofNat 64 aux }

/-- Installs a page that has been read: every entry by compare and swap, all or none (R422). -/
def State.install (d slot : Nat) (q : PageReq) (s : State) : State :=
  let a := s.slotAddr d slot
  let w0 := s.prd8 a
  let frame := fld w0 51 16 * 65536
  let es := pageEntries q.entry
  let wb := fld (s.bdWord q.pte 2) 40 40 = 1
  if es.all (fun e => s.prd8 e == q.pte) then
    let new := (q.pte &&& ~~~0x7E0FFFFFFFFFF0C0) ||| BitVec.ofNat 64 frame ||| 0x0080000000000000
    let new := if wb then new else new &&& ~~~8
    let s := es.foldl (fun s e => s.pwr8 e new) s
    let s := s.pwr8 (a + 8) (BitVec.ofNat 64 (q.ctx.toNat * 2 ^ 52 + q.entry))
    let s := (s.pwr8 (a + 16) q.pte).pwr8 a ((w0 &&& ~~~3) ||| 1)
    s.onDie d (fun r => { r with slotVa := r.slotVa.put slot (q.va / 65536 * 65536) })
  else s.pwr8 a (w0 &&& ~~~2)

/-- The end of a Read (R422, R428). -/
def State.readEnd (id : Nat) (status : Option (BitVec 16)) (data : List Byte) (s : State) : State :=
  match (upto 4).findSome? (fun d => ((s.die d).reqs.find? (fun q => q.reading && q.id == id)).map (fun q => (d, q))) with
  | none => s
  | some (d, q) =>
    let slot := q.slot.getD 0
    match status with
    | none =>
      let frame := fld (s.prd8 (s.slotAddr d slot)) 51 16 * 65536
      let off := (s.placeMem (s.place frame)).getD frame
      let s := s.wrBytes off (data.take 65536)
      let s := s.linesDrop (fun l => decide (off / 64 ≤ l ∧ l < (off + 65536) / 64))
      let s := { s with
        empties := s.empties.filter (fun a => !decide (off ≤ a ∧ a < off + 65536)),
        poisoned := s.poisoned.filter (fun a => !decide (off ≤ a ∧ a < off + 65536)) }
      (s.install d slot q).reqEnd d q false
    | some st =>
      if !q.retried then
        let (n, s) := s.newId
        (s.onReq d q.entry (fun q => { q with retried := true, id := n })).downCheck q.pte .ramblerReadComplete n
      else
        let a := s.slotAddr d slot
        let s := s.pwr8 a (s.prd8 a &&& ~~~2)
        (s.storageError d q.ctx q.va (s.waiterBlock q.waiters) q.pte st).reqEnd d q true

/-- An eviction ends: the slot is free, or goes to the request it serves (R427). -/
def State.evictEnd (d : Nat) (e : Evict) (s : State) : State :=
  let a := s.slotAddr d e.slot
  let w0 := s.prd8 a
  let s := s.onDie d (fun r => { r with evicts := r.evicts.filter (fun x => x.id != e.id) })
  match (e.serves.bind (fun n => (s.die d).reqs.find? (fun q => q.entry == n))) with
  | some q => ((s.pwr8 a ((w0 &&& ~~~3) ||| 2)).readInto d q.entry e.slot q.pte).reqsStart d
  | none => (s.pwr8 a (w0 &&& ~~~3)).reqsStart d
/-- An eviction goes on once what used the removed translations has completed (R409, R427). -/
def State.evictTurn (d : Nat) (e : Evict) (s : State) : State :=
  if e.users = [] then s
  else
    let c := rootCtx e.ctx e.va
    let left := e.users.filter (s.usesOf (some c) e.va (e.va + 65536) true).contains
    if left ≠ [] then
      s.onDie d (fun r => { r with evicts := r.evicts.map (fun x => if x.id = e.id then { x with users := left } else x) })
    else
      let frame := fld (s.prd8 (s.slotAddr d e.slot)) 51 16 * 65536
      let off := (s.placeMem (s.place frame)).getD frame
      let s := s.linesDrop (fun l => decide (off ≤ 64 * l ∧ 64 * l < off + 65536))
      if e.write then s.writeOut d e.id else s.evictEnd d e

/-- The end of an eviction's Write (R427, R428). A Write that fails twice leaves the page resident and USED, and is a fatal event
(R403). Log entry 42. -/
def State.writeEnd (id : Nat) (status : Option (BitVec 16)) (s : State) : State :=
  match (upto 4).findSome? (fun d => ((s.die d).evicts.find? (fun e => e.id == id && e.cmd.isSome)).map (fun e => (d, e))) with
  | none => s
  | some (d, e) =>
    let a := s.slotAddr d e.slot
    let w0 := s.prd8 a
    let drop (s : State) : State := s.onDie d (fun r => { r with evicts := r.evicts.filter (fun x => x.id != id) })
    match status with
    | none => s.evictEnd d e
    | some st =>
      if !e.retried then
        let (n, s) := s.newId
        (s.onDie d (fun r => { r with evicts := r.evicts.map (fun x =>
          if x.id = id then { x with retried := true, id := n } else x) })).downCheck e.saved .ramblerWriteComplete n
      else
        let frame := fld w0 51 16 * 65536
        let back := (e.saved &&& ~~~0x7E0FFFFFFFFFF0C0) ||| BitVec.ofNat 64 frame ||| 0x0080000000000000
        let s := (pageEntries e.entry).foldl (fun s x => s.pwr8 x (if e.dirty.contains x then back ||| 0x80 else back)) (drop s)
        let s := s.pwr8 a ((w0 &&& ~~~3) ||| 1)
        let s := s.storageError d e.ctx e.va 0 e.saved st
        let (n, s) := s.draw
        let s := s.trapRecord {
          kind := 7, cause := tPage 0x03 0xF0 false (BitVec.ofNat 64 e.va), loc := Config.storageWhere n, unit := 0,
          level := if e.ctx = 0 then 1 else 0, ctx := e.ctx }
        s.reqsStart d

/-! The hold of a thread. -/

/-- A thread held by a page: what its group has not performed translates again (R148, R361, R422). -/
def Thread.onPage (t : Thread) (entry : Nat) : Thread :=
  { t with run := .page entry, flight := { t.flight with landed := [], reached := [] } }

/-- A thread's fault on a non-resident page (R422, R423): the page is requested, the thread leaves the rotation, the page
joins its party's PEND, and a running party drains. -/
def State.pageHold (entry va : Nat) (pte : Word) (s : State) : State :=
  let t := s.thr
  let s := s.onThr (fun t => t.onPage entry)
  let s := s.onParty t.party (fun a => { a with
    pend := if a.pend.contains entry then a.pend else a.pend ++ [entry],
    swap := if a.swap = .running then .draining else a.swap })
  (s.pendWrite t.party).pageRequest (.thread s.cur t.party) t.ctx va entry pte

/-- An access to a page under migration waits for it (R361). -/
def State.moveHold (entry : Nat) (w : PWaiter) (s : State) : State :=
  if entry = flipEntry then { s with flipWaits := if s.flipWaits.contains w then s.flipWaits else s.flipWaits ++ [w] }
  else { s with migrations := s.migrations.map (fun m =>
      if m.entry = entry ∧ !m.waiters.contains w then { m with waiters := m.waiters ++ [w] } else m) }

end Sys2Proof.Machine
end

