-- ==== Sys2Proof/Machine/Access.lean ====
section
/-! DEFINITION. A thread's accesses: where an address lands, the checks in their order, range locks, the unified array, the
stash, and accesses that another device or the host performs (06, R182 to R187, R205, R213; 11, R343 to R356; 14). -/

namespace Sys2Proof.Machine
open Sys2Proof

/-- What an access of a group comes to: a value with the state it leaves; a trap; or a wait, which the group makes on
the state it found, to issue again whole (R19, R80). -/
inductive Acc (α : Type) where
  | ok (a : α) (s : State)
  | trap (c : Cause)
  | hold (f : State → State)

def Acc.bind {α β : Type} (x : Acc α) (f : α → State → Acc β) : Acc β :=
  match x with
  | .ok a s => f a s
  | .trap c => .trap c
  | .hold g => .hold g

/-- Accesses in order over a list. -/
def Acc.each {α β : Type} (f : α → State → Acc β) : List α → State → Acc (List β)
  | [], s => .ok [] s
  | a :: t, s => (f a s).bind (fun b s => (Acc.each f t s).bind (fun bs s => .ok (b :: bs) s))

/-- Fails with a trap when there is one. -/
def Acc.check (c : Option Cause) (s : State) : Acc Unit :=
  match c with
  | some e => .trap e
  | none => .ok () s

/-! The unified array (R345). -/

def State.uaRead (s : State) (g a : Nat) : Nat → List Byte
  | 0 => []
  | n + 1 => (s.spindle g).ua.getD 0 a :: s.uaRead g (a + 1) n
def State.uaWrite (g a : Nat) : List Byte → State → State
  | [], s => s
  | b :: t, s => State.uaWrite g (a + 1) t (s.onSpindle g (fun p => { p with ua := p.ua.put a b }))

/-! The scratchpad window (R182). -/

def inWindow (va : Nat) : Bool := decide (0x00FFFFFFFFE00000 ≤ va ∧ va ≤ 0x00FFFFFFFFFFFFFF)

/-- The window granules of a party on a Spindle: those it does not map as stash (R182). -/
def State.windowGrans (s : State) (p : Party) (g : Nat) : List Nat :=
  (p.grans.getD [] (g % 8)).filter (fun n => ((s.spindle g).grans.getD n {}).stash.isNone)

/-- The unified-array byte of a window address of a party of cluster rid (R182). -/
def State.windowAt (s : State) (p : Party) (rid va : Nat) : Option (Nat × Nat) :=
  let g := rid * 8 + field va 20 18
  let o := field va 17 0
  ((s.windowGrans p g)[o / 16384]?).map (fun n => (g, 16384 * n + o % 16384))

/-! Range locks (R205). -/

/-- Whether a lock guards a line of a party: a window line, those of its own party alone (R205). -/
def Lock.guards (l : Lock) (party line : Nat) : Bool :=
  decide (l.lo ≤ line ∧ line ≤ l.hi) && (l.phys || !inWindow (64 * line) || l.party == some party)
/-- The lines that n bytes at an address touch, up to a line's size. -/
def linesAt (va n : Nat) : List Nat :=
  if va / 64 = (va + n - 1) / 64 then [va / 64] else [va / 64, (va + n - 1) / 64]
/-- Whether an access of a thread to a line hits a lock (R205). -/
def Lock.hits (l : Lock) (t : Thread) (line : Nat) (w : Bool) : Bool :=
  l.ctx == t.ctx && (l.dest || w) && l.phys == (t.level == .monitor) && l.guards t.party line

/-- The trap of an access that hits a range lock (R205). -/
def State.lockHit (s : State) (va n : Nat) (w : Bool) : Option Cause :=
  let t := s.thr
  let locks := (s.cluster (ridOf s.cur)).locks
  match (linesAt va n).find? (fun x => locks.any (fun l => l.hits t x w)) with
  | none => none
  | some x =>
    let cover := locks.filter (fun l => l.hits t x w)
    let dests := cover.filter (fun l => l.dest)
    let best := if dests = [] then cover else dests
    let owner := (best.map (fun l => l.owner)).foldl min 2
    some ⟨5, 0, 2 * owner + (if dests = [] then 0 else 1), true, BitVec.ofNat 64 (max va (64 * x))⟩

/-! Answers that a waiting group obtained (log entry 12). -/

/-- The next answer of the group. One that it still awaits stands for all that follow it. Log entry 12. -/
def State.takeGrant (s : State) : Option Answer × State :=
  match s.thr.grants with
  | [] => (none, s)
  | .awaited :: _ => (some .awaited, s)
  | a :: t => (some a, s.onThr (fun x => { x with grants := t }))
/-- The state on which a group is run to see what it comes to when its outstanding answers come. -/
def State.probe (s : State) : State := s.onThr (fun t => { t with grants := t.grants ++ [.awaited] })
def State.probing (s : State) : Bool := s.thr.grants.contains .awaited
/-- Notes what the group in flight is to keep. -/
def State.note (f : Flight → Flight) (s : State) : State :=
  if s.probing then s.onThr (fun t => { t with flight := f t.flight }) else s

/-- Changes what the group in course keeps. -/
def State.onFlight (f : Flight → Flight) (s : State) : State := s.onThr (fun t => { t with flight := f t.flight })
/-- Whether the group has passed its checks, so that what it performs stands. -/
def State.passed (s : State) : Bool := s.thr.flight.passed
/-- A stage of a group that has passed is over: `f` keeps what it gave. Log entry 12. -/
def State.staged (f : Flight → Flight) (s : State) : State :=
  if s.passed then s.onFlight (fun x => { f x with done := [], todo := [] }) else s
/-- One of several accesses of a parcel: one that the group has performed already is not performed again, and its value is kept
(R318). Log entry 12. -/
def State.once (f : State → Acc Word) (s : State) : Acc Word :=
  if s.passed then match s.thr.flight.todo with
    | v :: l => .ok v (s.onFlight (fun x => { x with todo := l }))
    | [] => (f s).bind (fun v s => .ok v (s.onFlight (fun x => { x with done := x.done ++ [v] })))
  else f s

/-- Something that a group awaits from outside its Spindle: its answer, when the group has it; else `send` starts it, and the
group waits in flight. With `look`, later checks of the group rest on the answer, so it comes before them; without, every
check of the group comes before it (R80), and what the group has performed by then stands (R318). Log entry 12. -/
def State.ask (look : Bool) (send : State → State) (s : State) : Acc Answer :=
  match s.takeGrant with
  | (none, _) => .hold (if s.passed then fun _ => send s else send)
  | (some .awaited, _) =>
    if look then .hold (fun t => (send t).onThr (fun x => { x with grants := [], flight := { s.thr.flight with on := true } }))
    else .ok .awaited s
  | (some a, s) => .ok a s

/-- The thread leaves the rotation until the access has completed (R183). -/
def State.slow (s : State) : State := s.onThr (fun t => { t with run := .access })

/-! Resolving an address (R185). -/

/-- Steps 1 and 2 of R185, with R9 to R11. Log entry 24. -/
def canonCheck (lvl : Level) (va k : Nat) : Option Cause :=
  let w := BitVec.ofNat 64 va
  if field va 63 57 ≠ 0 ∨ (lvl = .monitor ∧ field va 63 52 ≠ 0) then some (tPage 0x01 (infoNoWalk k) false w)
  else if lvl = .user ∧ field va 56 56 = 1 then some (tPerm 0x01 (infoNoWalk k) false w)
  else none

/-- Which command window of the context its Spindle maps at an address (R214). Log entry 24. -/
def State.cmdWindow (s : State) (g : Nat) (c : BitVec 12) (va : Nat) : Option Nat :=
  [0, 1].find? (fun k => match Tab.find (c.toNat * 2 + k) (s.spindle g).win with
    | some b => va / 4096 == b.toNat / 4096
    | none => false)

/-- The misuse of a place by an access (R410, R430, R443). -/
def placeCheck (p : Place) (q : Req) : Option Cause :=
  let w := BitVec.ofNat 64 q.va
  if p.isBlock ∧ ¬(q.plain ∧ q.n = 8 ∧ (q.k = .load ∨ q.k = .store)) then some (tPerm 0x21 (infoNoWalk q.k.code) false w)
  else match p with
    | .aperture _ => if q.fe then some (tPerm 0x23 (infoNoWalk q.k.code) false w) else none
    | _ => none

/-- Where a physical address lands that a page's entry gave. -/
def State.locOf (s : State) (pa : Nat) (page : Nat × Nat) : Loc :=
  let p := s.place pa
  match s.placeMem p with
  | some o => .mem o
  | none => if p.isBlock then .reg p else .far p page
/-- The page of an address whose entry translates it; physical addresses have none. -/
def pageOf (lvl : Level) (va : Nat) (e : Word) : Nat × Nat :=
  if lvl = .monitor then (0, 0) else (va / pageSize (ptePS e) * pageSize (ptePS e), pageSize (ptePS e))

/-- The physical address of an address for n bytes by the thread whose turn it is, and its page, or the trap of its translation. A page that is
not resident or is migrating holds the group (R361, R422). A group in flight has it already. -/
def State.reach (va n : Nat) (k : AKind) (s : State) : Acc (Nat × Nat × Nat) :=
  let t := s.thr
  match t.flight.reached.find? (fun r => r.va == va && r.n == n && r.k == k) with
  | some r => .ok (r.pa, r.page) s
  | none => match s.translate t.ctx t.level (.thread (gspOf s.cur) (slotOf s.cur)) va n k with
    | (.bad c, _) => .trap c
    | (.moving e, _) => .hold (fun s =>
        (s.onThr (fun t => t.onPage e)).moveHold e (.thread s.cur t.party))
    | (.absent e pte, _) => match s.takeGrant with
      | (some .refused, _) => .trap (tPage 0x03 (infoNoWalk k.code) false (BitVec.ofNat 64 va))
      | _ => .hold (fun s => s.pageHold e va pte)
    | (.ok pa e, s) =>
      .ok (pa, pageOf t.level va e) (s.note (fun f => { f with reached := ⟨va, n, k, pa, pageOf t.level va e⟩ :: f.reached }))

/-- The checks of an access of the thread whose turn it is, those of R185 in their order, and where it lands.
Log entry 54. -/
def State.resolveNew (q : Req) (s : State) : Acc Loc :=
  let t := s.thr
  let g := gspOf s.cur
  let w := BitVec.ofNat 64 q.va
  let locked (l : Loc) (s : State) : Acc Loc := (Acc.check (s.lockHit q.va q.n q.k.writes) s).bind (fun _ s => .ok l s)
  match canonCheck t.level q.va q.k.code with
  | some c => .trap c
  | none =>
    if q.va % q.al ≠ 0 then .trap (tAlign w) else
    if t.level ≠ .monitor ∧ inWindow q.va then
      if !q.plain then .trap (tPerm 0x10 (infoNoWalk q.k.code) false w)
      else match (s.party? t.party).bind (fun p => s.windowAt p (g / 8) q.va) with
        | none => .trap (tPage 0x10 (infoNoWalk q.k.code) false w)
        | some (h, o) => locked (.ua h o) s
    else match (if t.level = .monitor then none else s.cmdWindow g t.ctx q.va) with
    | some kind =>
      let o := q.va % 4096
      if !q.plain ∨ (q.k.writes ∧ q.n < 8 ∧ 56 ≤ o % 64) then .trap (tPerm 0x20 (infoNoWalk q.k.code) false w)
      else locked (.cmd kind o) s
    | none => (s.reach q.va q.n q.k).bind (fun r s =>
        (Acc.check (placeCheck (s.place r.1) q) s).bind (fun _ s => locked (s.locOf r.1 r.2) s))

/-- Resolves an access: a group in flight has passed its checks and knows where it lands; else they are made now. -/
def State.resolve (q : Req) (s : State) : Acc Loc :=
  match s.thr.flight.landed.find? (fun e => e.1 == q) with
  | some e => .ok e.2 s
  | none => (s.resolveNew q).bind (fun l s => .ok l (s.note (fun f => { f with landed := (q, l) :: f.landed })))

/-- A group that writes a whole line does not fail on its poison, which goes (R343; log entry 25): the line of `va`, when its
write passes every other check. -/
def State.wholeLine (va : Nat) (s : State) : State :=
  match State.resolveNew { va := va / 64 * 64, n := 64, al := 8, k := .store } { s with poisoned := [] } with
  | .ok (.mem o) _ => s.unpoison o 64
  | _ => s

/-! Accesses that another device or the host performs (R434, R435, R443). -/

/-- INFO of a lost or refused request (R399). Log entry 54. -/
def farInfo (k dev : Nat) : Nat := k + 0xF0 + dev % 1024 * 256

/-- Sends a request out for the thread whose turn it is, which waits for its answer (R434). The host stands as device
1,024. Log entry 55. -/
def State.farSend (p : Place) (page : Nat × Nat) (op : RemoteOp) (w : PWaiter) (c : BitVec 12) (s : State) : Nat × State :=
  let (id, s) := s.newId
  let (dev, off, port) := match p with
    | .remote d o => (d, o, s.routePort d c)
    | .aperture h => (1024, h, none)
    | _ => (1024, 0, none)
  (id, { s with remotes := s.remotes ++ [{
    id := id, dev := dev, off := off, ctx := c, page := page, op := op, port := port, waiter := w }] })

/-- Sends a request for the thread whose turn it is, which waits for its answer. -/
def State.farWait (p : Place) (page : Nat × Nat) (op : RemoteOp) (s : State) : State :=
  let (id, s) := s.farSend p page op (.thread s.cur s.thr.party) s.thr.ctx
  s.onThr (fun t => { t with run := .remote id })

/-- What an access on which later checks of its group rest has found: its value, by its address and kind. -/
def Req.key (q : Req) : Nat := q.va + 2 ^ 64 * q.k.code
def State.noteSeen (q : Req) (v : Nat) (s : State) : State :=
  if q.look then s.note (fun f => { f with seen := (q.key, v) :: f.seen }) else s
/-- An access that is performed elsewhere: the bytes of the answer, when the group has it; else the group waits in flight.
Log entries 12, 55. -/
def State.farBytes (p : Place) (page : Nat × Nat) (op : RemoteOp) (q : Req) (s : State) : Acc (List Byte) :=
  let w := BitVec.ofNat 64 q.va
  let dev := match p with
    | .remote d _ => d
    | _ => 0
  match (if q.look then s.thr.flight.seen.find? (fun e => e.1 == q.key) else none) with
  | some e => .ok (toBytes 8 e.2) s
  | none => (s.ask q.look (State.farWait p page op)).bind (fun a s => match a with
    | .done a b => .ok (toBytes 8 a.toNat ++ toBytes 8 b.toNat) (s.noteSeen q a.toNat)
    | .refused => .trap (tPerm 0x22 (farInfo q.k.code dev) false w)
    | .lost => .trap (tPage 0x13 (farInfo q.k.code dev) false w)
    | .listFull => .trap ⟨6, 0, 0, true, w⟩
    | .strandEnd => .trap ⟨7, 3, 0, false, 0⟩
    | .page sub => .trap (tPage sub (farInfo q.k.code dev) false w)
    | .data bs => .ok bs (s.noteSeen q (ofBytes bs))
    | .withdrawn | .awaited => .ok [] s)
/-- The words of the answer. -/
def State.far (p : Place) (page : Nat × Nat) (op : RemoteOp) (q : Req) (s : State) : Acc (Word × Word) :=
  (s.farBytes p page op q).bind (fun bs s =>
    .ok (BitVec.ofNat 64 (ofBytes (bs.take 8)), BitVec.ofNat 64 (ofBytes ((bs.drop 8).take 8))) s)

/-- That an access of n bytes which another device performs may write there: one of the group's checks (R80, R122).
Log entry 55. -/
def State.farMay (q : Req) (l : Loc) (s : State) : Acc Unit :=
  match l with
  | .far p u => if s.passed then .ok () s else (s.farBytes p u (.mayWrite q.n) { q with look := true }).bind (fun _ s => .ok () s)
  | _ => .ok () s

/-! Plain loads. -/

/-- Staging byte (R214, R215). -/
def State.stage (s : State) (g : Nat) (c : BitVec 12) (kind o : Nat) : Nat → List Byte
  | 0 => []
  | n + 1 => (s.spindle g).staging.getD 0 ((c.toNat * 2 + kind) * 4096 + o) :: s.stage g c kind (o + 1) n

/-- Whether a plain access that lands on memory stays in the rotation: its Spindle's stash holds the line (R183). -/
def State.stashHit (s : State) (g : Nat) (c : BitVec 12) (va off : Nat) : Bool :=
  s.thr.level != .monitor && !s.hostBiased off && s.stashMaps g c va
    && (Tab.find (off / 64) s.stashed).any (fun e => e.gsp == g)

/-- Reads n bytes, 1 to 8, where a plain load lands. -/
def State.loadAt (q : Req) (l : Loc) (s : State) : Acc Nat :=
  let t := s.thr
  let g := gspOf s.cur
  match l with
  | .ua h o => .ok (ofBytes (s.uaRead h o q.n)) (if h = g then s else s.slow)
  | .mem o =>
    let hit := s.stashHit g t.ctx q.va o
    let v := s.rd o q.n
    let s := s.lineTouch g t.ctx q.va o false true
    .ok v (if hit then s else s.slow)
  | .reg p => let (v, s) := s.regRead p; .ok v.toNat s.slow
  | .cmd k o => .ok (ofBytes (s.stage g t.ctx k o q.n)) s.slow
  | .far p u => (s.far p u (.read q.n) q).bind (fun r s => .ok r.1.toNat s)

/-- A plain load of n bytes (R183, R188). -/
def State.load (va n : Nat) (s : State) : Acc Nat :=
  let q : Req := { va := va, n := n, al := n, k := .load }
  (s.resolve q).bind (State.loadAt q)
/-- A load of a doubleword on whose value checks of its own group rest (R122, R130, R136): a group in flight keeps what it
loaded. Log entry 12. -/
def State.look (va : Nat) (s : State) : Acc Word :=
  let q : Req := { va := va, n := 8, al := 8, k := .load, look := true }
  match s.thr.flight.seen.find? (fun e => e.1 == va) with
  | some e => .ok (BitVec.ofNat 64 e.2) s.slow
  | none => (s.resolve q).bind (fun l s => (s.loadAt q l).bind (fun v s =>
      .ok (BitVec.ofNat 64 v) (match l with
        | .far _ _ => s
        | _ => s.note (fun f => { f with seen := (va, v) :: f.seen }))))

/-- Writes bytes to memory for an agent's store: the data, and the poison of lines fully written (R343).
Log entry 25. -/
def State.memStore (o : Nat) (bs : List Byte) (s : State) : State := (s.wrBytes o bs).unpoison o bs.length

/-! Read-modify-writes and full/empty operations are performed at the home (R190, R197). -/

/-- A word's home operation on memory by the thread whose turn it is: a stash yields the line first (R213). -/
def State.homeTouch (va off : Nat) (w : Bool) (s : State) : State :=
  (s.lineTouch (gspOf s.cur) s.thr.ctx va off w false).slow

end Sys2Proof.Machine
end

