-- ==== Sys2Proof/Machine/Command.lean ====
section
/-! DEFINITION. Ply and near-bank command lines: their fields, the bytes and locks they name, and submission by a store
to byte 56 of a staging line (07, R214 to R225, R233). -/

namespace Sys2Proof.Machine
open Sys2Proof

/-- An operand descriptor (R223). -/
structure Opnd where
  off : Nat
  lds : Nat
  fmt : Nat
  layout : Nat
  /-- A reserved bit is set. -/
  bad : Bool
  deriving DecidableEq, Repr

def opnd (w0 w1 : Word) : Opnd :=
  { off := fld w0 17 0, lds := fld w1 31 16, fmt := fld w1 11 8, layout := fld w1 1 0,
    bad := fld w0 63 18 != 0 || w1 &&& 0xFFFFFFFF0000F0FC != 0 }
end Sys2Proof.Machine

namespace Sys2Proof
open Sys2Proof.Machine

/-! Fields (R103, R223, R224). -/

def CmdLine.tile (c : CmdLine) : Nat := fld c.dim 1 0
def CmdLine.m (c : CmdLine) : Nat := fld c.dim 32 27
def CmdLine.n (c : CmdLine) : Nat := fld c.dim 43 33
def CmdLine.k (c : CmdLine) : Nat := fld c.dim 63 44
def CmdLine.smode (c : CmdLine) : Nat := fld c.scale 63 62
def CmdLine.scc (c : CmdLine) : Nat := fld c.scale 23 16
def CmdLine.sca (c : CmdLine) : Nat := fld c.scale 15 8
def CmdLine.scb (c : CmdLine) : Nat := fld c.scale 7 0
def CmdLine.flag (c : CmdLine) (i : Nat) : Bool := c.flags.getLsbD (i - 16)
/-- PLANES of the bp commands, bits 27:24 of the opcode word. -/
def CmdLine.planes (c : CmdLine) : Nat := c.args.toNat % 16
def CmdLine.rnd (c : CmdLine) : Nat := c.flags.toNat % 8

def CmdLine.a (c : CmdLine) : Opnd := opnd c.a0 c.a1
def CmdLine.b (c : CmdLine) : Opnd := opnd c.b0 c.b1

/-- CPITCH and FMT of a near-bank matrix (R237). -/
def CmdLine.pitch (c : CmdLine) : Nat := fld c.b1 63 32

end Sys2Proof

namespace Sys2Proof.Machine
open Sys2Proof

/-! The captured format (R25, R26). -/

def fmtA (f : Word) : Nat := fld f 3 0
def fmtB (f : Word) : Nat := fld f 7 4
def fmtC (f : Word) : Nat := fld f 11 8
def fmtPlanes (f : Word) : Nat := fld f 15 12
def fmtMidpt (f : Word) : Bool := tbit f 18
def fmtRmode (f : Word) : Nat := fld f 21 19
def fmtScblk (f : Word) : Nat := fld f 23 22
/-- A reserved bit of fmt is set (R26). -/
def fmtReserved (f : Word) : Bool := f &&& 0xFFFFFFFFFF030000 != 0
def planesReserved (p : Nat) : Bool := p == 1 || decide (9 ≤ p)

/-- The element width of a format code (R26, R54); bp as its 8-bit elements. -/
def fmtWidth (f : Nat) : Nat :=
  match f with
  | 1 | 2 | 5 | 6 | 11 => 8
  | 3 | 8 | 9 => 16
  | 4 | 10 => 32
  | 7 => 4
  | _ => 0

/-- The value of an element encoding in a format of R26. -/
def fmtVal (f x : Nat) : FVal :=
  let int (i : Int) : FVal := .fin (decide (i < 0)) i.natAbs 0
  match f with
  | 1 => int (toSigned 8 x)
  | 2 => int ((x % 256 : Nat) : Int)
  | 3 => int (toSigned 16 x)
  | 4 => int (toSigned 32 x)
  | 5 => e4m3.decode x
  | 6 => e5m2.decode x
  | 7 => e2m1.decode x
  | 8 => bf16.decode x
  | 9 => f16.decode x
  | 10 => f32.decode x
  | _ => .fin false 0 0

/-- A command as it runs: its opcode and line, with what its submission captured. -/
structure Job where
  opc : Nat
  c : CmdLine
  fmt : Word
  sca0 : Word
  sca1 : Word
  sca2 : Word
  deriving DecidableEq, Repr

def Job.isMma (j : Job) : Bool := j.opc == 2 || j.opc == 3 || j.opc == 4
def Job.isNbm (j : Job) : Bool := j.opc == 0x21 || j.opc == 0x22
def Job.isBp (j : Job) : Bool := j.opc == 4 || j.opc == 0x22
def Job.raw (j : Job) : Bool := (j.opc == 5 || j.opc == 6) && j.c.flag 19
/-- Whether the command multiplies by block scales (R229, R239). -/
def Job.scaled (j : Job) : Bool := j.opc == 3 || j.opc == 4 || j.isNbm
/-- Commands that name a tile (R222). -/
def Job.tiled (j : Job) : Bool := (decide (1 ≤ j.opc) && decide (j.opc ≤ 6)) || j.isNbm

/-- The planes a bp command reads (R229). -/
def Job.p (j : Job) : Nat :=
  let p := if j.c.planes = 0 then fmtPlanes j.fmt else j.c.planes
  if p = 0 then 8 else p

/-- The formats of A and of B; a field of 0 takes the captured fmt (R223, R237). -/
def Job.fa (j : Job) : Nat :=
  if j.c.a.fmt ≠ 0 then j.c.a.fmt else if j.opc = 6 then fmtC j.fmt else fmtA j.fmt
def Job.fb (j : Job) : Nat := if j.c.b.fmt ≠ 0 then j.c.b.fmt else fmtB j.fmt

/-- Rows and columns of the A operand, and of the B operand (R225, R227). -/
def Job.shapeA (j : Job) : Nat × Nat := if j.isMma || j.isNbm then (j.c.m, j.c.k) else (j.c.m, j.c.n)
def Job.shapeB (j : Job) : Nat × Nat := if j.opc = 7 then (j.c.n, j.c.m) else (j.c.k, j.c.n)
/-- Element width of A in bits. -/
def Job.wa (j : Job) : Nat := if j.raw then 64 else fmtWidth j.fa

/-- Bytes of the block size of fmt.SCBLK (R55). -/
def Job.block (j : Job) : Nat := if fmtScblk j.fmt = 2 then 16 else 32
def Job.nbk (j : Job) : Nat := cdiv j.c.k j.block
/-- Whether A or B scales are read from an array (R225, R229). -/
def Job.arrays (j : Job) : Bool := j.scaled && j.c.smode == 0 && fmtScblk j.fmt != 0
/-- The bytes of the scale arrays that the command reads, in the order it reads them (R225, R232). -/
def Job.scaleBytes (j : Job) : List Nat :=
  if j.arrays then
    (if j.sca0 = 0 then [] else (upto (j.c.m * j.nbk)).map (j.sca0.toNat + ·)) ++
    (if j.sca1 = 0 then [] else (upto (j.c.n * j.nbk)).map (j.sca1.toNat + ·))
  else if j.opc = 6 ∧ !j.raw ∧ j.c.smode = 0 ∧ j.sca2 ≠ 0 then [j.sca2.toNat]
  else []

/-! Bytes of an operand (R225). -/

/-- Bytes from OFF to the last byte of an operand of r rows, c columns and w-bit elements. -/
def Opnd.span (o : Opnd) (r c w p : Nat) : Nat :=
  match o.layout with
  | 0 => (r - 1) * o.lds + cdiv (c * w) 8
  | 1 => (c - 1) * o.lds + cdiv (r * w) 8
  | _ => (cdiv r 16 - 1) * o.lds + 64 * p
def Job.spanA (j : Job) : Nat := j.c.a.span j.shapeA.1 j.shapeA.2 j.wa 8
def Job.spanB (j : Job) : Nat := j.c.b.span j.shapeB.1 j.shapeB.2 (fmtWidth j.fb) j.p

/-- The bytes of one column of a near-bank matrix that are read (R237, R57). -/
def Job.column (j : Job) : Nat := if j.opc = 0x22 then (cdiv j.c.k 512 - 1) * 512 + 64 * j.p else j.c.k

/-- Whether LDS covers a row, column or block where it binds (R225). -/
def Opnd.covers (o : Opnd) (r c w p : Nat) : Bool :=
  match o.layout with
  | 0 => decide (r ≤ 1) || decide (cdiv (c * w) 8 ≤ o.lds)
  | 1 => decide (c ≤ 1) || decide (cdiv (r * w) 8 ≤ o.lds)
  | _ => decide (r ≤ 16) || decide (64 * p ≤ o.lds)

/-! Legality, STATUS 0x01 (R105, R226, R227). -/

/-- Word limits of a command: unused fields 0 and fields in range. The model's choice: the FMT fields that R229 and R234 want equal are
compared as the formats they name, a field of 0 being that of fmt (log entry 41). -/
def Job.legal (j : Job) : Bool :=
  let c := j.c
  let mn := decide (1 ≤ c.m ∧ c.m ≤ 32 ∧ 1 ≤ c.n ∧ c.n ≤ 32)
  let dimRsv := fld c.dim 26 2 == 0
  let noB := c.b0 == 0 && c.b1 == 0
  let noA := c.a0 == 0 && c.a1 == 0
  let sclRsv := fld c.scale 61 24 == 0
  let inl := sclRsv && c.scc == 0 && (if c.smode = 0 then c.sca == 0 && c.scb == 0 else c.smode == 1)
  let pl := c.args.toNat / 16 == 0 && !planesReserved c.planes && !planesReserved j.p
  let lay (o : Opnd) : Bool := !o.bad && decide (o.layout ≤ 1)
  let i8 (f : Nat) : Bool := f == 1 || f == 2
  let f8 (f : Nat) : Bool := f == 5 || f == 6
  c.rsv == 0 && scopeOk c.cscope && (match j.opc with
  | 1 => c.args == 0 && c.flags == 0 && noA && noB && c.dim &&& ~~~3 == 0 && c.scale == 0
  | 2 => c.args == 0 && decide (c.flags.toNat ≤ 1) && mn && dimRsv && decide (1 ≤ c.k ∧ c.k ≤ 4096) && c.scale == 0
    && lay c.a && lay c.b && ((i8 j.fa && i8 j.fb) || (f8 j.fa && f8 j.fb) || (j.fa == j.fb && [8, 9, 10].contains j.fa))
  | 3 => c.args == 0 && decide (c.flags.toNat ≤ 1) && mn && dimRsv && decide (1 ≤ c.k ∧ c.k ≤ 4096) && inl
    && lay c.a && lay c.b && (f8 j.fa || j.fa == 7) && (f8 j.fb || j.fb == 7)
  | 4 => pl && decide (c.flags.toNat ≤ 1) && mn && dimRsv && decide (1 ≤ c.k ∧ c.k ≤ 4096) && inl
    && lay c.a && !c.b.bad && c.b.layout == 2 && (i8 j.fa || f8 j.fa) && j.fb == 11
  | 5 => c.args == 0 && (c.flags == 0 || c.flags == 8) && mn && dimRsv && c.k == 0 && c.scale == 0 && noB && lay c.a
    && (if j.raw then c.a.fmt == 0 else [10, 8, 9, 4].contains j.fa)
  | 6 => c.args == 0 && decide (c.flags.toNat ≤ 31) && mn && dimRsv && c.k == 0 && noB && !c.a.bad
    && decide (c.rnd ≤ 4 ∨ c.rnd = 7)
    && (if j.raw then c.a.fmt == 0 && c.scale == 0 && decide (c.a.layout ≤ 1)
        else sclRsv && c.sca == 0 && c.scb == 0 && (if c.smode = 0 then c.scc == 0 else c.smode == 1)
          && (if j.fa = 11 then c.a.layout == 2 else decide (1 ≤ j.fa ∧ j.fa ≤ 10) && decide (c.a.layout ≤ 1)))
  | 7 => c.args == 0 && c.flags == 0 && mn && dimRsv && c.k == 0 && c.tile == 0 && c.scale == 0 && lay c.a && lay c.b
    && j.fa == j.fb && [1, 2, 3, 4, 5, 6, 8, 9, 10].contains j.fa
    && (decide (c.a.off + j.spanA ≤ c.b.off) || decide (c.b.off + j.spanB ≤ c.a.off))
  | 8 | 0x28 => c.args == 0 && c.flags == 0 && noA && noB && c.dim == 0 && c.scale == 0
  | 0x21 | 0x22 => decide (c.flags.toNat ≤ 1) && dimRsv && decide (1 ≤ c.k) && decide (1 ≤ c.m ∧ c.m ≤ 8)
    && decide (1 ≤ c.n ∧ c.n ≤ 1024 ∧ c.m * c.n ≤ 1024) && inl && !c.a.bad && c.a.layout == 0
    && (i8 j.fa || f8 j.fa) && c.b1 &&& 0x00000000FFFFF0FF == 0 && c.pitch != 0
    && (if j.opc = 0x21 then c.args == 0 && (j.fb == 1 || f8 j.fb) else pl && j.fb == 11)
  | _ => false)
  && (if j.isMma || j.opc == 5 || j.opc == 6 || j.opc == 7 || j.isNbm
      then c.a.covers j.shapeA.1 j.shapeA.2 j.wa 8 else true)
  && (if j.isMma || j.opc == 7 then c.b.covers j.shapeB.1 j.shapeB.2 (fmtWidth j.fb) j.p else true)

/-- The feature a command uses (R309, R311): the rounding mode that ply.stacc uses among them. Log entry 21. -/
def Job.features (j : Job) : List Nat :=
  (if j.isNbm || j.opc == 0x28 then [1] else []) ++ (if j.opc == 4 || (j.opc == 6 && !j.raw && j.fa == 11) then [2] else [])
  ++ (if j.opc = 3 ∨ (j.opc = 6 ∧ !j.raw ∧ j.fa = 7) then [3] else [])
  ++ (if j.opc = 6 ∧ !j.raw ∧ (if j.c.rnd = 7 then fmtRmode j.fmt else j.c.rnd) = 4 then [6] else [])

/-! The use of fmt at submission (R216 step 3). -/

/-- Whether a line consults fmt, and consults a reserved code or finds a reserved bit (R26, R216). -/
def Job.fmtBad (j : Job) : Bool :=
  let c := j.c
  let rsv (f : Nat) : Bool := decide (12 ≤ f)
  let srcA := j.isMma || j.isNbm || ((j.opc == 5 || j.opc == 6) && !j.raw) || j.opc == 7
  let srcB := j.isMma || j.isNbm || j.opc == 7
  let uses : List (Bool × Bool) :=
    [ (srcA && c.a.fmt == 0, rsv (if j.opc = 6 then fmtC j.fmt else fmtA j.fmt)),
      (srcB && c.b.fmt == 0, rsv (fmtB j.fmt)),
      (j.scaled, fmtScblk j.fmt == 3),
      (j.isBp, false),
      (j.isBp && c.planes == 0, planesReserved (fmtPlanes j.fmt)),
      (j.opc == 6 && !j.raw && c.rnd == 7, decide (5 ≤ fmtRmode j.fmt)) ]
  uses.any (fun (u, bad) => u && (bad || fmtReserved j.fmt))

/-! Locks (R220). -/

/-- The window address of a scratchpad offset of Spindle g (R182). -/
def windowVa (g off : Nat) : Nat := 0x00FFFFFFFFE00000 + g % 8 * 2 ^ 18 + off

/-- The ranges a legal command locks: first byte, bytes, whether a destination, whether a window range. -/
def Job.ranges (j : Job) (g : Nat) : List (Nat × Nat × Bool × Bool) :=
  let win (o : Opnd) (n : Nat) (d : Bool) : Nat × Nat × Bool × Bool := (windowVa g o.off, n, d, true)
  let scl : List (Nat × Nat × Bool × Bool) :=
    if j.arrays then
      (if j.sca0 = 0 then [] else [(j.sca0.toNat, j.c.m * j.nbk, false, false)]) ++
      (if j.sca1 = 0 then [] else [(j.sca1.toNat, j.c.n * j.nbk, false, false)])
    else []
  if !j.legal then [] else
  match j.opc with
  | 2 | 3 | 4 => [win j.c.a j.spanA false, win j.c.b j.spanB false] ++ scl
  | 5 => [win j.c.a j.spanA false]
  | 6 => [win j.c.a j.spanA true] ++ j.scaleBytes.map (fun b => (b, 1, false, false))
  | 7 => [win j.c.a j.spanA false, win j.c.b j.spanB true]
  | 0x21 | 0x22 => [win j.c.a j.spanA false, (j.c.b0.toNat, (j.c.n - 1) * j.c.pitch + j.column, false, false)] ++ scl
  | _ => []

/-- A reserved opcode for the window that receives it (R104). -/
def opcReserved (kind opc : Nat) : Bool :=
  if kind = 0 then !decide (1 ≤ opc ∧ opc ≤ 8) else !(([0x21, 0x22, 0x28] : List Nat).contains opc)

/-- The locks of a command (R205, R220): owner 1 for a Ply command, 2 for a near-bank command; none for a reserved opcode.
Log entry 41. -/
def Job.locks (j : Job) (g kind id : Nat) (ctx : BitVec 12) (party : Nat) : List Lock :=
  (if opcReserved kind j.opc then [] else j.ranges g).map (fun (lo, n, d, w) => {
    id := id, ctx := ctx, party := some party, lo := lo / 64, hi := (lo + n - 1) / 64,
    owner := kind + 1, dest := d })

/-- Ranges conflict (R204): they share a line, which in the window is one line only for one party. -/
def Lock.conflicts (a b : Lock) : Bool :=
  let lo := max a.lo b.lo
  let hi := min a.hi b.hi
  a.ctx == b.ctx && (a.dest || b.dest) && a.phys == b.phys && decide (lo ≤ hi)
    && (a.phys || a.party == b.party || !(inWindow (64 * lo) && inWindow (64 * hi)))

/-! Submission (R215, R216, R218, R233). -/

def opcOf (w : Word) : Nat := fld w 7 0

/-- The job of a line, with what its submitter or its command captured. -/
def jobOf (ws : List Word) (fmt s0 s1 s2 : Word) : Job :=
  { opc := opcOf (ws.getD 0 0), c := lineFields ws, fmt := fmt, sca0 := s0, sca1 := s1, sca2 := s2 }

def Cmd.job (c : Cmd) : Job := jobOf c.line c.fmt c.sca0 c.sca1 c.sca2

/-- The line at window offset o as its store to byte 56 leaves it. -/
def State.lineAt (s : State) (g : Nat) (c : BitVec 12) (kind o v : Nat) : List Word :=
  (upto 7).map (fun i => BitVec.ofNat 64 (ofBytes (s.stage g c kind (o / 64 * 64 + 8 * i) 8))) ++ [BitVec.ofNat 64 v]

/-- Writes staging bytes (R214). -/
def State.stageWrite (g : Nat) (c : BitVec 12) (kind o : Nat) (bs : List Byte) (s : State) : State :=
  s.onSpindle g (fun p => { p with
    staging := ((upto bs.length).zip bs).foldl
      (fun t (i, b) => t.put ((c.toNat * 2 + kind) * 4096 + o + i) b) p.staging })

/-- Steps 1 to 3 of R216 for completion address v. A page that is not resident or is migrating holds the store. -/
def State.submitCheck (kind o v : Nat) (s : State) : Acc Unit :=
  let t := s.thr
  let g := gspOf s.cur
  let w := BitVec.ofNat 64 v
  let q : Req := { va := v, n := 8, al := 8, k := .store, plain := false, fe := true }
  if field v 63 57 ≠ 0 then .trap (tPage 0x01 (infoNoWalk 1) false w)
  else if v % 8 ≠ 0 then .trap (tAlign w)
  else match canonCheck t.level v 1 with
  | some c => .trap c
  | none =>
    if t.level ≠ .monitor ∧ inWindow v then .trap (tPerm 0x10 (infoNoWalk 1) false w)
    else if s.thr.flight.on ∧ s.thr.flight.reached.any (fun r => r.va == v) then .ok () s
    else (s.reach v 8 .store).bind (fun r s => (Acc.check (placeCheck (s.place r.1) q) s).bind (fun _ s =>
      let ws := s.lineAt g t.ctx kind o v
      let j := jobOf ws t.fmt t.sca0 t.sca1 t.sca2
      if !opcReserved kind j.opc ∧ j.fmtBad then .trap (tIll 0) else .ok () s))

/-- Physical address of record k of a Ply block (R415). -/
def plyRec (b k : Nat) : Nat := b + 65536 * (k + 1)
/-- The record of a Spindle among a context's Ply blocks: block and index. -/
def State.plyFind (s : State) (g : Nat) (c : BitVec 12) : Option (Nat × Nat) :=
  (s.ctx c).plyBlocks.findSome? (fun b =>
    ((upto (s.prd8 (b + 24)).toNat).find? (fun k => fld (s.prd8 (plyRec b k)) 9 0 == g)).map (fun k => (b, k)))
/-- The commands of a queue that stand in a record (R415): they count in it as those do that stand on the Spindle (R218). -/
def State.savedCmds (s : State) (g : Nat) (c : BitVec 12) (kind : Nat) : Nat :=
  match s.plyFind g c with
  | some (b, k) => fld (s.prd8 (plyRec b k)) (21 + 8 * kind) (16 + 8 * kind)
  | none => 0
/-- The command at the head of a queue waits, those behind it are queued (R241). -/
def headed : List Cmd → List Cmd
  | [] => []
  | c :: t => (if c.st = .queued then { c with st := .waiting } else c)
      :: t.map (fun d => if d.st = .waiting then { d with st := .queued } else d)

/-- Whether the queue and the lock table have room for a command (R216). The model's choice: the command that runs counts among the
queue's 32 (log entry 41). -/
def State.submitRoom (s : State) (g : Nat) (c : BitVec 12) (kind n : Nat) : Bool :=
  decide ((((s.spindle g).queue.getD [] (c.toNat * 2 + kind)).length + s.savedCmds g c kind < 32)
    ∧ (s.cluster (g / 8)).locks.length + n ≤ 128)

/-- Waiting, out of the rotation, for queue or lock-table room (R201, R216). -/
def State.roomHold (w : Room) (s : State) : State := s.onThr (fun t => { t with run := .room w })

/-- A store to byte 56 of a staging line whose checks passed (R216): the locks, the queue and the capture in one step.
ply.stacc that rounds stochastically takes the generator states and advances each by 64 (R233). Without room the group waits at
this store, and what it has stored before stands (R215). Log entry 41. -/
def State.submit (kind o v : Nat) (s : State) : Acc Unit :=
  let t := s.thr
  let g := gspOf s.cur
  let ws := s.lineAt g t.ctx kind o v
  let j := jobOf ws t.fmt t.sca0 t.sca1 t.sca2
  let bad := opcReserved kind j.opc
  let n := (j.locks g kind 0 t.ctx t.party).length
  if !s.submitRoom g t.ctx kind n then (if s.probing then .ok () s else .hold (if s.passed then fun _ => s.roomHold .copies else State.roomHold .copies))
  else
    let (id, s) := s.newId
    let sr := !bad && j.opc == 6 && !j.raw && (if j.c.rnd = 7 then fmtRmode j.fmt else j.c.rnd) == 4
    let cmd : Cmd := {
      id := id, line := ws, fmt := t.fmt, sca0 := t.sca0, sca1 := t.sca1, sca2 := t.sca2, sca3 := t.sca3,
      party := t.party, rng := if sr then t.rng else [], level := t.level }
    let s := s.stageWrite g t.ctx kind o (toBytes 8 v)
    let s := s.onSpindle g (fun p => { p with
      queue := p.queue.put (t.ctx.toNat * 2 + kind) (headed (p.queue.getD [] (t.ctx.toNat * 2 + kind) ++ [cmd])) })
    let s := s.onCluster (g / 8) (fun c => { c with locks := c.locks ++ j.locks g kind id t.ctx t.party })
    let adv (x : BitVec 32) : BitVec 32 := (upto 64).foldl (fun x _ => rngStep x) x
    .ok () (s.onThr (fun t => { t with
      ops := t.ops ++ [id], run := .access, rng := if sr then t.rng.map adv else t.rng }))

/-! Plain stores. -/

/-- Writes n bytes of v where a plain store lands (R183, R188, R215). -/
def State.storeAt (q : Req) (v : Nat) (l : Loc) (s : State) : Acc Unit :=
  let t := s.thr
  let g := gspOf s.cur
  match l with
  | .ua h o => let s := s.uaWrite h o (toBytes q.n v); .ok () (if h = g then s else s.slow)
  | .mem o =>
    let hit := s.stashHit g t.ctx q.va o
    let s := (s.memStore o (toBytes q.n v)).lineTouch g t.ctx q.va o true true
    .ok () (if hit then s else s.slow)
  | .reg p => .ok () (s.regWrite p (BitVec.ofNat 64 v)).slow
  | .cmd k o =>
    if o % 64 = 56 then (s.submitCheck k o v).bind (fun _ s => s.submit k o v)
    else .ok () (s.stageWrite g t.ctx k o (toBytes q.n v)).slow
  | .far p u => (s.far p u (.write (toBytes q.n v)) q).bind (fun _ s => .ok () s)

/-- A plain store of n bytes (R183, R188). -/
def State.store (va n v : Nat) (s : State) : Acc Unit :=
  let q : Req := { va := va, n := n, al := n, k := .store }
  (s.resolve q).bind (State.storeAt q v)

end Sys2Proof.Machine
end

