-- ==== Sys2Proof/Machine/Operands.lean ====
section
/-! DEFINITION. Operand forms of T code: reading and writing x registers with their empty bits, poison marks and strand
bindings, and the one way an issue group runs (R19, R29, R79, R80, R126, R206 to R210). -/

namespace Sys2Proof.Machine
open Sys2Proof

/-! Strands (R206 to R210). -/

/-- An 8-byte word of a strand's ring or overflow area, or of its descriptor. -/
def strandReq (va : Nat) (k : AKind) : Req :=
  { va := va, n := 8, al := 8, k := k, plain := false, fe := true, look := k == .load }
def State.strandLoad (va : Nat) (s : State) : Acc Word :=
  (s.resolve (strandReq va .load)).bind (fun l s =>
    (s.loadAt (strandReq va .load) l).bind (fun v s => .ok (BitVec.ofNat 64 v) s.slow))
def State.strandStore (va : Nat) (v : Word) (s : State) : Acc Unit :=
  (s.resolve (strandReq va .store)).bind (fun l s =>
    (s.storeAt (strandReq va .store) v.toNat l).bind (fun _ s => .ok () s.slow))

/-- Address of ring element i, and of overflow slot n, of the descriptor at device offset b (R206). -/
def State.ringAt (s : State) (b : Nat) (i : Word) : Nat :=
  ((s.rd8 b).toNat + 8 * (i.toNat % 2 ^ fld (s.rd8 (b + 8)) 4 0)) % 2 ^ 64
def State.overAt (s : State) (b n : Nat) : Nat := ((s.rd8 (b + 32)).toNat + 8 * n) % 2 ^ 64
def State.ocap (s : State) (b : Nat) : Nat := fld (s.rd8 (b + 40)) 31 0
def State.ocount (s : State) (b : Nat) : Nat := fld (s.rd8 (b + 48)) 63 32
def State.ohead (s : State) (b : Nat) : Nat := fld (s.rd8 (b + 48)) 31 0
/-- Writes OCOUNT and OHEAD. -/
def State.setOver (b count head : Nat) (s : State) : State :=
  s.wr8 (b + 48) (BitVec.ofNat 64 (count % 2 ^ 32 * 2 ^ 32 + head % 2 ^ 32))
/-- Whether the strand at offset b holds no element (R30). -/
def State.strandEmpty (s : State) (b : Nat) : Bool := s.rd8 (b + 24) == s.rd8 (b + 16)

/-- The strand descriptor's access (R187, R210). -/
def descReq (d : Word) (k : AKind) : Req :=
  { va := d.toNat, n := 8, al := 64, k := k, plain := false, fe := true, look := true }

/-- The groups of other threads that are in flight past their checks (R209). -/
def State.others (s : State) : List Flight := (s.threads.filter (fun (k, t) => k != s.cur && t.flight.on)).map (·.2.flight)
/-- Whether another thread's group is at the ring of the descriptor at offset b, which stands on another device: the operation of one
group is one step on it, and the next waits for the answer (R209). Log entry 27. -/
def State.strandBusy (s : State) (b : Nat) : Bool := s.others.any (fun f => f.busy.contains b)
/-- Whether another thread's group is to pop from the descriptor at offset b with its pushes there, as one step: its elements are not
another's, and who would pop waits (R209). Log entry 27. -/
def State.strandClaimed (s : State) (b : Nat) : Bool := s.others.any (fun f => f.both.contains b)
/-- The elements for which groups of other threads, whose pushes have passed their checks, have room at offset b (R209). -/
def State.strandRoom (s : State) (b : Nat) : Nat := s.others.foldl (fun n f => n + f.room.count b) 0

/-- The elements that the ring at offset b holds. -/
def State.ringHas (s : State) (b : Nat) : Nat := (s.rd8 (b + 24) - s.rd8 (b + 16)).toNat
/-- A pop (R208): the element that leaves the ring, the overflow element that takes a place in it, then the words of the
descriptor. -/
def State.popAt (b : Nat) (s : State) : Acc Word :=
  let overs := s.ocount b ≠ 0
  (s.once (fun s => s.strandLoad (s.ringAt b (s.rd8 (b + 16))))).bind (fun v s =>
    if !overs then .ok v (s.wr8 (b + 16) (s.rd8 (b + 16) + 1))
    else (s.once (fun s => s.strandLoad (s.overAt b (s.ohead b)))).bind (fun o s =>
      (s.strandStore (s.ringAt b (s.rd8 (b + 24))) o).bind (fun _ s =>
        let s := (s.wr8 (b + 16) (s.rd8 (b + 16) + 1)).setOver b (s.ocount b - 1) ((s.ohead b + 1) % s.ocap b)
        .ok v (s.wr8 (b + 24) (s.rd8 (b + 24) + 1)))))

/-- A push into the ring has added v at offset b: a reader that waits there, the oldest, gets it as its pop, for the strand held none
before (R210). -/
def State.serveReader (b : Nat) (v : Word) (s : State) : State :=
  let rid := s.home b
  match (s.cluster rid).waits.find? (fun w => w.addr == b && w.op == .pop) with
  | none => s
  | some w =>
    if s.ringHas b ≠ 1 then s
    else
      let s := (s.wr8 (b + 16) (s.rd8 (b + 16) + 1)).onCluster rid (fun c => { c with waits := c.waits.filter (fun x => x.id != w.id) })
      match w.key with
      | some k => match (s.thread k).run with
        | .strandWait d => (s.onThread k (fun t => { t with popped := t.popped ++ [(d, v)] })).makeReady k
        | _ => s
      | none => s

/-- A push (R208, R210): into the ring, or the overflow area while the ring is full or overflow elements stand. It traps when there is
no place but those that other groups have room for. -/
def State.pushAt (b : Nat) (v : Word) (s : State) : Acc Unit :=
  let cap := 2 ^ fld (s.rd8 (b + 8)) 4 0
  if cap - s.ringHas b + (s.ocap b - s.ocount b) ≤ s.strandRoom b then .trap ⟨7, 3, 0, false, 0⟩
  else if s.ocount b ≠ 0 ∨ s.ringHas b = cap then
    if s.ocount b = s.ocap b then .trap ⟨7, 3, 0, false, 0⟩
    else (s.strandStore (s.overAt b ((s.ohead b + s.ocount b) % s.ocap b)) v).bind (fun _ s =>
      .ok () (s.setOver b (s.ocount b + 1) (s.ohead b)))
  else (s.strandStore (s.ringAt b (s.rd8 (b + 24))) v).bind (fun _ s =>
    .ok () ((s.wr8 (b + 24) (s.rd8 (b + 24) + 1)).serveReader b v))

/-- Parks the thread on an empty strand: the wait list of the descriptor's home (R210, R354). The group issues again whole.
Log entry 27. -/
def State.strandPark (d : Word) (b : Nat) (s : State) : State :=
  let (id, s) := s.newId
  (s.onThr (fun t => { t with run := .strandWait d, grants := [], flight := {} })).onCluster (s.home b) (fun c => { c with
    waits := c.waits ++ [{ id := id, addr := b, op := .pop, key := some s.cur }] })

/-- T-FEWAIT of a strand whose slice's wait list is full (R210). -/
def tStrandWait (d : Word) : Cause := ⟨6, 1, 0, true, d⟩
/-- Whether a migration has withdrawn the reader of a strand from its wait list, whose new slice had no entry for it (R360). -/
def State.readerOut (s : State) : Bool := s.thr.grants.head? == some .listFull
/-- Whether the wait list of the descriptor at offset b has no entry for the thread. -/
def State.strandListFull (s : State) (b : Nat) : Bool := s.readerOut || decide (1024 ≤ (s.cluster (s.home b)).waits.length)
/-- Parks on the empty strand at offset b, or T-FEWAIT when the list is full (R210). -/
def State.strandParked (d : Word) (b : Nat) (s : State) : Acc Unit :=
  if s.strandListFull b then .trap (tStrandWait d) else .hold (State.strandPark d b)

/-- A strand operation on a descriptor of another device is refused there, for no import entry grants one (R435), and traps so at its
issuer. Log entry 44. -/
def strandFar (p : Place) (d : Word) : Cause :=
  tPerm 0x22 (farInfo 2 (match p with
    | .remote n _ => n
    | _ => 0)) false d

/-- The next element at offset b that a group which also pushes there reads, to pop it with its pushes (R209). -/
def State.claimAt (b : Nat) (s : State) : Acc Word :=
  (s.once (fun s => s.strandLoad (s.ringAt b (s.rd8 (b + 16) + BitVec.ofNat 64 (s.thr.flight.claims.count b))))).bind (fun v s =>
    .ok v (s.onFlight (fun f => { f with claims := b :: f.claims })))
/-- Its pops of the elements that it has read at offset b (R209). -/
def State.claimsPop (b : Nat) : Nat → State → Acc Unit
  | 0, s => .ok () s
  | n + 1, s => (s.popAt b).bind (fun _ s =>
      State.claimsPop b n (s.staged (fun f => { f with claims := f.claims.erase b })))

/-- Pops for a source bound to descriptor d: an element already popped for this reader, else the strand's (R29, R210).
Log entry 27. -/
def State.popStrand (d : Word) (s : State) : Acc Word :=
  match s.thr.popped.find? (fun p => p.1 == d) with
  | some (_, v) => .ok v ((s.onThr (fun t => { t with popped := t.popped.eraseP (fun p => p.1 == d) })).slow)
  | none =>
    (s.resolve (descReq d .rmw)).bind (fun l s =>
    match l with
    | .mem b =>
      if s.strandBusy b || s.strandClaimed b then .hold id
      else if s.thr.flight.both.contains b then s.claimAt b
      else if s.strandEmpty b then (s.strandParked d b).bind (fun _ s => .ok 0 s)
      else ((s.onFlight (fun f => { f with busy := b :: f.busy })).popAt b).bind (fun v s =>
        .ok v ((s.onFlight (fun f => { f with busy := f.busy.erase b })).homeTouch d.toNat b true))
    | .far p _ => .trap (strandFar p d)
    | _ => .trap (tPerm 0x10 (infoNoWalk 2) false d))

/-- Pushes the result of a destination bound to descriptor d (R29, R210). Log entry 27. -/
def State.pushStrand (d v : Word) (s : State) : Acc Unit :=
  (s.resolve (descReq d .rmw)).bind (fun l s =>
    match l with
    | .mem b =>
      if s.strandBusy b then .hold id
      else ((State.claimsPop b (s.thr.flight.claims.count b) (s.onFlight (fun f => { f with busy := b :: f.busy }))).bind (fun _ s =>
        s.pushAt b v)).bind (fun _ s => .ok () ((s.onFlight (fun f => { f with busy := f.busy.erase b, room := f.room.erase b })).homeTouch d.toNat b true))
    | .far p _ => .trap (strandFar p d)
    | _ => .trap (tPerm 0x10 (infoNoWalk 2) false d))

/-! Reading and writing operands (R29, R79). -/

/-- Reads a source: the register, or a pop of its strand. Log entry 27. -/
def State.source (r : Reg) (s : State) : Acc Word :=
  match s.thr.strand r with
  | none => .ok (s.thr.rx r) s
  | some d => s.popStrand d
/-- Reads the sources of a group in operand order; one that has passed its checks keeps those that it has read. -/
def State.sources (rs : List Reg) (s : State) : Acc (List Word) :=
  if s.passed then
    (Acc.each (fun r s => (s.source r).bind (fun v s => .ok v (s.staged (fun f => { f with srcs := f.srcs ++ [v] }))))
      (rs.drop s.thr.flight.srcs.length) s).bind (fun ws u => .ok (s.thr.flight.srcs ++ ws) u)
  else Acc.each State.source rs s

/-- Writes a destination: the register, or a push to its strand. -/
def State.dest (w : Reg × Word) (s : State) : Acc Unit :=
  match s.thr.strand w.1 with
  | none => .ok () (s.onThr (fun t => t.wx w.1 w.2))
  | some d => s.pushStrand d w.2
/-- Writes the destinations of a group; one that has passed its checks keeps which are left. -/
def State.dests : List (Reg × Word) → State → Acc Unit
  | [], s => .ok () s
  | w :: t, s => (s.dest w).bind (fun _ s =>
      State.dests t (s.staged (fun f => { f with out := f.out.map (fun o => { o with ws := t }) })))

/-! Issue. -/

/-- A parcel as its group issues it: its x sources in operand order and x destinations, the v registers it names, whether
its encoding is one its entry accepts, its beats, the checks that come before any operand is read, its effect on its source
values, and what follows the whole group. `lead` are the checks of its own that come before the T-FEWAIT of a source past the
first `own` of them (R80). -/
structure TOp where
  xs : List Reg := []
  xd : List Reg := []
  vs : List Nat := []
  wf : Bool := true
  beats : Nat := 1
  own : Nat := xs.length
  lead : State → Acc Unit := fun s => .ok () s
  chk : State → Acc Unit := fun s => .ok () s
  run : List Word → State → Acc Out
  post : State → State := id

/-- Sets FFLAGS bits (R41). -/
def Thread.flags (t : Thread) (f : Flags) : Thread := { t with fflags := t.fflags ||| f }

/-- The first named register that is empty (R19); a bound register parks on its strand instead. -/
def Thread.emptyOf (t : Thread) (rs : List Reg) : Option Reg := rs.find? (fun r => t.isEmpty r && (t.strand r).isNone)

/-- T-CALLEE (R126). -/
def Thread.calleeCause (t : Thread) : Cause :=
  ⟨13, fld t.calleeStatus 23 16, fld t.calleeStatus 63 32, false, t.calleeF⟩

/-- The descriptor of the first source that is bound to an empty strand of this device (R30), and its offset; of the first bound one,
for a reader withdrawn from its list. -/
def State.emptyStrand (s : State) (xs : List Reg) : Option (Word × Nat) :=
  xs.findSome? (fun r => match s.thr.strand r with
    | none => none
    | some d =>
      if s.thr.popped.any (fun p => p.1 == d) then none
      else match s.resolve (descReq d .rmw) with
        | .ok (.mem b) s => if s.strandEmpty b || s.readerOut then some (d, b) else none
        | _ => none)

/-- The thread forfeits its slot (R174): the rotation is none in which it issued (R393). Log entry 15. -/
def State.forfeit (s : State) : State := s.onThr (fun t => { t with rot := t.rot - 1 })
/-- The waits that the operands of a group make before it issues: a named empty register parks it (R19), a pending
special-function result forfeits the slot (R174), an empty strand parks it (R30), or traps when its wait list is full, after the
checks of a parcel before the one that names it (R80). A reader that a migration withdrew from its list traps so (R360). -/
def operandCheck (op : TOp) (s : State) : Acc Unit :=
  let t := s.thr
  match t.emptyOf (op.xs ++ op.xd) with
  | some r => .hold (fun s => s.onThr (fun t => { t with run := .parked r }))
  | none =>
    if t.sfu.any (fun p => op.vs.contains p.vd.toNat) then .hold State.forfeit
    else match s.emptyStrand op.xs with
      | some (d, b) =>
        if s.strandListFull b ∧ s.emptyStrand (op.xs.take op.own) = none then (op.lead s).bind (fun _ _ => .trap (tStrandWait d))
        else s.strandParked d b
      | none => .ok () s
/-- A poisoned source traps (R126). -/
def poisonCheck (xs : List Reg) (s : State) : Acc Unit :=
  if xs.any s.thr.isPoisoned then .trap s.thr.calleeCause else .ok () s

/-- A parcel alone: its waits, its checks, its sources, its effect. A group that has passed its checks makes none again. -/
def TOp.go (op : TOp) (s : State) : Acc Out :=
  if !op.wf then .trap (tIll 0)
  else if s.passed then (s.sources op.xs).bind (fun ws s => op.run ws s)
  else (operandCheck op s).bind (fun _ s => (op.chk s).bind (fun _ s =>
    (poisonCheck op.xs s).bind (fun _ s => (s.sources op.xs).bind (fun ws s => op.run ws s))))
/-- Its results, which a group that has passed its checks keeps. -/
def TOp.results (op : TOp) (s : State) : Acc Out :=
  match s.thr.flight.out with
  | some o => .ok o s
  | none => (op.go s).bind (fun o s => .ok o (s.staged (fun f => { f with out := some o })))

/-- The access that took a group out of the rotation completes later (R183). -/
def State.accessSoon (s : State) : State :=
  match s.thr.run with
  | .access => s.eventually (.event .memoryAccessCompletion (.access s.cur none))
  | _ => s

/-- The effect of a parcel with its results written. -/
def Acc.written (r : Acc Out) : Acc Out := r.bind (fun o s => (s.dests o.ws).bind (fun _ s => .ok o s))

/-- A group traps with none of its effects (R80). -/
def State.quit (c : Cause) (s : State) : State :=
  (s.onThr (fun t => { t with grants := [], flight := {} })).takeTrap c s.thr.pc false

/-- The translations that a group's checks have used set A and D and stay cached (R406). -/
def State.settle (f : Flight) (s : State) : State :=
  let t := s.thr
  f.reached.foldr (fun r s => (s.translate t.ctx t.level (.thread (gspOf s.cur) (slotOf s.cur)) r.va r.n r.k).2) s
/-- The offset of the descriptor that a register is bound to, where the group's checks found it. -/
def State.boundAt (s : State) (f : Flight) (r : Reg) : Option Nat :=
  (s.thr.strand r).bind (fun d => (f.landed.find? (fun e => e.1 == descReq d .rmw)).bind (fun e => match e.2 with
    | .mem b => some b
    | _ => none))
/-- The group has passed its checks and is in flight with what its run noted; its pushes have room from then on, and its pops of a
descriptor to which it pushes are one step with them (R209). Log entry 12. -/
def State.fly (op : TOp) (f : Flight) (s : State) : State :=
  let pops := op.xs.filterMap (s.boundAt f)
  let pushes := op.xd.filterMap (s.boundAt f)
  (s.onThr (fun t => { t with grants := [], flight := { f with
    on := true, passed := true, fe := false, busy := [], both := pops.filter pushes.contains, room := pops.foldl List.erase pushes } })).settle f

/-- A group has taken effect: its pc, and what follows it. Where it leaves the position (a yield, a bar, an access outside the
Spindle) beside a V-parcel of several beats, it leaves at the first beat and its other beats come once the thread is back: a choice
of the model between R151 and R392, log entry 12. -/
def State.concluded (op : TOp) (pc : Word) (s : State) : State :=
  op.post (s.onThr (fun t => { t with pc := pc, grants := [], flight := {}, beats := op.beats - 1 })).accessSoon
/-- Runs a group on the state s it found: its results and pc take effect; or it traps with none of its effects (R80); or it
waits. A multi-beat group that leaves the rotation does so at its first beat, log entry 12. What a group awaits from outside starts when the group has passed every check: that is seen by a run as if the answers
had come; then the group performs its accesses, and those that stand before a wait stand (R318). Log entry 12. -/
def State.conclude (op : TOp) (s : State) : State :=
  let pc (o : Out) : Word := o.target.getD (s.thr.pc + s.thr.len)
  match (op.results s).written with
  | .trap c => s.quit c
  | .ok o s' => s'.concluded op (pc o)
  | .hold f =>
    if s.passed then f s
    else match (op.results s.probe).written with
    | .trap c => s.quit c
    | .hold g => g s
    | .ok _ t =>
      let u := s.fly op t.thr.flight
      match (op.results u).written with
      | .trap c => u.quit c
      | .ok o s' => s'.concluded op (pc o)
      | .hold g => g u

/-- Issues a group of one parcel. Log entry 12. -/
def issueOp (op : TOp) (s : State) : Host.Outcome State Fault Refusal := .next (s.conclude op)

end Sys2Proof.Machine
end

