-- ==== Sys2Proof/Machine/Integer.lean ====
section
/-! DEFINITION. The integer instructions of RV64I and M (04, R115 to R117). -/

namespace Sys2Proof.Machine
open Sys2Proof

/-! Shared forms. -/

/-- A result in rd of a function of two sources. -/
def binOp (rd rs1 rs2 : Reg) (f : Word → Word → Word) : TOp :=
  { xs := [rs1, rs2], xd := [rd], run := fun ws s => .ok { ws := [(rd, f (ws.getD 0 0) (ws.getD 1 0))] } s }
/-- A result in rd of a function of one source; `ok` says that the encoding can hold the immediate. -/
def unOp (rd rs1 : Reg) (ok : Bool) (f : Word → Word) : TOp :=
  { xs := [rs1], xd := [rd], wf := ok, run := fun ws s => .ok { ws := [(rd, f (ws.getD 0 0))] } s }
/-- A result in rd of the pc. -/
def pcOp (rd : Reg) (ok : Bool) (f : Word → Word) : TOp :=
  { xd := [rd], wf := ok, run := fun _ s => .ok { ws := [(rd, f s.thr.pc)] } s }

/-- 1 when the condition holds (R115). -/
def bit (b : Bool) : Word := if b then 1 else 0
/-- The low 32 bits, sign-extended (R115). -/
def sx32 (x : BitVec 32) : Word := x.signExtend 64
def lo32 (x : Word) : BitVec 32 := x.setWidth 32
/-- A 32-bit operation of two words, sign-extended. -/
def w32 (f : BitVec 32 → BitVec 32 → BitVec 32) (a b : Word) : Word := sx32 (f (lo32 a) (lo32 b))
/-- The shift count of a 64-bit and of a 32-bit shift. -/
def cnt6 (b : Word) : Nat := b.toNat % 64
def cnt5 {w : Nat} (b : BitVec w) : Nat := b.toNat % 32

/-- Signed quotient (R116): rounded toward zero; −1 by zero; the dividend for −2^(w−1) by −1. -/
def quotS {w : Nat} (a b : BitVec w) : BitVec w := if b = 0 then BitVec.allOnes w else BitVec.ofInt w (a.toInt.tdiv b.toInt)
/-- Unsigned quotient (R116): all ones by zero. -/
def quotU {w : Nat} (a b : BitVec w) : BitVec w := if b = 0 then BitVec.allOnes w else BitVec.ofNat w (a.toNat / b.toNat)
/-- Signed remainder, of the dividend's sign (R116); the dividend by zero. -/
def remS {w : Nat} (a b : BitVec w) : BitVec w := if b = 0 then a else BitVec.ofInt w (a.toInt.tmod b.toInt)
/-- Unsigned remainder (R116); the dividend by zero. -/
def remU {w : Nat} (a b : BitVec w) : BitVec w := if b = 0 then a else BitVec.ofNat w (a.toNat % b.toNat)
/-- Bits 127:64 of a product of integers (R115). -/
def highMul (i : Int) : Word := BitVec.ofInt 64 (i / (2 ^ 64 : Nat))


/-- lui (R115). -/
def opLui (rd : Reg) (imm : Word) : TOp := pcOp rd (Instr.lui rd imm).wf (fun _ => imm)
/-- lui (R115). -/
def execLui (rd : Reg) (imm : Word) (s : State) : Host.Outcome State Fault Refusal := issueOp (opLui rd imm) s
/-- auipc (R115). -/
def opAuipc (rd : Reg) (imm : Word) : TOp := pcOp rd (Instr.auipc rd imm).wf (fun pc => pc + imm)
/-- auipc (R115). -/
def execAuipc (rd : Reg) (imm : Word) (s : State) : Host.Outcome State Fault Refusal := issueOp (opAuipc rd imm) s
/-- addi (R115). -/
def opAddi (rd rs1 : Reg) (imm : Word) : TOp := unOp rd rs1 (Instr.addi rd rs1 imm).wf (fun x => x + imm)
/-- addi (R115). -/
def execAddi (rd rs1 : Reg) (imm : Word) (s : State) : Host.Outcome State Fault Refusal := issueOp (opAddi rd rs1 imm) s
/-- slti (R115). -/
def opSlti (rd rs1 : Reg) (imm : Word) : TOp := unOp rd rs1 (Instr.slti rd rs1 imm).wf (fun x => bit (x.slt imm))
/-- slti (R115). -/
def execSlti (rd rs1 : Reg) (imm : Word) (s : State) : Host.Outcome State Fault Refusal := issueOp (opSlti rd rs1 imm) s
/-- sltin (R115). -/
def opSltin (rd rs1 : Reg) (imm : Word) : TOp := unOp rd rs1 (Instr.sltin rd rs1 imm).wf (fun x => bit (x.ult imm))
/-- sltin (R115). -/
def execSltin (rd rs1 : Reg) (imm : Word) (s : State) : Host.Outcome State Fault Refusal := issueOp (opSltin rd rs1 imm) s
/-- xori (R115). -/
def opXori (rd rs1 : Reg) (imm : Word) : TOp := unOp rd rs1 (Instr.xori rd rs1 imm).wf (fun x => x ^^^ imm)
/-- xori (R115). -/
def execXori (rd rs1 : Reg) (imm : Word) (s : State) : Host.Outcome State Fault Refusal := issueOp (opXori rd rs1 imm) s
/-- ori (R115). -/
def opOri (rd rs1 : Reg) (imm : Word) : TOp := unOp rd rs1 (Instr.ori rd rs1 imm).wf (fun x => x ||| imm)
/-- ori (R115). -/
def execOri (rd rs1 : Reg) (imm : Word) (s : State) : Host.Outcome State Fault Refusal := issueOp (opOri rd rs1 imm) s
/-- andi (R115). -/
def opAndi (rd rs1 : Reg) (imm : Word) : TOp := unOp rd rs1 (Instr.andi rd rs1 imm).wf (fun x => x &&& imm)
/-- andi (R115). -/
def execAndi (rd rs1 : Reg) (imm : Word) (s : State) : Host.Outcome State Fault Refusal := issueOp (opAndi rd rs1 imm) s
/-- addiw (R115). -/
def opAddiw (rd rs1 : Reg) (imm : Word) : TOp := unOp rd rs1 (Instr.addiw rd rs1 imm).wf (fun x => sx32 (lo32 (x + imm)))
/-- addiw (R115). -/
def execAddiw (rd rs1 : Reg) (imm : Word) (s : State) : Host.Outcome State Fault Refusal := issueOp (opAddiw rd rs1 imm) s
/-- slli (R115, R117). -/
def opSlli (rd rs1 : Reg) (sh : BitVec 6) : TOp := unOp rd rs1 true (fun x => x <<< sh.toNat)
/-- slli (R115, R117). -/
def execSlli (rd rs1 : Reg) (sh : BitVec 6) (s : State) : Host.Outcome State Fault Refusal := issueOp (opSlli rd rs1 sh) s
/-- srli (R115, R117). -/
def opSrli (rd rs1 : Reg) (sh : BitVec 6) : TOp := unOp rd rs1 true (fun x => x >>> sh.toNat)
/-- srli (R115, R117). -/
def execSrli (rd rs1 : Reg) (sh : BitVec 6) (s : State) : Host.Outcome State Fault Refusal := issueOp (opSrli rd rs1 sh) s
/-- srai (R115, R117). -/
def opSrai (rd rs1 : Reg) (sh : BitVec 6) : TOp := unOp rd rs1 true (fun x => x.sshiftRight sh.toNat)
/-- srai (R115, R117). -/
def execSrai (rd rs1 : Reg) (sh : BitVec 6) (s : State) : Host.Outcome State Fault Refusal := issueOp (opSrai rd rs1 sh) s
/-- slliw (R115, R117). -/
def opSlliw (rd rs1 : Reg) (sh : BitVec 5) : TOp := unOp rd rs1 true (fun x => sx32 (lo32 x <<< sh.toNat))
/-- slliw (R115, R117). -/
def execSlliw (rd rs1 : Reg) (sh : BitVec 5) (s : State) : Host.Outcome State Fault Refusal := issueOp (opSlliw rd rs1 sh) s
/-- srliw (R115, R117). -/
def opSrliw (rd rs1 : Reg) (sh : BitVec 5) : TOp := unOp rd rs1 true (fun x => sx32 (lo32 x >>> sh.toNat))
/-- srliw (R115, R117). -/
def execSrliw (rd rs1 : Reg) (sh : BitVec 5) (s : State) : Host.Outcome State Fault Refusal := issueOp (opSrliw rd rs1 sh) s
/-- sraiw (R115, R117). -/
def opSraiw (rd rs1 : Reg) (sh : BitVec 5) : TOp := unOp rd rs1 true (fun x => sx32 ((lo32 x).sshiftRight sh.toNat))
/-- sraiw (R115, R117). -/
def execSraiw (rd rs1 : Reg) (sh : BitVec 5) (s : State) : Host.Outcome State Fault Refusal := issueOp (opSraiw rd rs1 sh) s
/-- add (R115). -/
def opAdd (rd rs1 rs2 : Reg) : TOp := binOp rd rs1 rs2 (fun a b => a + b)
/-- add (R115). -/
def execAdd (rd rs1 rs2 : Reg) (s : State) : Host.Outcome State Fault Refusal := issueOp (opAdd rd rs1 rs2) s
/-- sub (R115). -/
def opSub (rd rs1 rs2 : Reg) : TOp := binOp rd rs1 rs2 (fun a b => a - b)
/-- sub (R115). -/
def execSub (rd rs1 rs2 : Reg) (s : State) : Host.Outcome State Fault Refusal := issueOp (opSub rd rs1 rs2) s
/-- sll (R115). -/
def opSll (rd rs1 rs2 : Reg) : TOp := binOp rd rs1 rs2 (fun a b => a <<< cnt6 b)
/-- sll (R115). -/
def execSll (rd rs1 rs2 : Reg) (s : State) : Host.Outcome State Fault Refusal := issueOp (opSll rd rs1 rs2) s
/-- slt (R115). -/
def opSlt (rd rs1 rs2 : Reg) : TOp := binOp rd rs1 rs2 (fun a b => bit (a.slt b))
/-- slt (R115). -/
def execSlt (rd rs1 rs2 : Reg) (s : State) : Host.Outcome State Fault Refusal := issueOp (opSlt rd rs1 rs2) s
/-- sltn (R115). -/
def opSltn (rd rs1 rs2 : Reg) : TOp := binOp rd rs1 rs2 (fun a b => bit (a.ult b))
/-- sltn (R115). -/
def execSltn (rd rs1 rs2 : Reg) (s : State) : Host.Outcome State Fault Refusal := issueOp (opSltn rd rs1 rs2) s
/-- xor (R115). -/
def opXor (rd rs1 rs2 : Reg) : TOp := binOp rd rs1 rs2 (fun a b => a ^^^ b)
/-- xor (R115). -/
def execXor (rd rs1 rs2 : Reg) (s : State) : Host.Outcome State Fault Refusal := issueOp (opXor rd rs1 rs2) s
/-- srl (R115). -/
def opSrl (rd rs1 rs2 : Reg) : TOp := binOp rd rs1 rs2 (fun a b => a >>> cnt6 b)
/-- srl (R115). -/
def execSrl (rd rs1 rs2 : Reg) (s : State) : Host.Outcome State Fault Refusal := issueOp (opSrl rd rs1 rs2) s
/-- sra (R115). -/
def opSra (rd rs1 rs2 : Reg) : TOp := binOp rd rs1 rs2 (fun a b => a.sshiftRight (cnt6 b))
/-- sra (R115). -/
def execSra (rd rs1 rs2 : Reg) (s : State) : Host.Outcome State Fault Refusal := issueOp (opSra rd rs1 rs2) s
/-- or (R115). -/
def opOr (rd rs1 rs2 : Reg) : TOp := binOp rd rs1 rs2 (fun a b => a ||| b)
/-- or (R115). -/
def execOr (rd rs1 rs2 : Reg) (s : State) : Host.Outcome State Fault Refusal := issueOp (opOr rd rs1 rs2) s
/-- and (R115). -/
def opAnd (rd rs1 rs2 : Reg) : TOp := binOp rd rs1 rs2 (fun a b => a &&& b)
/-- and (R115). -/
def execAnd (rd rs1 rs2 : Reg) (s : State) : Host.Outcome State Fault Refusal := issueOp (opAnd rd rs1 rs2) s
/-- addw (R115). -/
def opAddw (rd rs1 rs2 : Reg) : TOp := binOp rd rs1 rs2 (w32 (fun a b => a + b))
/-- addw (R115). -/
def execAddw (rd rs1 rs2 : Reg) (s : State) : Host.Outcome State Fault Refusal := issueOp (opAddw rd rs1 rs2) s
/-- subw (R115). -/
def opSubw (rd rs1 rs2 : Reg) : TOp := binOp rd rs1 rs2 (w32 (fun a b => a - b))
/-- subw (R115). -/
def execSubw (rd rs1 rs2 : Reg) (s : State) : Host.Outcome State Fault Refusal := issueOp (opSubw rd rs1 rs2) s
/-- sllw (R115). -/
def opSllw (rd rs1 rs2 : Reg) : TOp := binOp rd rs1 rs2 (w32 (fun a b => a <<< cnt5 b))
/-- sllw (R115). -/
def execSllw (rd rs1 rs2 : Reg) (s : State) : Host.Outcome State Fault Refusal := issueOp (opSllw rd rs1 rs2) s
/-- srlw (R115). -/
def opSrlw (rd rs1 rs2 : Reg) : TOp := binOp rd rs1 rs2 (w32 (fun a b => a >>> cnt5 b))
/-- srlw (R115). -/
def execSrlw (rd rs1 rs2 : Reg) (s : State) : Host.Outcome State Fault Refusal := issueOp (opSrlw rd rs1 rs2) s
/-- sraw (R115). -/
def opSraw (rd rs1 rs2 : Reg) : TOp := binOp rd rs1 rs2 (w32 (fun a b => a.sshiftRight (cnt5 b)))
/-- sraw (R115). -/
def execSraw (rd rs1 rs2 : Reg) (s : State) : Host.Outcome State Fault Refusal := issueOp (opSraw rd rs1 rs2) s
/-- mul (R115). -/
def opMul (rd rs1 rs2 : Reg) : TOp := binOp rd rs1 rs2 (fun a b => a * b)
/-- mul (R115). -/
def execMul (rd rs1 rs2 : Reg) (s : State) : Host.Outcome State Fault Refusal := issueOp (opMul rd rs1 rs2) s
/-- mulh (R115). -/
def opMulh (rd rs1 rs2 : Reg) : TOp := binOp rd rs1 rs2 (fun a b => highMul (a.toInt * b.toInt))
/-- mulh (R115). -/
def execMulh (rd rs1 rs2 : Reg) (s : State) : Host.Outcome State Fault Refusal := issueOp (opMulh rd rs1 rs2) s
/-- mulhsn (R115). -/
def opMulhsn (rd rs1 rs2 : Reg) : TOp := binOp rd rs1 rs2 (fun a b => highMul (a.toInt * b.toNat))
/-- mulhsn (R115). -/
def execMulhsn (rd rs1 rs2 : Reg) (s : State) : Host.Outcome State Fault Refusal := issueOp (opMulhsn rd rs1 rs2) s
/-- mulhn (R115). -/
def opMulhn (rd rs1 rs2 : Reg) : TOp := binOp rd rs1 rs2 (fun a b => highMul (a.toNat * b.toNat))
/-- mulhn (R115). -/
def execMulhn (rd rs1 rs2 : Reg) (s : State) : Host.Outcome State Fault Refusal := issueOp (opMulhn rd rs1 rs2) s
/-- div (R115, R116). -/
def opDiv (rd rs1 rs2 : Reg) : TOp := binOp rd rs1 rs2 (quotS)
/-- div (R115, R116). -/
def execDiv (rd rs1 rs2 : Reg) (s : State) : Host.Outcome State Fault Refusal := issueOp (opDiv rd rs1 rs2) s
/-- divn (R115, R116). -/
def opDivn (rd rs1 rs2 : Reg) : TOp := binOp rd rs1 rs2 (quotU)
/-- divn (R115, R116). -/
def execDivn (rd rs1 rs2 : Reg) (s : State) : Host.Outcome State Fault Refusal := issueOp (opDivn rd rs1 rs2) s
/-- rem (R115, R116). -/
def opRem (rd rs1 rs2 : Reg) : TOp := binOp rd rs1 rs2 (remS)
/-- rem (R115, R116). -/
def execRem (rd rs1 rs2 : Reg) (s : State) : Host.Outcome State Fault Refusal := issueOp (opRem rd rs1 rs2) s
/-- remn (R115, R116). -/
def opRemn (rd rs1 rs2 : Reg) : TOp := binOp rd rs1 rs2 (remU)
/-- remn (R115, R116). -/
def execRemn (rd rs1 rs2 : Reg) (s : State) : Host.Outcome State Fault Refusal := issueOp (opRemn rd rs1 rs2) s
/-- mulw (R115). -/
def opMulw (rd rs1 rs2 : Reg) : TOp := binOp rd rs1 rs2 (w32 (fun a b => a * b))
/-- mulw (R115). -/
def execMulw (rd rs1 rs2 : Reg) (s : State) : Host.Outcome State Fault Refusal := issueOp (opMulw rd rs1 rs2) s
/-- divw (R115, R116). -/
def opDivw (rd rs1 rs2 : Reg) : TOp := binOp rd rs1 rs2 (w32 quotS)
/-- divw (R115, R116). -/
def execDivw (rd rs1 rs2 : Reg) (s : State) : Host.Outcome State Fault Refusal := issueOp (opDivw rd rs1 rs2) s
/-- divnw (R115, R116). -/
def opDivnw (rd rs1 rs2 : Reg) : TOp := binOp rd rs1 rs2 (w32 quotU)
/-- divnw (R115, R116). -/
def execDivnw (rd rs1 rs2 : Reg) (s : State) : Host.Outcome State Fault Refusal := issueOp (opDivnw rd rs1 rs2) s
/-- remw (R115, R116). -/
def opRemw (rd rs1 rs2 : Reg) : TOp := binOp rd rs1 rs2 (w32 remS)
/-- remw (R115, R116). -/
def execRemw (rd rs1 rs2 : Reg) (s : State) : Host.Outcome State Fault Refusal := issueOp (opRemw rd rs1 rs2) s
/-- remnw (R115, R116). -/
def opRemnw (rd rs1 rs2 : Reg) : TOp := binOp rd rs1 rs2 (w32 remU)
/-- remnw (R115, R116). -/
def execRemnw (rd rs1 rs2 : Reg) (s : State) : Host.Outcome State Fault Refusal := issueOp (opRemnw rd rs1 rs2) s

end Sys2Proof.Machine
end

