-- ==== Sys2Proof/Machine/Control.lean ====
section
/-! DEFINITION. Branches, jumps, yield, trap, brk and tret (04, R118 to R120, R139, R144 to R146). -/

namespace Sys2Proof.Machine
open Sys2Proof

/-- A taken branch to t (R118, R119). -/
def branchTo (t : Word) (s : State) : Acc Out :=
  (Acc.check (targetCheck s.thr.level t) s).bind (fun _ s =>
    if tbit t 1 then .trap (tAlign t) else .ok { target := some t } s)

/-- A branch on a condition of two sources (R119). -/
def branchOp (rs1 rs2 : Reg) (imm : Word) (ok : Bool) (cond : Word → Word → Bool) : TOp :=
  { xs := [rs1, rs2], wf := ok,
    run := fun ws s => if cond (ws.getD 0 0) (ws.getD 1 0) then branchTo (s.thr.pc + imm) s else .ok {} s }

/-- beq (R119). -/
def opBeq (rs1 rs2 : Reg) (imm : Word) : TOp := branchOp rs1 rs2 imm (Instr.beq rs1 rs2 imm).wf (fun a b => a == b)
/-- beq (R119). -/
def execBeq (rs1 rs2 : Reg) (imm : Word) (s : State) : Host.Outcome State Fault Refusal := issueOp (opBeq rs1 rs2 imm) s
/-- bne (R119). -/
def opBne (rs1 rs2 : Reg) (imm : Word) : TOp := branchOp rs1 rs2 imm (Instr.bne rs1 rs2 imm).wf (fun a b => a != b)
/-- bne (R119). -/
def execBne (rs1 rs2 : Reg) (imm : Word) (s : State) : Host.Outcome State Fault Refusal := issueOp (opBne rs1 rs2 imm) s
/-- blt (R119). -/
def opBlt (rs1 rs2 : Reg) (imm : Word) : TOp := branchOp rs1 rs2 imm (Instr.blt rs1 rs2 imm).wf (fun a b => a.slt b)
/-- blt (R119). -/
def execBlt (rs1 rs2 : Reg) (imm : Word) (s : State) : Host.Outcome State Fault Refusal := issueOp (opBlt rs1 rs2 imm) s
/-- bge (R119). -/
def opBge (rs1 rs2 : Reg) (imm : Word) : TOp := branchOp rs1 rs2 imm (Instr.bge rs1 rs2 imm).wf (fun a b => !a.slt b)
/-- bge (R119). -/
def execBge (rs1 rs2 : Reg) (imm : Word) (s : State) : Host.Outcome State Fault Refusal := issueOp (opBge rs1 rs2 imm) s
/-- bltn (R119). -/
def opBltn (rs1 rs2 : Reg) (imm : Word) : TOp := branchOp rs1 rs2 imm (Instr.bltn rs1 rs2 imm).wf (fun a b => a.ult b)
/-- bltn (R119). -/
def execBltn (rs1 rs2 : Reg) (imm : Word) (s : State) : Host.Outcome State Fault Refusal := issueOp (opBltn rs1 rs2 imm) s
/-- bgen (R119). -/
def opBgen (rs1 rs2 : Reg) (imm : Word) : TOp := branchOp rs1 rs2 imm (Instr.bgen rs1 rs2 imm).wf (fun a b => !a.ult b)
/-- bgen (R119). -/
def execBgen (rs1 rs2 : Reg) (imm : Word) (s : State) : Host.Outcome State Fault Refusal := issueOp (opBgen rs1 rs2 imm) s
/-- jal (R120). -/
def opJal (rd : Reg) (imm : Word) : TOp := 
  { xd := [rd], wf := (Instr.jal rd imm).wf,
    run := fun _ s => (branchTo (s.thr.pc + imm) s).bind (fun o s => .ok { o with ws := [(rd, s.thr.pc + s.thr.len)] } s) }
/-- jal (R120). -/
def execJal (rd : Reg) (imm : Word) (s : State) : Host.Outcome State Fault Refusal := issueOp (opJal rd imm) s
/-- jalr (R120). -/
def opJalr (rd rs1 : Reg) (imm : Word) : TOp := 
  { xs := [rs1], xd := [rd], wf := (Instr.jalr rd rs1 imm).wf,
    run := fun ws s =>
      let t := ws.getD 0 0 + imm
      (Acc.check (targetCheck s.thr.level t) s).bind (fun _ s =>
        if fld t 1 0 ≠ 0 then .trap (tTag t)
        else .ok { ws := [(rd, s.thr.pc + s.thr.len)], target := some t } s) }
/-- jalr (R120). -/
def execJalr (rd rs1 : Reg) (imm : Word) (s : State) : Host.Outcome State Fault Refusal := issueOp (opJalr rd rs1 imm) s
/-- yield (R139): the thread joins the tail of its ready queue. -/
def opYield : TOp := { run := fun _ s => .ok {} s, post := fun s => s.makeReady s.cur }
/-- yield (R139): the thread joins the tail of its ready queue. -/
def execYield (s : State) : Host.Outcome State Fault Refusal := issueOp opYield s
/-- trap (R144): the group completes, then T-PRIV with SUB 0x80 at a higher level, from next_pc. -/
def opTrap (code : BitVec 12) : TOp := 
  { run := fun _ s => .ok {} s, post := fun s => s.takeTrap ⟨10, 0x80, code.toNat, false, 0⟩ s.thr.pc true }
/-- trap (R144): the group completes, then T-PRIV with SUB 0x80 at a higher level, from next_pc. -/
def execTrap (code : BitVec 12) (s : State) : Host.Outcome State Fault Refusal := issueOp (opTrap code) s
/-- brk (R145). -/
def opBrk : TOp := { run := fun _ _ => .trap ⟨11, 0, 0, false, 0⟩ }
/-- brk (R145). -/
def execBrk (s : State) : Host.Outcome State Fault Refusal := issueOp opBrk s
/-- tret (R146). -/
def opTret : TOp := 
  { run := fun _ s => match s.thr.returnTo with
      | .error c => .trap c
      | .ok (new, t) => (Acc.check (targetCheck new t) s).bind (fun _ s =>
          .ok { target := some (t &&& ~~~3) } (s.onThr (fun t => t.leave new))) }
/-- tret (R146). -/
def execTret (s : State) : Host.Outcome State Fault Refusal := issueOp opTret s

end Sys2Proof.Machine
end

