-- ==== Sys2Proof/Machine/Memory.lean ====
section
/-! DEFINITION. Loads, stores, full/empty operations, ordered accesses, fences and atomics (06, R188 to R198). -/

namespace Sys2Proof.Machine
open Sys2Proof

/-! Loads and stores (R188). -/

/-- A load of n bytes; `f` extends the value. -/
def loadOp (rd rs1 : Reg) (imm : Word) (ok : Bool) (n : Nat) (f : Nat → Word) : TOp :=
  { xs := [rs1], xd := [rd], wf := ok,
    run := fun ws s => (s.load (ws.getD 0 0 + imm).toNat n).bind (fun v s => .ok { ws := [(rd, f v)] } s) }
/-- A store of the low n bytes of rs2. -/
def storeOp (rs2 rs1 : Reg) (imm : Word) (ok : Bool) (n : Nat) : TOp :=
  { xs := [rs1, rs2], wf := ok,
    run := fun ws s =>
      (s.store (ws.getD 0 0 + imm).toNat n ((ws.getD 1 0).toNat % 2 ^ (8 * n))).bind (fun _ s => .ok {} s) }

/-- lb (R188). -/
def opLb (rd rs1 : Reg) (imm : Word) : TOp := loadOp rd rs1 imm (Instr.lb rd rs1 imm).wf 1 (sextW 8)
/-- lb (R188). -/
def execLb (rd rs1 : Reg) (imm : Word) (s : State) : Host.Outcome State Fault Refusal := issueOp (opLb rd rs1 imm) s
/-- lh (R188). -/
def opLh (rd rs1 : Reg) (imm : Word) : TOp := loadOp rd rs1 imm (Instr.lh rd rs1 imm).wf 2 (sextW 16)
/-- lh (R188). -/
def execLh (rd rs1 : Reg) (imm : Word) (s : State) : Host.Outcome State Fault Refusal := issueOp (opLh rd rs1 imm) s
/-- lw (R188). -/
def opLw (rd rs1 : Reg) (imm : Word) : TOp := loadOp rd rs1 imm (Instr.lw rd rs1 imm).wf 4 (sextW 32)
/-- lw (R188). -/
def execLw (rd rs1 : Reg) (imm : Word) (s : State) : Host.Outcome State Fault Refusal := issueOp (opLw rd rs1 imm) s
/-- ld (R188). -/
def opLd (rd rs1 : Reg) (imm : Word) : TOp := loadOp rd rs1 imm (Instr.ld rd rs1 imm).wf 8 (BitVec.ofNat 64)
/-- ld (R188). -/
def execLd (rd rs1 : Reg) (imm : Word) (s : State) : Host.Outcome State Fault Refusal := issueOp (opLd rd rs1 imm) s
/-- lbn (R188). -/
def opLbn (rd rs1 : Reg) (imm : Word) : TOp := loadOp rd rs1 imm (Instr.lbn rd rs1 imm).wf 1 (zextW 8)
/-- lbn (R188). -/
def execLbn (rd rs1 : Reg) (imm : Word) (s : State) : Host.Outcome State Fault Refusal := issueOp (opLbn rd rs1 imm) s
/-- lhn (R188). -/
def opLhn (rd rs1 : Reg) (imm : Word) : TOp := loadOp rd rs1 imm (Instr.lhn rd rs1 imm).wf 2 (zextW 16)
/-- lhn (R188). -/
def execLhn (rd rs1 : Reg) (imm : Word) (s : State) : Host.Outcome State Fault Refusal := issueOp (opLhn rd rs1 imm) s
/-- lwn (R188). -/
def opLwn (rd rs1 : Reg) (imm : Word) : TOp := loadOp rd rs1 imm (Instr.lwn rd rs1 imm).wf 4 (zextW 32)
/-- lwn (R188). -/
def execLwn (rd rs1 : Reg) (imm : Word) (s : State) : Host.Outcome State Fault Refusal := issueOp (opLwn rd rs1 imm) s
/-- sb (R188). -/
def opSb (rs2 rs1 : Reg) (imm : Word) : TOp := storeOp rs2 rs1 imm (Instr.sb rs2 rs1 imm).wf 1
/-- sb (R188). -/
def execSb (rs2 rs1 : Reg) (imm : Word) (s : State) : Host.Outcome State Fault Refusal := issueOp (opSb rs2 rs1 imm) s
/-- sh (R188). -/
def opSh (rs2 rs1 : Reg) (imm : Word) : TOp := storeOp rs2 rs1 imm (Instr.sh rs2 rs1 imm).wf 2
/-- sh (R188). -/
def execSh (rs2 rs1 : Reg) (imm : Word) (s : State) : Host.Outcome State Fault Refusal := issueOp (opSh rs2 rs1 imm) s
/-- sw (R188). -/
def opSw (rs2 rs1 : Reg) (imm : Word) : TOp := storeOp rs2 rs1 imm (Instr.sw rs2 rs1 imm).wf 4
/-- sw (R188). -/
def execSw (rs2 rs1 : Reg) (imm : Word) (s : State) : Host.Outcome State Fault Refusal := issueOp (opSw rs2 rs1 imm) s
/-- sd (R188). -/
def opSd (rs2 rs1 : Reg) (imm : Word) : TOp := storeOp rs2 rs1 imm (Instr.sd rs2 rs1 imm).wf 8
/-- sd (R188). -/
def execSd (rs2 rs1 : Reg) (imm : Word) (s : State) : Host.Outcome State Fault Refusal := issueOp (opSd rs2 rs1 imm) s

/-! Full/empty operations (R189 to R193). -/

/-- The access of a full/empty operation: ld.fe and fe.test need R alone (R189). Log entry 25. -/
def feReq (va : Nat) (k : AKind) : Req := { va := va, n := 8, al := 8, k := k, plain := false, fe := true }

/-- Joins the wait list at the home of the word at device offset o (R190). -/
def State.feJoin (o : Nat) (op : FeOp) (s : State) : State :=
  let (id, s) := s.newId
  (s.onThr (fun t => { t with run := .feWait id, flight := { t.flight with fe := true } })).onCluster (s.home o) (fun c => { c with
    waits := c.waits ++ [{ id := id, addr := o, op := op, key := some s.cur }] })
/-- Waits at the home of the word at device offset o (R190), or T-FEWAIT when its list is full (R192). -/
def State.feWait (va o : Nat) (op : FeOp) (s : State) : Acc Word :=
  if 1024 ≤ (s.cluster (s.home o)).waits.length then .trap ⟨6, 0, 0, true, BitVec.ofNat 64 va⟩
  else (s.ask false (State.feJoin o op)).bind (fun _ s => .ok 0 s)

/-- The effect of a waiting operation on the word at device offset o (R189, R190). -/
def State.feDo (va o : Nat) (op : FeOp) (s : State) : Acc Word :=
  match op with
  | .ldFe => if s.isFull o then .ok (s.rd8 o) (s.homeTouch va o false) else s.feWait va o op
  | .ldFc => if s.isFull o then .ok (s.rd8 o) (((s.setFull o false).feeChanged o).homeTouch va o true) else s.feWait va o op
  | .stEf v => if s.isFull o then s.feWait va o op else .ok 0 ((s.fillWord o v).homeTouch va o true)
  | .pop => .ok 0 s

/-- The request that performs a waiting operation on another device (R190). -/
def FeOp.remote : FeOp → RemoteOp
  | .ldFe => .feLoad false
  | .ldFc => .feLoad true
  | .stEf v => .feStore true v
  | .pop => .pop

/-- The result of an operation that its slice has served while it waited (R191). -/
def State.feServed (va : Nat) (s : State) : Acc Word :=
  match s.takeGrant with
  | (some (.done v _), s) => .ok v s
  | (some .listFull, _) => .trap ⟨6, 0, 0, true, BitVec.ofNat 64 va⟩
  | (_, s) => .ok 0 s

/-- A full/empty operation that may wait; one that its slice has served takes its result (R191). Log entry 12. -/
def State.feAccess (va : Nat) (k : AKind) (op : FeOp) (s : State) : Acc Word :=
  (s.resolve (feReq va k)).bind (fun l s => match l with
    | .mem o => if s.thr.flight.fe then s.feServed va else s.feDo va o op
    | .far p u => (s.far p u op.remote (feReq va k)).bind (fun r s => .ok r.1 s)
    | _ => .trap (tPerm 0x10 (infoNoWalk k.code) false (BitVec.ofNat 64 va)))

/-- A full/empty operation that never waits: `here` acts on the word at a device offset. -/
def State.feNow (va : Nat) (k : AKind) (here : Nat → State → Word × State) (there : RemoteOp) (s : State) : Acc Word :=
  (s.resolve (feReq va k)).bind (fun l s => match l with
    | .mem o => let (v, s) := here o s; .ok v (s.homeTouch va o k.writes)
    | .far p u => (s.far p u there (feReq va k)).bind (fun r s => .ok r.1 s)
    | _ => .trap (tPerm 0x10 (infoNoWalk k.code) false (BitVec.ofNat 64 va)))

/-- The bit of the word at device offset o as a register value (R189). -/
def State.feBit (s : State) (o : Nat) : Word := bit (s.isFull o)

/-- A full/empty operation with a result in rd. -/
def feOp (rd rs1 : Reg) (imm : Word) (ok : Bool) (f : Nat → State → Acc Word) : TOp :=
  { xs := [rs1], xd := [rd], wf := ok,
    run := fun ws s => (f (ws.getD 0 0 + imm).toNat s).bind (fun v s => .ok { ws := [(rd, v)] } s) }
/-- A full/empty store of rs2. -/
def feStOp (rs2 rs1 : Reg) (imm : Word) (ok : Bool) (f : Nat → Word → State → Acc Word) : TOp :=
  { xs := [rs1, rs2], wf := ok,
    run := fun ws s => (f (ws.getD 0 0 + imm).toNat (ws.getD 1 0) s).bind (fun _ s => .ok {} s) }

/-- ld.fe (R189 to R191). -/
def opLdFe (rd rs1 : Reg) (imm : Word) : TOp := feOp rd rs1 imm (Instr.ldFe rd rs1 imm).wf (fun a s => s.feAccess a .load .ldFe)
/-- ld.fe (R189 to R191). -/
def execLdFe (rd rs1 : Reg) (imm : Word) (s : State) : Host.Outcome State Fault Refusal := issueOp (opLdFe rd rs1 imm) s
/-- ld.fc (R189 to R191). -/
def opLdFc (rd rs1 : Reg) (imm : Word) : TOp := feOp rd rs1 imm (Instr.ldFc rd rs1 imm).wf (fun a s => s.feAccess a .rmw .ldFc)
/-- ld.fc (R189 to R191). -/
def execLdFc (rd rs1 : Reg) (imm : Word) (s : State) : Host.Outcome State Fault Refusal := issueOp (opLdFc rd rs1 imm) s
/-- st.ef (R189 to R191). -/
def opStEf (rs2 rs1 : Reg) (imm : Word) : TOp := feStOp rs2 rs1 imm (Instr.stEf rs2 rs1 imm).wf (fun a v s => s.feAccess a .rmw (.stEf v))
/-- st.ef (R189 to R191). -/
def execStEf (rs2 rs1 : Reg) (imm : Word) (s : State) : Host.Outcome State Fault Refusal := issueOp (opStEf rs2 rs1 imm) s
/-- st.f (R189). -/
def opStF (rs2 rs1 : Reg) (imm : Word) : TOp := 
  feStOp rs2 rs1 imm (Instr.stF rs2 rs1 imm).wf (fun a v s =>
    s.feNow a .rmw (fun o s => (0, s.fillWord o v)) (.feStore false v))
/-- st.f (R189). -/
def execStF (rs2 rs1 : Reg) (imm : Word) (s : State) : Host.Outcome State Fault Refusal := issueOp (opStF rs2 rs1 imm) s
/-- fe.set (R189). -/
def opFeSet (rd rs1 : Reg) (imm : Word) : TOp := 
  feOp rd rs1 imm (Instr.feSet rd rs1 imm).wf (fun a s =>
    s.feNow a .rmw (fun o s => (s.feBit o, (s.setFull o true).feeChanged o)) (.feBit 0))
/-- fe.set (R189). -/
def execFeSet (rd rs1 : Reg) (imm : Word) (s : State) : Host.Outcome State Fault Refusal := issueOp (opFeSet rd rs1 imm) s
/-- fe.clr (R189). -/
def opFeClr (rd rs1 : Reg) (imm : Word) : TOp := 
  feOp rd rs1 imm (Instr.feClr rd rs1 imm).wf (fun a s =>
    s.feNow a .rmw (fun o s => (s.feBit o, (s.setFull o false).feeChanged o)) (.feBit 1))
/-- fe.clr (R189). -/
def execFeClr (rd rs1 : Reg) (imm : Word) (s : State) : Host.Outcome State Fault Refusal := issueOp (opFeClr rd rs1 imm) s
/-- fe.test (R189). -/
def opFeTest (rd rs1 : Reg) (imm : Word) : TOp := 
  feOp rd rs1 imm (Instr.feTest rd rs1 imm).wf (fun a s => s.feNow a .load (fun o s => (s.feBit o, s)) (.feBit 2))
/-- fe.test (R189). -/
def execFeTest (rd rs1 : Reg) (imm : Word) (s : State) : Host.Outcome State Fault Refusal := issueOp (opFeTest rd rs1 imm) s

/-! Ordered accesses and fences (R194, R195). -/

/-- The access of an ordered operation or an atomic. -/
def ordReq (va n : Nat) (k : AKind) : Req := { va := va, n := n, al := n, k := k, plain := false }
/-- Bytes of the size bit (R194, R196). -/
def szBytes (z : Bool) : Nat := if z then 8 else 4

/-- An ordered or atomic operation: `here` acts on memory at a device offset. -/
def State.ordered (va n : Nat) (k : AKind) (here : Nat → State → (Word × Word) × State) (there : RemoteOp) (s : State) :
    Acc (Word × Word) :=
  (s.resolve (ordReq va n k)).bind (fun l s => match l with
    | .mem o => let (r, s) := here o s; .ok r (s.homeTouch va o k.writes)
    | .far p u => s.far p u there (ordReq va n k)
    | _ => .trap (tPerm 0x10 (infoNoWalk k.code) false (BitVec.ofNat 64 va)))

/-- Sign-extends a .w result (R194, R197). -/
def szExt (z : Bool) (v : Word) : Word := if z then v else sextW 32 v.toNat

/-- ld.acq (R194): the machine has one order, so the acquire is the access (log entry 4). -/
def opLdAcq (rd rs1 : Reg) (scope : BitVec 4) (size : Bool) : TOp := 
  { xs := [rs1], xd := [rd], wf := (Instr.ldAcq rd rs1 scope size).wf,
    run := fun ws s =>
      (s.ordered (ws.getD 0 0).toNat (szBytes size) .load (fun o s => ((BitVec.ofNat 64 (s.rd o (szBytes size)), 0), s))
        (.read (szBytes size))).bind (fun r s => .ok { ws := [(rd, szExt size r.1)] } s) }
/-- ld.acq (R194): the machine has one order, so the acquire is the access (log entry 4). -/
def execLdAcq (rd rs1 : Reg) (scope : BitVec 4) (size : Bool) (s : State) : Host.Outcome State Fault Refusal := issueOp (opLdAcq rd rs1 scope size) s
/-- st.rel (R194): the machine has one order, so the release is the access (log entry 4). -/
def opStRel (rs2 rs1 : Reg) (scope : BitVec 4) (size : Bool) : TOp := 
  { xs := [rs1, rs2], wf := (Instr.stRel rs2 rs1 scope size).wf,
    run := fun ws s =>
      let v := (ws.getD 1 0).toNat % 2 ^ (8 * szBytes size)
      (s.ordered (ws.getD 0 0).toNat (szBytes size) .store (fun o s => ((0, 0), s.memStore o (toBytes (szBytes size) v)))
        (.write (toBytes (szBytes size) v))).bind (fun _ s => .ok {} s) }
/-- st.rel (R194): the machine has one order, so the release is the access (log entry 4). -/
def execStRel (rs2 rs1 : Reg) (scope : BitVec 4) (size : Bool) (s : State) : Host.Outcome State Fault Refusal := issueOp (opStRel rs2 rs1 scope size) s
/-- fence (R195): a fence wider than cluster scope leaves the rotation. Log entry 4. -/
def opFence (scope : BitVec 4) (order : BitVec 2) : TOp := 
  { wf := (Instr.fence scope order).wf,
    run := fun _ s => .ok {} (if scope.toNat ≤ 2 then s else s.slow) }
/-- fence (R195): a fence wider than cluster scope leaves the rotation. -/
def execFence (scope : BitVec 4) (order : BitVec 2) (s : State) : Host.Outcome State Fault Refusal := issueOp (opFence scope order) s

/-! Atomics (R196 to R198). -/

/-- The new value of an atomic at width w (R196), by number: add, and, or, xor, min, max, minn, maxn, swap, cas. -/
def amoNew (op w old v expected : Nat) : Nat :=
  let s := toSigned w
  match op with
  | 0 => (old + v) % 2 ^ w
  | 1 => old &&& v
  | 2 => old ||| v
  | 3 => old ^^^ v
  | 4 => if s v < s old then v else old
  | 5 => if s old < s v then v else old
  | 6 => min old v
  | 7 => max old v
  | 8 => v
  | _ => if old = expected then v else old

/-- The atomic on the word at device offset o: the old value, and the state it leaves. -/
def State.amoAt (op n v expected o : Nat) (s : State) : (Word × Word) × State :=
  let old := s.rd o n
  ((BitVec.ofNat 64 old, 0), s.memStore o (toBytes n (amoNew op (8 * n) old v expected)))

/-- An atomic. -/
def amoOp (rd rs2 rs1 : Reg) (ok size : Bool) (op : Nat) : TOp :=
  { xs := if op = 9 then [rs1, rs2, rd] else [rs1, rs2], xd := [rd], wf := ok,
    run := fun ws s =>
      let n := szBytes size
      let v := (ws.getD 1 0).toNat % 2 ^ (8 * n)
      let e := (ws.getD 2 0).toNat % 2 ^ (8 * n)
      (s.ordered (ws.getD 0 0).toNat n .rmw (State.amoAt op n v e)
        (.amo op n (BitVec.ofNat 64 v) (BitVec.ofNat 64 e))).bind (fun r s => .ok { ws := [(rd, szExt size r.1)] } s) }

/-- amo.add (R196, R197). -/
def opAmoAdd (rd rs2 rs1 : Reg) (scope : BitVec 4) (order : BitVec 2) (size : Bool) : TOp := 
  amoOp rd rs2 rs1 (Instr.amoAdd rd rs2 rs1 scope order size).wf size 0
/-- amo.add (R196, R197). -/
def execAmoAdd (rd rs2 rs1 : Reg) (scope : BitVec 4) (order : BitVec 2) (size : Bool) (s : State) : Host.Outcome State Fault Refusal := issueOp (opAmoAdd rd rs2 rs1 scope order size) s
/-- amo.and (R196, R197). -/
def opAmoAnd (rd rs2 rs1 : Reg) (scope : BitVec 4) (order : BitVec 2) (size : Bool) : TOp := 
  amoOp rd rs2 rs1 (Instr.amoAnd rd rs2 rs1 scope order size).wf size 1
/-- amo.and (R196, R197). -/
def execAmoAnd (rd rs2 rs1 : Reg) (scope : BitVec 4) (order : BitVec 2) (size : Bool) (s : State) : Host.Outcome State Fault Refusal := issueOp (opAmoAnd rd rs2 rs1 scope order size) s
/-- amo.or (R196, R197). -/
def opAmoOr (rd rs2 rs1 : Reg) (scope : BitVec 4) (order : BitVec 2) (size : Bool) : TOp := 
  amoOp rd rs2 rs1 (Instr.amoOr rd rs2 rs1 scope order size).wf size 2
/-- amo.or (R196, R197). -/
def execAmoOr (rd rs2 rs1 : Reg) (scope : BitVec 4) (order : BitVec 2) (size : Bool) (s : State) : Host.Outcome State Fault Refusal := issueOp (opAmoOr rd rs2 rs1 scope order size) s
/-- amo.xor (R196, R197). -/
def opAmoXor (rd rs2 rs1 : Reg) (scope : BitVec 4) (order : BitVec 2) (size : Bool) : TOp := 
  amoOp rd rs2 rs1 (Instr.amoXor rd rs2 rs1 scope order size).wf size 3
/-- amo.xor (R196, R197). -/
def execAmoXor (rd rs2 rs1 : Reg) (scope : BitVec 4) (order : BitVec 2) (size : Bool) (s : State) : Host.Outcome State Fault Refusal := issueOp (opAmoXor rd rs2 rs1 scope order size) s
/-- amo.min (R196, R197). -/
def opAmoMin (rd rs2 rs1 : Reg) (scope : BitVec 4) (order : BitVec 2) (size : Bool) : TOp := 
  amoOp rd rs2 rs1 (Instr.amoMin rd rs2 rs1 scope order size).wf size 4
/-- amo.min (R196, R197). -/
def execAmoMin (rd rs2 rs1 : Reg) (scope : BitVec 4) (order : BitVec 2) (size : Bool) (s : State) : Host.Outcome State Fault Refusal := issueOp (opAmoMin rd rs2 rs1 scope order size) s
/-- amo.max (R196, R197). -/
def opAmoMax (rd rs2 rs1 : Reg) (scope : BitVec 4) (order : BitVec 2) (size : Bool) : TOp := 
  amoOp rd rs2 rs1 (Instr.amoMax rd rs2 rs1 scope order size).wf size 5
/-- amo.max (R196, R197). -/
def execAmoMax (rd rs2 rs1 : Reg) (scope : BitVec 4) (order : BitVec 2) (size : Bool) (s : State) : Host.Outcome State Fault Refusal := issueOp (opAmoMax rd rs2 rs1 scope order size) s
/-- amo.minn (R196, R197). -/
def opAmoMinn (rd rs2 rs1 : Reg) (scope : BitVec 4) (order : BitVec 2) (size : Bool) : TOp := 
  amoOp rd rs2 rs1 (Instr.amoMinn rd rs2 rs1 scope order size).wf size 6
/-- amo.minn (R196, R197). -/
def execAmoMinn (rd rs2 rs1 : Reg) (scope : BitVec 4) (order : BitVec 2) (size : Bool) (s : State) : Host.Outcome State Fault Refusal := issueOp (opAmoMinn rd rs2 rs1 scope order size) s
/-- amo.maxn (R196, R197). -/
def opAmoMaxn (rd rs2 rs1 : Reg) (scope : BitVec 4) (order : BitVec 2) (size : Bool) : TOp := 
  amoOp rd rs2 rs1 (Instr.amoMaxn rd rs2 rs1 scope order size).wf size 7
/-- amo.maxn (R196, R197). -/
def execAmoMaxn (rd rs2 rs1 : Reg) (scope : BitVec 4) (order : BitVec 2) (size : Bool) (s : State) : Host.Outcome State Fault Refusal := issueOp (opAmoMaxn rd rs2 rs1 scope order size) s
/-- amo.swap (R196, R197). -/
def opAmoSwap (rd rs2 rs1 : Reg) (scope : BitVec 4) (order : BitVec 2) (size : Bool) : TOp := 
  amoOp rd rs2 rs1 (Instr.amoSwap rd rs2 rs1 scope order size).wf size 8
/-- amo.swap (R196, R197). -/
def execAmoSwap (rd rs2 rs1 : Reg) (scope : BitVec 4) (order : BitVec 2) (size : Bool) (s : State) : Host.Outcome State Fault Refusal := issueOp (opAmoSwap rd rs2 rs1 scope order size) s
/-- amo.cas (R196, R197). -/
def opAmoCas (rd rs2 rs1 : Reg) (scope : BitVec 4) (order : BitVec 2) (size : Bool) : TOp := 
  amoOp rd rs2 rs1 (Instr.amoCas rd rs2 rs1 scope order size).wf size 9
/-- amo.cas (R196, R197). -/
def execAmoCas (rd rs2 rs1 : Reg) (scope : BitVec 4) (order : BitVec 2) (size : Bool) (s : State) : Host.Outcome State Fault Refusal := issueOp (opAmoCas rd rs2 rs1 scope order size) s
/-- amo.cas2 (R198). -/
def opAmoCas2 (rd rs2 rs1 : Reg) (scope : BitVec 4) (order : BitVec 2) : TOp := 
  { xs := [rs1, rs2, rs2 + 1, rd, rd + 1], xd := [rd, rd + 1], wf := (Instr.amoCas2 rd rs2 rs1 scope order).wf,
    run := fun ws s =>
      let w (i : Nat) : Word := ws.getD i 0
      (s.ordered (w 0).toNat 16 .rmw (fun o s =>
          let a := s.rd8 o
          let b := s.rd8 (o + 8)
          ((a, b), if a = w 3 ∧ b = w 4 then s.memStore o (toBytes 8 (w 1).toNat ++ toBytes 8 (w 2).toNat) else s))
        (.cas2 (w 1) (w 2) (w 3) (w 4))).bind (fun r s => .ok { ws := [(rd, r.1), (rd + 1, r.2)] } s) }
/-- amo.cas2 (R198). -/
def execAmoCas2 (rd rs2 rs1 : Reg) (scope : BitVec 4) (order : BitVec 2) (s : State) : Host.Outcome State Fault Refusal := issueOp (opAmoCas2 rd rs2 rs1 scope order) s

end Sys2Proof.Machine
end

