-- ==== Sys2Proof/Machine/Copies.lean ====
section
/-! DEFINITION. Asynchronous copies, strand instructions, cache control and stash.map (06, R199 to R212), and the copy
engine (R201 to R204, R215). -/

namespace Sys2Proof.Machine
open Sys2Proof

/-! Copies: issue (R199, R200). -/

/-- T-STRAND of a strand-bound token (R21). R21 states no subcause: SUB is 0 (log entry 8). -/
def tToken : Cause := ⟨7, 0, 0, false, 0⟩
/-- Traps when the token names a bound register (R21). Log entry 8. -/
def State.tokenCheck (rd : Reg) (s : State) : Acc Unit :=
  if (s.thr.strand rd).isSome then .trap tToken else .ok () s

/-- First and last byte of what a copy reads and writes, as integers (R199, R201). -/
structure Span where
  lo : Int
  hi : Int
  deriving DecidableEq, Repr

/-- The bounding range of n rows of b bytes from a with a stride (R201). -/
def rowSpan (a : Word) (n b : Nat) (stride : Int) : Span :=
  let last : Int := a.toNat + (n - 1) * stride
  ⟨min (a.toNat : Int) last, max (a.toNat : Int) last + b - 1⟩

/-- Steps 1 and 2 of R185 on the ends of a range. -/
def spanCheck (lvl : Level) (sp : Span) (k : Nat) : Option Cause :=
  match canonCheck lvl (ofInt 64 sp.lo) k with
  | some c => some c
  | none => canonCheck lvl (ofInt 64 sp.hi) k

def Span.meets (a b : Span) : Bool := decide (a.lo ≤ b.hi ∧ b.lo ≤ a.hi)

/-- The lock of a copy's range (R205). -/
def State.copyLock (s : State) (id : Nat) (sp : Span) (dest : Bool) : Lock :=
  let t := s.thr
  { id := id, ctx := t.ctx, party := some t.party, lo := ofInt 64 sp.lo / 64, hi := ofInt 64 sp.hi / 64, owner := 0, dest := dest
    phys := t.level == .monitor }

/-- Starts a copy that passed its checks, or waits for queue and lock-table room (R201). -/
def State.copyStart (rd : Reg) (c : Copy) (dsp : Span) (ssp : Option Span) (s : State) : Acc Out :=
  let rid := ridOf s.cur
  let n := if ssp.isSome then 2 else 1
  let cl := s.cluster rid
  if 64 ≤ cl.copies.length ∨ 128 < cl.locks.length + n then .hold (State.roomHold .copies)
  else
    let (id, s) := s.newId
    let ls := s.copyLock id dsp true :: (match ssp with
      | some p => [s.copyLock id p false]
      | none => [])
    let s := s.onCluster rid (fun r => { r with copies := r.copies ++ [{ c with id := id }], locks := r.locks ++ ls })
    let s := s.onThr (fun t => { t.setEmpty rd (.op id) with ops := t.ops ++ [id] })
    .ok {} (s.eventually (.event .copyEngineRun (.pair rid (2 * id))))

/-- A copy of the thread whose turn it is. -/
def State.copyOf (s : State) (dst src : Word) (len : Nat) (kind : CopyKind) (scope : BitVec 2) : Copy :=
  { id := 0, key := s.cur, ctx := s.thr.ctx, party := s.thr.party, level := s.thr.level, dst := dst, src := src,
    len := len, kind := kind, scope := scope }

/-- The checks of R200 from step 2 on, then the copy; a copy of nothing fills its token at once with 0.
Log entry 21. -/
def State.copyGo (rd : Reg) (c : Copy) (dsp : Span) (ssp : Option Span) (align : Bool) (s : State) : Acc Out :=
  let lvl := s.thr.level
  if c.len = 0 then
    if align ∧ c.dst.toNat % 8 ≠ 0 then .trap (tAlign c.dst)
    else (s.tokenCheck rd).bind (fun _ s => .ok { ws := [(rd, 0)] } s)
  else match spanCheck lvl dsp 1 with
  | some e => .trap e
  | none => match (match ssp with
      | some p => spanCheck lvl p 0
      | none => none) with
    | some e => .trap e
    | none =>
      if align ∧ (c.dst.toNat % 8 ≠ 0 ∨ c.len % 8 ≠ 0) then .trap (tAlign c.dst)
      else if (match ssp with
        | some p => p.meets dsp
        | none => false) then .trap (tIll 0)
      else (s.tokenCheck rd).bind (fun _ s => s.copyStart rd c dsp ssp)

/-- cpy (R199 to R201). -/
def opCpy (rd rs1 rs2 rs3 : Reg) (scope : BitVec 2) : TOp := 
  { xs := [rs1, rs2, rs3], xd := [rd],
    run := fun ws s =>
      let l := (ws.getD 2 0).toNat
      if 2 ^ 32 ≤ l then .trap (tIll 0)
      else s.copyGo rd (s.copyOf (ws.getD 0 0) (ws.getD 1 0) l .flat scope) (rowSpan (ws.getD 0 0) 1 l 0)
        (some (rowSpan (ws.getD 1 0) 1 l 0)) false }
/-- cpy (R199 to R201). -/
def execCpy (rd rs1 rs2 rs3 : Reg) (scope : BitVec 2) (s : State) : Host.Outcome State Fault Refusal := issueOp (opCpy rd rs1 rs2 rs3 scope) s
/-- cpy.2d (R199 to R201). -/
def opCpy2d (rd rs1 rs2 rs3 : Reg) (scope : BitVec 2) : TOp := 
  { xs := [rs1, rs2, rs3, rs3 + 1], xd := [rd], wf := rs3 != 0 && rs3.toNat % 2 == 0,
    run := fun ws s =>
      let dim := ws.getD 2 0
      let h := fld dim 15 0
      let b := fld dim 39 16
      let ds := toSigned 32 (fld (ws.getD 3 0) 31 0)
      let ss := toSigned 32 (fld (ws.getD 3 0) 63 32)
      if fld dim 63 40 ≠ 0 ∨ 2 ^ 32 ≤ h * b then .trap (tIll 0)
      else s.copyGo rd (s.copyOf (ws.getD 0 0) (ws.getD 1 0) (h * b) (.rect h b ds ss) scope)
        (rowSpan (ws.getD 0 0) h b ds) (some (rowSpan (ws.getD 1 0) h b ss)) false }
/-- cpy.2d (R199 to R201). -/
def execCpy2d (rd rs1 rs2 rs3 : Reg) (scope : BitVec 2) (s : State) : Host.Outcome State Fault Refusal := issueOp (opCpy2d rd rs1 rs2 rs3 scope) s
/-- cpy.fill (R199 to R201). Log entry 21. -/
def opCpyFill (rd rs1 rs2 rs3 : Reg) (scope : BitVec 2) : TOp := 
  { xs := [rs1, rs2, rs3], xd := [rd],
    run := fun ws s =>
      let l := (ws.getD 2 0).toNat
      if 2 ^ 32 - 8 < l then .trap (tIll 0)
      else s.copyGo rd (s.copyOf (ws.getD 0 0) 0 l (.fill (ws.getD 1 0)) scope) (rowSpan (ws.getD 0 0) 1 l 0) none true }
/-- cpy.fill (R199 to R201). -/
def execCpyFill (rd rs1 rs2 rs3 : Reg) (scope : BitVec 2) (s : State) : Host.Outcome State Fault Refusal := issueOp (opCpyFill rd rs1 rs2 rs3 scope) s

/-! The copy engine (R201 to R204). -/

/-- Address of destination byte j, and of its source byte. -/
def Copy.dstAt (c : Copy) (j : Nat) : Nat :=
  match c.kind with
  | .rect _ b ds _ => ofInt 64 (c.dst.toNat + (j / b : Nat) * ds + (j % b : Nat))
  | _ => (c.dst.toNat + j) % 2 ^ 64
def Copy.srcAt (c : Copy) (j : Nat) : Nat :=
  match c.kind with
  | .rect _ b _ ss => ofInt 64 (c.src.toNat + (j / b : Nat) * ss + (j % b : Nat))
  | _ => (c.src.toNat + j) % 2 ^ 64

/-- What an engine's byte access comes to: a place, a wait, or a status that stops the engine. -/
inductive Eng where
  | at (l : Loc)
  | wait (entry va : Nat) (pte : Word)
  | moving (entry : Nat)
  | stop (status : Nat)
  deriving DecidableEq, Repr

/-- The status that a failed translation gives an engine (R201, R226, R311). -/
def Cause.status (c : Cause) : Nat := if c.cls = 3 then 0x02 else if c.cls = 4 then 0x03 else 0x01

/-- Where an agent of cluster rid other than a thread reaches an address of memory: its translation. -/
def State.engineMem (rid : Nat) (c : BitVec 12) (lvl : Level) (va n : Nat) (k : AKind) (s : State) : Eng × State :=
  match canonCheck lvl va k.code with
  | some e => (.stop e.status, s)
  | none => match s.translate c lvl (.cluster rid) va n k with
    | (.bad e, s) => (.stop e.status, s)
    | (.absent e pte, s) => (.wait e va pte, s)
    | (.moving e, s) => (.moving e, s)
    | (.ok pa e, s) =>
      if (s.place pa).isBlock then (.stop 0x03, s) else (.at (s.locOf pa (pageOf lvl va e)), s)
/-- Where an engine of cluster rid reaches an address for a context, level and party: the window first (R202), then a command
window of any Spindle of the cluster, which stops it (R215), then translation. -/
def State.engineAt (rid : Nat) (c : BitVec 12) (lvl : Level) (party : Nat) (va n : Nat) (k : AKind) (s : State) :
    Eng × State :=
  match canonCheck lvl va k.code with
  | some e => (.stop e.status, s)
  | none =>
    if lvl ≠ .monitor ∧ inWindow va then
      match (s.party? party).bind (fun p => s.windowAt p rid va) with
      | some (g, o) => (.at (.ua g o), s)
      | none => (.stop 0x02, s)
    else if lvl ≠ .monitor ∧ (upto 8).any (fun i => (s.cmdWindow (rid * 8 + i) c va).isSome) then (.stop 0x03, s)
    else s.engineMem rid c lvl va n k

def State.onCopy (rid id : Nat) (f : Copy → Copy) (s : State) : State :=
  s.onCluster rid (fun c => { c with copies := c.copies.map (fun x => if x.id = id then f x else x) })

/-- Locks of a cluster have gone: those who wait for room, and copies that waited for a conflicting one, try again (R201,
R204). -/
def State.locksFreed (rid : Nat) (s : State) : State :=
  let s := s.wakeRoom .copies
  (s.cluster rid).copies.foldl (fun s x =>
    if x.held.isNone ∧ x.far.isNone then s.later (.event .copyEngineRun (.pair rid (2 * x.id))) else s) s

/-- The end of a copy: the locks go, the token fills, and waiting work may start (R201, R204). -/
def State.copyEnd (rid : Nat) (c : Copy) (status : Nat) (s : State) : State :=
  let s := s.onCluster rid (fun r => { r with
    copies := r.copies.filter (fun x => x.id != c.id), locks := r.locks.filter (fun l => l.id != c.id) })
  (s.fillOp c.id (BitVec.ofNat 64 (c.done * 2 ^ 32 + status))).locksFreed rid

/-- Suspends a copy at its byte until a page comes (R201, R361, R424). -/
def State.copyHold (rid : Nat) (c : Copy) (on : Nat) (s : State) : State :=
  s.onCopy rid c.id (fun x => { x with done := c.done, held := some on })

/-- The bytes that destination byte j on takes in one access: an aligned 8-byte unit when both offsets agree modulo 8
(R202), else one byte; and no more than its row. -/
def Copy.unit (c : Copy) (j : Nat) : Nat :=
  let (d, r, left) := match c.kind with
    | .rect _ b _ _ => (c.dstAt j, c.srcAt j, min (c.len - j) (b - j % b))
    | .flat => (c.dstAt j, c.srcAt j, c.len - j)
    | .fill _ => (c.dstAt j, c.dstAt j, c.len - j)
  if d % 8 = 0 ∧ r % 8 = 0 ∧ 8 ≤ left then 8 else 1

/-- The bytes of the pattern from destination byte j (R199). -/
def patBytes (p : Word) (j n : Nat) : List Byte := (upto n).map (fun i => (toBytes 8 p.toNat).getD ((j + i) % 8) 0)

/-- What a copy's unit at byte j reads: bytes, a wait or a stop. -/
inductive CopyRead where
  | bytes (bs : List Byte)
  | stop (status : Nat)
  | held (s : State)

/-- An access of a copy that another device or the host performs waits for its answer (R434). -/
def State.copyFar (rid : Nat) (c : Copy) (p : Place) (page : Nat × Nat) (op : RemoteOp) (s : State) : State :=
  let (id, s) := s.farSend p page op (.copy rid c.id) c.ctx
  s.onCopy rid c.id (fun x => { x with done := c.done, held := none, far := some id })

/-- The source bytes of the unit at byte c.done. -/
def State.copyRead (rid n : Nat) (c : Copy) (ans : Option Word) (s : State) : CopyRead × State :=
  match c.kind with
  | .fill p => (.bytes (patBytes p c.done n), s)
  | _ => match ans with
    | some v => (.bytes (toBytes n v.toNat), s)
    | none => match s.engineAt rid c.ctx c.level c.party (c.srcAt c.done) n .load with
      | (.stop st, s) => (.stop st, s)
      | (.wait e va pte, s) => (.held ((s.copyHold rid c e).pageRequest (.copy rid c.id) c.ctx va e pte), s)
      | (.moving e, s) => (.held ((s.copyHold rid c e).moveHold e (.copy rid c.id)), s)
      | (.at (.ua g o), s) => (.bytes (s.uaRead g o n), s)
      | (.at (.mem o), s) => (.bytes (s.mem.readN o n), s.dirTouch rid o false)
      | (.at (.far p u), s) => (.held (s.copyFar rid c p u (.read n)), s)
      | (.at _, s) => (.stop 0x03, s)

/-- A fill that goes on to write a whole line does not fail on its poison, which goes (R343; log entry 25). -/
def State.fillWhole (rid : Nat) (c : Copy) (s : State) : State :=
  let a := c.dstAt c.done
  match c.kind with
  | .fill _ =>
    if s.poisoned = [] ∨ a % 64 ≠ 0 ∨ c.len < c.done + 64 then s
    else match State.engineAt rid c.ctx c.level c.party a 64 .store { s with poisoned := [] } with
      | (.at (.mem o), _) => s.unpoison o 64
      | _ => s
  | _ => s
/-- Runs a copy from byte c.done (R201). `ans` is the value of a read that another device has answered, `wrote` that the write
of the unit at c.done has been. -/
def State.copyRun (rid : Nat) (c : Copy) (ans : Option Word) (wrote : Bool) : Nat → State → State
  | 0, s => s.copyHold rid c 0
  | f + 1, s =>
    if c.len ≤ c.done then s.copyEnd rid c 0 else
    let n := c.unit c.done
    let s := s.fillWhole rid c
    if wrote then State.copyRun rid { c with done := c.done + n } none false f s else
    match s.engineAt rid c.ctx c.level c.party (c.dstAt c.done) n .store with
    | (.stop st, s) => s.copyEnd rid c st
    | (.wait e va pte, s) => (s.copyHold rid c e).pageRequest (.copy rid c.id) c.ctx va e pte
    | (.moving e, s) => (s.copyHold rid c e).moveHold e (.copy rid c.id)
    | (.at l, s) => match s.copyRead rid n c ans with
      | (.stop st, s) => s.copyEnd rid c st
      | (.held s, _) => s
      | (.bytes bs, s) => match l with
        | .ua g o => State.copyRun rid { c with done := c.done + n } none false f (s.uaWrite g o bs)
        | .mem o => State.copyRun rid { c with done := c.done + n } none false f
            ((s.memStore o bs).dirTouch rid o true)
        | .far p u => s.copyFar rid c p u (.write bs)
        | _ => s.copyEnd rid c 0x03

/-- The ranges of the commands of a cluster that have removed their locks and have yet to fill (R220). -/
def State.fillingLocks (s : State) (rid : Nat) : List Lock :=
  (upto 8).flatMap (fun i => (s.spindle (8 * rid + i)).queue.flatMap (fun (k, q) => match q with
    | c :: _ => if c.st = .filling then c.job.locks (8 * rid + i) (k % 2) c.id (BitVec.ofNat 12 (k / 2)) c.party else []
    | [] => []))
/-- Whether an earlier operation of the cluster that has yet to fill has a lock that conflicts with one of operation id's (R204,
R220). -/
def State.lockBlocked (s : State) (rid id : Nat) : Bool :=
  let ls := (s.cluster rid).locks
  (ls.filter (fun l => l.id == id)).any (fun l =>
    (ls ++ s.fillingLocks rid).any (fun m => decide (m.id < id) && l.conflicts m))

/-- The copy engine's turn at a copy (R201), which has none while it awaits an answer. `fail` says that the page it waits for
could not be read (R428). One whose page has come goes on when no earlier operation's lock is in its way (R204, R424). -/
def State.copyEvent (rid id : Nat) (fail : Bool) (s : State) : State :=
  match (s.cluster rid).copies.find? (fun c => c.id == id) with
  | none => s
  | some c =>
    if c.far.isSome then s
    else if fail then s.copyEnd rid c 0x02
    else if s.lockBlocked rid id then s.onCopy rid id (fun x => { x with held := none })
    else State.copyRun rid { c with held := none } none false (c.len + 1) s

/-- The answer to access `far` of a copy (R434, R435): the bytes that it reads, or the end of its write. -/
def State.copyAnswer (rid id far : Nat) (op : RemoteOp) (a : Answer) (s : State) : State :=
  match (s.cluster rid).copies.find? (fun c => c.id == id && c.far == some far) with
  | none => s
  | some c =>
    let c := { c with held := none, far := none }
    let s := s.onCopy rid id (fun x => { x with far := none })
    match a with
    | .done v _ => match op with
      | .read _ => State.copyRun rid c (some v) false (c.len + 1) s
      | _ => State.copyRun rid c none true (c.len + 2) s
    | .data bs => State.copyRun rid c (some (BitVec.ofNat 64 (ofBytes (bs.take 8)))) false (c.len + 1) s
    | .refused => s.copyEnd rid c 0x03
    | _ => s.copyEnd rid c 0x02

/-- COPY_ENGINE_RUN. -/
def execCopyEngineRun (s : State) : Host.Outcome State Fault Refusal :=
  match s.ev with
  | .pair rid x => .next (s.copyEvent rid (x / 2) (x % 2 == 1))
  | _ => .next s

/-! Strand instructions (R207). -/

/-- The words of a descriptor break R206, or its ring or overflow area lies in the window (R207, R187): the model's choice is that
strb raises R207's SUB 0x02 for the latter, and a push or a pop R187's T-PERM. Log entry 8. -/
def descBad (w : List Word) : Bool :=
  let g (i : Nat) : Word := w.getD i 0
  let ocap := fld (g 5) 31 0
  let rlog := fld (g 1) 4 0
  fld (g 1) 63 5 != 0 || decide (rlog < 3 ∨ 20 < rlog) || decide ((g 0).toNat % 64 ≠ 0) || decide ((g 4).toNat % 8 ≠ 0)
    || fld (g 5) 63 32 != 0 || decide (2 ^ 31 < ocap) || (g 4 != 0 && ocap == 0) || decide (ocap < fld (g 6) 63 32)
    || (if ocap = 0 then fld (g 6) 31 0 != 0 else decide (ocap ≤ fld (g 6) 31 0)) || g 7 != 0
    || decide ((g 0).toNat ≤ 0x00FFFFFFFFFFFFFF ∧ 0x00FFFFFFFFE00000 < (g 0).toNat + 8 * 2 ^ rlog)
    || (ocap != 0 && decide ((g 4).toNat ≤ 0x00FFFFFFFFFFFFFF ∧ 0x00FFFFFFFFE00000 < (g 4).toNat + 8 * ocap))

/-- Reads the eight words of a descriptor as one snapshot, with the checks of a load (R207). -/
def State.descWords (d : Word) (s : State) : Acc (List Word) :=
  (s.resolve (descReq d .load)).bind (fun l s => match l with
    | .mem b => .ok (s.rdWords b 8) (s.homeTouch d.toNat b false)
    | .far p u => (s.farBytes p u (.read 64) (descReq d .load)).bind (fun bs s =>
        .ok ((upto 8).map (fun i => BitVec.ofNat 64 (ofBytes ((bs.drop (8 * i)).take 8)))) s)
    | _ => Acc.each (fun i s => State.strandLoad (d.toNat + 8 * i) s) (upto 8) s)

/-- strb (R207). The model's choice: the traps of the descriptor's access come before the T-STRAND of a bound register.
Log entry 8. -/
def opStrb (xq rs1 : Reg) : TOp := 
  { xs := [rs1], xd := [xq], wf := (Instr.strb xq rs1).wf,
    run := fun ws s =>
      let d := ws.getD 0 0
      (s.descWords d).bind (fun w s =>
        if (s.thr.strand xq).isSome then .trap ⟨7, 1, 0, false, 0⟩
        else if descBad w then .trap ⟨7, 2, 0, false, 0⟩
        else .ok {} (s.onThr (fun t => { t with strands := t.strands.put xq.toNat d }))) }
/-- strb (R207). -/
def execStrb (xq rs1 : Reg) (s : State) : Host.Outcome State Fault Refusal := issueOp (opStrb xq rs1) s
/-- strx (R207). -/
def opStrx (xq : Reg) : TOp := 
  { xd := [xq], wf := (Instr.strx xq).wf,
    run := fun _ s => .ok {} (if (s.thr.strand xq).isSome then
        s.onThr (fun t => ({ t with strands := t.strands.del xq.toNat }.wx xq 0).setFull xq)
      else s) }
/-- strx (R207). -/
def execStrx (xq : Reg) (s : State) : Host.Outcome State Fault Refusal := issueOp (opStrx xq) s
/-- strq (R207). -/
def opStrq (rd rs1 : Reg) : TOp := 
  { xs := [rs1], xd := [rd],
    run := fun ws s => (s.descWords (ws.getD 0 0)).bind (fun w s =>
      let n := BitVec.ofNat 64 (fld (w.getD 6 0) 63 32 * 2 ^ 32 + (w.getD 3 0 - w.getD 2 0).toNat % 2 ^ 32)
      .ok { ws := [(rd, n)] } s) }
/-- strq (R207). -/
def execStrq (rd rs1 : Reg) (s : State) : Host.Outcome State Fault Refusal := issueOp (opStrq rd rs1) s

/-! Cache control (R211). -/

/-- The first bytes of the 4 KiB pages that [lo, lo + n) touches. -/
def pagesOf (lo n : Nat) : List Nat := (upto ((lo + n - 1) / 4096 - lo / 4096 + 1)).map (fun i => (lo / 4096 + i) * 4096)

/-- Writes back the lines that some cache holds among the bytes from a to b of a place, and drops the copies if asked (R211):
lines of memory, or of the host aperture. -/
def State.cachePage (p : Place) (n : Nat) (drop : Bool) (s : State) : State :=
  match s.placeMem p, p with
  | some o, _ =>
    let inR (l : Nat) : Bool := decide (o / 64 ≤ l ∧ l ≤ (o + n) / 64)
    if drop then s.linesDrop inR else { s with dir := s.dir.map (fun (l, d) => (l, if inR l then { d with dirty := false } else d)) }
  | none, .aperture h => { s with aper := s.aper.filter (fun (l, _) => !decide (h / 64 * 64 ≤ l ∧ l ≤ h + n)) }
  | none, _ => s

/-- The physical address of a page that is present and resident, whatever its permissions (R211). Log entry 26. -/
def State.pagePa (s : State) (c : BitVec 12) (lvl : Level) (g va : Nat) : Option Nat :=
  if lvl = .monitor then some va
  else match s.walkVa (g / 192) c va with
  | .bad _ _ => none
  | .leaf _ _ e => if pteNonRes e then none else some (pteADDR e + va % pageSize (ptePS e))

/-- cache.wb and cache.inv (R211): pages that are not present are skipped. Log entries 26, 45, 50. -/
def State.cacheOp (lo n : Nat) (drop : Bool) (s : State) : Acc Out :=
  let t := s.thr
  let hi := lo + n - 1
  let w := BitVec.ofNat 64 lo
  if 2 ^ 32 < n then .trap (tIll 0)
  else if n = 0 then .ok {} s
  else match canonCheck t.level lo 0 with
  | some c => .trap c
  | none => match canonCheck t.level hi 0 with
    | some c => .trap c
    | none =>
      if t.level ≠ .monitor ∧ lo ≤ 0x00FFFFFFFFFFFFFF ∧ 0x00FFFFFFFFE00000 ≤ hi then
        .trap (tPerm 0x10 (infoNoWalk 0) false (if inWindow lo then w else BitVec.ofNat 64 0x00FFFFFFFFE00000))
      else match (if t.level = .monitor then none
          else (pagesOf lo n).find? (fun p => (s.cmdWindow (gspOf s.cur) t.ctx p).isSome)) with
      | some p => .trap (tPerm 0x20 (infoNoWalk 0) false (BitVec.ofNat 64 (max p lo)))
      | none =>
        let s := (pagesOf lo n).foldl (fun s p =>
          let a := max p lo
          let b := min (p + 4095) hi
          match s.pagePa t.ctx t.level (gspOf s.cur) p with
          | some pa => s.cachePage (s.place (pa + (a - p))) (b - a) drop
          | none => s) s
        .ok {} s.slow

/-- cache.inv (R211). Log entry 26. -/
def opCacheInv (rs1 rs2 : Reg) : TOp := 
  { xs := [rs1, rs2], run := fun ws s => s.cacheOp (ws.getD 0 0).toNat (ws.getD 1 0).toNat true }
/-- cache.inv (R211). -/
def execCacheInv (rs1 rs2 : Reg) (s : State) : Host.Outcome State Fault Refusal := issueOp (opCacheInv rs1 rs2) s
/-- cache.wb (R211). Log entry 26. -/
def opCacheWb (rs1 rs2 : Reg) : TOp := 
  { xs := [rs1, rs2], run := fun ws s => s.cacheOp (ws.getD 0 0).toNat (ws.getD 1 0).toNat false }
/-- cache.wb (R211). -/
def execCacheWb (rs1 rs2 : Reg) (s : State) : Host.Outcome State Fault Refusal := issueOp (opCacheWb rs1 rs2) s

/-! stash.map (R212). -/

/-- The checks of a map address (R185 steps 1, 2 and 4, R212). The model's choices: a misaligned address breaks a limit and
raises T-ILL, an address in the scratchpad window T-PERM, SUB 0x10, and step 4 asks for read permission. Log entry 24. -/
def State.mapCheck (va : Nat) (s : State) : Acc Unit :=
  let t := s.thr
  let w := BitVec.ofNat 64 va
  match canonCheck t.level va 0 with
  | some c => .trap c
  | none =>
    if inWindow va then .trap (tPerm 0x10 (infoNoWalk 0) false w)
    else (s.reach va 1 .load).bind (fun _ s => .ok () s)

/-- The granules of the thread's party on its Spindle, in the order of R346. -/
def State.ownGrans (s : State) : List Nat :=
  match s.party? s.thr.party with
  | some p => p.grans.getD [] (gspOf s.cur % 8)
  | none => []

def State.setGran (g n : Nat) (f : Gran → Gran) (s : State) : State :=
  s.onSpindle g (fun p => { p with grans := p.grans.modify n f })

/-- Whether a range meets a stash range of the context on a Spindle (R212). -/
def State.stashOverlap (s : State) (g : Nat) (c : BitVec 12) (lo n : Nat) : Bool :=
  (s.spindle g).grans.any (fun r => match r.role, r.stash with
    | .spad p, some b => decide (b.toNat < lo + n ∧ lo < b.toNat + 16384) && (match s.party? p with
      | some a => a.ctx == c
      | none => false)
    | _, _ => false)

/-- Granules of a Spindle stop serving as stash: the lines of their ranges are written back and dropped (R212, R213). -/
def State.stashEnd (g : Nat) (c : BitVec 12) (ns : List Nat) (s : State) : State :=
  let bases := ns.filterMap (fun n => ((s.spindle g).grans.getD n {}).stash)
  s.stashDrop (fun e => e.gsp == g && e.ctx == c && bases.any (fun b => decide (b.toNat ≤ e.va ∧ e.va < b.toNat + 16384)))

/-- The effect of stash.map on x[rs1] = a and x[rs2] = w: the value of rd (R212). The model's choices: an x[rs1] that is not 0
raises T-ILL in the unmap modes, and so does a window's address outside the context half (R214); a granule keeps, for the
window, the bytes that it held before it was mapped.
Log entries 24, 25. -/
def State.stashMap (a w : Word) (s : State) : Acc Word :=
  let t := s.thr
  let g := gspOf s.cur
  let mode := fld w 3 0
  let first := fld w 15 12
  let cnt := fld w 19 16 + 1
  let own := s.ownGrans
  let sel := (own.drop first).take cnt
  let gran (n : Nat) : Gran := (s.spindle g).grans.getD n {}
  if w &&& 0xFFFFFFFFFFF00FF0 != 0 ∨ 5 < mode then .trap (tIll 0)
  else if 2 ≤ mode ∧ w &&& 0xFF000 != 0 then .trap (tIll 0)
  else match mode with
  | 0 =>
    if a ≠ 0 ∨ own.length < first + cnt then .trap (tIll 0)
    else
      let n := (sel.filter (fun k => (gran k).stash.isSome)).length
      let s := s.stashEnd g t.ctx sel
      .ok (BitVec.ofNat 64 n) (sel.foldl (fun s k => s.setGran g k (fun r => { r with stash := none })) s).slow
  | 1 =>
    if t.level = .monitor ∨ a.toNat % 16384 ≠ 0 ∨ own.length < first + cnt ∨ sel.any (fun k => (gran k).stash.isSome)
        ∨ s.stashOverlap g t.ctx a.toNat (16384 * cnt) then .trap (tIll 0)
    else (s.mapCheck a.toNat).bind (fun _ s =>
      let s := ((upto cnt).zip sel).foldl (fun s (i, k) =>
        s.setGran g k (fun r => { r with stash := some (a + BitVec.ofNat 64 (16384 * i)) })) s
      .ok 0 s.slow)
  | m =>
    let kind := m % 2
    let key := t.ctx.toNat * 2 + kind
    let cur := Tab.find key (s.spindle g).win
    if 4 ≤ m then
      if a ≠ 0 then .trap (tIll 0)
      else .ok (bit cur.isNone) (s.onSpindle g (fun p => { p with win := p.win.del key })).slow
    else
      if t.level = .monitor ∨ a.toNat % 4096 ≠ 0 ∨ (t.level = .supervisor ∧ tbit a 56)
          ∨ Tab.find (t.ctx.toNat * 2 + (1 - kind)) (s.spindle g).win = some a then .trap (tIll 0)
      else (s.mapCheck a.toNat).bind (fun _ s => match cur with
        | some _ => .ok 1 s.slow
        | none => .ok 0 (s.onSpindle g (fun p => { p with win := p.win.put key a })).slow)

/-- stash.map (R212). Log entry 24. -/
def opStashMap (rd rs1 rs2 : Reg) : TOp := 
  { xs := [rs1, rs2], xd := [rd],
    run := fun ws s => (s.stashMap (ws.getD 0 0) (ws.getD 1 0)).bind (fun v s => .ok { ws := [(rd, v)] } s) }
/-- stash.map (R212). -/
def execStashMap (rd rs1 rs2 : Reg) (s : State) : Host.Outcome State Fault Refusal := issueOp (opStashMap rd rs1 rs2) s

end Sys2Proof.Machine
end

