-- ==== Sys2Proof/Machine/Ply.lean ====
section
/-! DEFINITION. Ply and near-bank commands as the sequencer runs them: readiness, the checks before any change, k groups
and stripes, and completion (07, R217 to R244; 02, R68 to R71). A command takes the Ply unit, a k group, a stripe or its
whole effect at one turn each; its turns stand in `timed` at the cycle each ends. -/

namespace Sys2Proof.Machine
open Sys2Proof

/-! Operand bytes in the party's scratchpad (R223, R225). -/

/-- The unified-array byte of a scratchpad offset, given the party's window granules. -/
def granAt (gs : List Nat) (o : Nat) : Nat := 16384 * gs.getD (o / 16384) 0 + o % 16384
/-- The window granules of a command's party on its Spindle. -/
def State.cmdGrans (s : State) (g party : Nat) : List Nat :=
  match s.party? party with
  | some p => s.windowGrans p g
  | none => []

def State.opByte (s : State) (g : Nat) (gs : List Nat) (o : Nat) : Nat := ((s.spindle g).ua.getD 0 (granAt gs o)).toNat
def State.setOpByte (g : Nat) (gs : List Nat) (o v : Nat) (s : State) : State :=
  s.onSpindle g (fun p => { p with ua := p.ua.put (granAt gs o) (BitVec.ofNat 8 v) })

/-- The bit address of element (r, c) of width w (R225). -/
def Opnd.bitAt (o : Opnd) (r c w : Nat) : Nat :=
  if o.layout = 1 then 8 * (o.off + c * o.lds) + r * w else 8 * (o.off + r * o.lds) + c * w
/-- Reads w bits, 4 or whole bytes, at a bit address. -/
def State.opBits (s : State) (g : Nat) (gs : List Nat) (b w : Nat) : Nat :=
  if w = 4 then s.opByte g gs (b / 8) / 2 ^ (b % 8) % 16
  else ofBytes ((upto (w / 8)).map (fun i => BitVec.ofNat 8 (s.opByte g gs (b / 8 + i))))
def State.setOpBits (g : Nat) (gs : List Nat) (b w v : Nat) (s : State) : State :=
  if w = 4 then
    let old := s.opByte g gs (b / 8)
    s.setOpByte g gs (b / 8) (if b % 8 = 0 then old / 16 * 16 + v % 16 else old % 16 + v % 16 * 16)
  else (upto (w / 8)).foldl (fun s i => s.setOpByte g gs (b / 8 + i) (v / 2 ^ (8 * i))) s

/-- The p plane bits of block element e of the block at byte o: the stored bits, high first, below them zeros (R56). -/
def planeBits (byte : Nat → Nat) (o e p : Nat) : Nat :=
  (upto p).foldl (fun v j => v + byte (o + 64 * j + e / 8) / 2 ^ (e % 8) % 2 * 2 ^ (7 - j)) 0

/-- The value that a bp element contributes at p planes (R58). -/
def bpVal (fmt : Word) (p : Nat) (q : Nat) : FVal :=
  let i := bpnValue p (fmtMidpt fmt) (toSigned 8 q)
  .fin (decide (i < 0)) i.natAbs 0

/-- A(i, k) (R225). -/
def State.elemA (s : State) (g : Nat) (gs : List Nat) (j : Job) (i k : Nat) : FVal :=
  fmtVal j.fa (s.opBits g gs (j.c.a.bitAt i k j.wa) j.wa)
/-- B(k, n) (R225). -/
def State.elemB (s : State) (g : Nat) (gs : List Nat) (j : Job) (k n : Nat) : FVal :=
  if j.c.b.layout = 2 then
    bpVal j.fmt j.p (planeBits (s.opByte g gs) (j.c.b.off + k / 16 * j.c.b.lds) (32 * (k % 16) + n) j.p)
  else fmtVal j.fb (s.opBits g gs (j.c.b.bitAt k n (fmtWidth j.fb)) (fmtWidth j.fb))

/-! Scales (R55, R225, R229). -/

/-- The A scale of row i and the B scale of column n for the group that begins at k. -/
def Job.scaleA (j : Job) (sc : List Nat) (i k : Nat) : Nat :=
  if !j.scaled || fmtScblk j.fmt == 0 then 127 else if j.c.smode = 1 then j.c.sca
  else if j.sca0 = 0 then 127 else sc.getD (i * j.nbk + k / j.block) 127
def Job.scaleB (j : Job) (sc : List Nat) (n k : Nat) : Nat :=
  if !j.scaled || fmtScblk j.fmt == 0 then 127 else if j.c.smode = 1 then j.c.scb
  else if j.sca1 = 0 then 127
  else sc.getD ((if j.sca0 = 0 then 0 else j.c.m * j.nbk) + n * j.nbk + k / j.block) 127

/-! Group sums and accumulation (R68 to R71). -/

/-- The exact sum of a group's products (R70): a zero sum is −0 only when every term is. -/
def sumVals (l : List FVal) : FVal :=
  if l.any FVal.isNan then .nan false
  else
    let infs := l.filterMap (fun v => match v with
      | .inf n => some n
      | _ => none)
    match infs with
    | n :: t => if t.all (· == n) then .inf n else .nan false
    | [] =>
      let r := l.foldl (fun (acc : Int × Int) v => match v with
        | .fin n m e =>
          let lo := min acc.2 e
          let a := acc.1 * ((2 ^ (acc.2 - lo).toNat : Nat) : Int)
          let b : Int := (m * 2 ^ (e - lo).toNat : Nat)
          (a + (if n then -b else b), lo)
        | _ => acc) (0, 0)
      if r.1 = 0 then .fin (l.all (fun v => v.isZero && v.neg?) && l != []) 0 0
      else .fin (decide (r.1 < 0)) r.1.natAbs r.2

/-- A scaled group sum (R68, R70). -/
def scaleVal (v : FVal) (sa sb : Nat) : FVal :=
  if sa = 255 ∨ sb = 255 then .nan false
  else match v with
    | .fin n m e => .fin n m (e + sa + sb - 254)
    | v => v

/-- round_acc(c + v) on binary64 encodings of the accumulator form (R68, R69). -/
def accAdd (c : Word) (v : FVal) : Word :=
  match f64.decode c.toNat, v with
  | .nan _, _ => BitVec.ofNat 64 f64.qnan
  | _, .nan _ => BitVec.ofNat 64 f64.qnan
  | .inf a, .inf b => BitVec.ofNat 64 (if a == b then f64.infCode a else f64.qnan)
  | .inf a, _ => BitVec.ofNat 64 (f64.infCode a)
  | _, .inf b => BitVec.ofNat 64 (f64.infCode b)
  | .fin n1 m1 e1, .fin n2 m2 e2 =>
    let (s, e) := addExact n1 m1 e1 n2 m2 e2
    if s = 0 then BitVec.ofNat 64 (f64.signBit (n1 && n2)) else BitVec.ofNat 64 (roundAcc (decide (s < 0)) s.natAbs e)

/-- EXC bits of a group sum (R70, R229). -/
def groupExc (v : FVal) : Flags :=
  match v with
  | .nan _ => flNV
  | .inf _ => flOF
  | _ => 0

/-- The scaled sum of the group of products over the k from lo below hi. -/
def groupSum (lo hi : Nat) (a b : Nat → FVal) (sa sb : Nat) : FVal :=
  scaleVal (sumVals ((upto (hi - lo)).map (fun i => (mulV (a (lo + i)) (b (lo + i))).1))) sa sb

/-! Tiles (R222). -/

def tileKey (ctx tile i j : Nat) : Nat := ctx * 4096 + tile * 1024 + 32 * i + j
def State.acc (s : State) (g ctx tile i j : Nat) : Word := (s.spindle g).acc.getD 0 (tileKey ctx tile i j)
def State.setAcc (g ctx tile i j : Nat) (v : Word) (s : State) : State :=
  s.onSpindle g (fun p => { p with acc := p.acc.put (tileKey ctx tile i j) v })

/-- The pairs (i, j) of m rows and n columns, row by row. -/
def cells (m n : Nat) : List (Nat × Nat) := (upto m).flatMap (fun i => (upto n).map (fun j => (i, j)))

/-- One k group of ply.mma and its variants (R68, R229): the EXC bits and the tiles. -/
def State.mmaGroup (g ctx : Nat) (gs : List Nat) (j : Job) (sc : List Nat) (q : Nat) (s : State) : Flags × State :=
  let zero := j.c.flag 16 && q == 0
  (cells j.c.m j.c.n).foldl (fun (fs : Flags × State) (i, n) =>
    let v := groupSum (16 * q) (min (16 * q + 16) j.c.k) (s.elemA g gs j i) (s.elemB g gs j · n)
      (j.scaleA sc i (16 * q)) (j.scaleB sc n (16 * q))
    let c := if zero then 0 else fs.2.acc g ctx j.c.tile i n
    (fs.1 ||| groupExc v, fs.2.setAcc g ctx j.c.tile i n (accAdd c v))) (0, s)

/-- The accumulator element that ply.ldacc makes of a value, and its EXC bits (R231). -/
def ldaccElem (v : FVal) : Nat × Flags :=
  match v with
  | .nan sig => (f64.qnan, if sig then flNV else 0)
  | .inf b => (f64.infCode b, 0)
  | .fin b m e =>
    let r := roundAcc b m e
    (r, match f64.decode r with
      | .fin _ m' e' => if (addExact false m e true m' e').1 = 0 then 0 else flNX
      | _ => flNX)

/-- ply.ldacc (R231). -/
def State.ldacc (g ctx : Nat) (gs : List Nat) (j : Job) (s : State) : Flags × State :=
  (cells j.c.m j.c.n).foldl (fun (fs : Flags × State) (i, n) =>
    let x := s.opBits g gs (j.c.a.bitAt i n j.wa) j.wa
    let r := ldaccElem (if j.raw then f64.decode x else fmtVal j.fa x)
    (fs.1 ||| r.2, fs.2.setAcc g ctx j.c.tile i n (BitVec.ofNat 64 r.1))) (0, s)

/-- The conversion of ply.stacc into a format (R67, R232). -/
def stConvert (f mode r : Nat) (v : FVal) : FRes :=
  match f with
  | 1 | 11 => toIntRes 8 true mode r v
  | 2 => toIntRes 8 false mode r v
  | 3 => toIntRes 16 true mode r v
  | 4 => toIntRes 32 true mode r v
  | 5 => e4m3.convert mode r v
  | 6 => e5m2.convert mode r v
  | 7 => e2m1.convert mode r v
  | 8 => bf16.convert mode r v
  | 9 => f16.convert mode r v
  | _ => f32.convert mode r v

/-- The mode of ply.stacc (R232). -/
def Job.mode (j : Job) : Nat := if j.c.rnd = 7 then fmtRmode j.fmt else j.c.rnd

/-- Writes a bp destination element: all eight planes (R232). -/
def State.setPlanes (g : Nat) (gs : List Nat) (o e v : Nat) (s : State) : State :=
  (upto 8).foldl (fun s p =>
    let a := o + 64 * p + e / 8
    let old := s.opByte g gs a
    let b := 2 ^ (e % 8)
    let cleared := old - old / b % 2 * b
    s.setOpByte g gs a (cleared + v / 2 ^ (7 - p) % 2 * b)) s

/-- The output scale of ply.stacc (R232), given the scale bytes read. -/
def Job.scaleC (j : Job) (sc : List Nat) : Nat := if j.c.smode = 1 then j.c.scc else if j.sca2 = 0 then 127 else sc.getD 0 127
/-- The element that ply.stacc makes of an accumulator element, given a random word (R232). -/
def Job.staccElem (j : Job) (scale draw : Nat) (c : Word) : FRes :=
  let v := match f64.decode c.toNat with
    | .fin b m e => if scale = 255 then FVal.nan false else .fin b m (e + scale - 127)
    | v => if scale = 255 then FVal.nan false else v
  let x := stConvert j.fa j.mode draw v
  { x with fl := x.fl ||| (if scale = 255 then flNV else 0) }
/-- Writes element (i, n) of the destination of ply.stacc (R225, R232). -/
def State.setElemA (g : Nat) (gs : List Nat) (j : Job) (i n v : Nat) (s : State) : State :=
  if j.fa = 11 ∧ !j.raw then s.setPlanes g gs (j.c.a.off + i / 16 * j.c.a.lds) (32 * (i % 16) + n) v
  else s.setOpBits g gs (j.c.a.bitAt i n j.wa) j.wa v

/-- ply.stacc (R232, R233): EXC, and the state. -/
def State.stacc (g ctx : Nat) (gs : List Nat) (j : Job) (sc : List Nat) (rng : List (BitVec 32)) (s : State) :
    Flags × State :=
  let r := (cells j.c.m j.c.n).foldl (fun (st : Flags × List (BitVec 32) × State) (i, n) =>
    let c := s.acc g ctx j.c.tile i n
    if j.raw then (st.1, st.2.1, st.2.2.setElemA g gs j i n c.toNat)
    else
      let draw := rngStep (st.2.1.getD (n % 16) 0)
      let x := j.staccElem (j.scaleC sc) draw.toNat c
      (st.1 ||| x.fl, if x.drew then st.2.1.set (n % 16) draw else st.2.1, st.2.2.setElemA g gs j i n x.bits)) (0, rng, s)
  let s' := if j.c.flag 20 then (cells j.c.m j.c.n).foldl (fun s (i, n) => s.setAcc g ctx j.c.tile i n 0) r.2.2 else r.2.2
  (r.1, s')

/-- ply.tr (R234). -/
def State.plyTranspose (g : Nat) (gs : List Nat) (j : Job) (s : State) : State :=
  let w := fmtWidth j.fa
  (cells j.c.m j.c.n).foldl (fun s' (r, c) =>
    s'.setOpBits g gs (j.c.b.bitAt c r w) w (s.opBits g gs (j.c.a.bitAt r c w) w)) s

/-! Near-bank stripes (R71, R239). -/

/-- The device offset of a byte of a near-bank matrix, through the pages that the checks found. -/
def Cmd.matAt (cmd : Cmd) (va : Nat) : Nat :=
  match cmd.mat.find? (fun (v, n, _) => decide (v ≤ va ∧ va < v + n)) with
  | some (v, _, o) => o + (va - v)
  | none => 0
/-- A byte that the array of a pseudo-channel reads: from its own banks only (R344). -/
def State.arrayByte (s : State) (ch : Nat × Nat × Nat) (o : Nat) : Nat :=
  if s.channelOf o = ch then (s.mem.read o).toNat else 0
/-- The physical unit of stripe q of column n of a command's matrix (R358). -/
def Cmd.unitAt (cmd : Cmd) (j : Job) (q n : Nat) : Nat := cmd.matAt (j.c.b0.toNat + n * j.c.pitch + 512 * q)

/-- B(k, n) of a near-bank matrix (R237), read by the array of the pseudo-channel of its stripe's unit (R358). -/
def State.matElem (s : State) (cmd : Cmd) (j : Job) (k n : Nat) : FVal :=
  let u := cmd.unitAt j (k / 512) n
  let byte := fun i => s.arrayByte (s.channelOf u) (u + i)
  if j.opc = 0x22 then bpVal j.fmt j.p (planeBits byte 0 (k % 512) j.p) else fmtVal j.fb (byte (k % 512))

/-- The lines of the units of stripe q that the arrays read: those of the planes, or of the elements, that the command uses. -/
def Cmd.stripeLines (cmd : Cmd) (j : Job) (q : Nat) : List Nat :=
  let bytes := if j.opc = 0x22 then 64 * j.p else min 512 (j.c.k - 512 * q)
  (upto j.c.n).flatMap (fun n => (upto (cdiv bytes 64)).map (fun i => cmd.unitAt j q n / 64 + i))
/-- Before an array reads a line its home recalls a modified copy (R358). -/
def State.recallModified (s : State) (l : Nat) : State :=
  match Tab.find l s.dir with
  | some e => if e.dirty then s.recall l else s
  | none => s

/-- Stripe q of a near-bank product added into the tile (R238, R239). -/
def State.nbmStripe (g : Nat) (c : BitVec 12) (gs : List Nat) (cmd : Cmd) (j : Job) (q : Nat) (s : State) : Flags × State :=
  let s := (cmd.stripeLines j q).foldl State.recallModified s
  let hi := min (512 * q + 512) j.c.k
  let groups := cdiv (hi - 512 * q) 16
  (cells j.c.m j.c.n).foldl (fun (fs : Flags × State) (i, n) =>
    let p := (upto groups).foldl (fun (p : Word × Flags) t =>
      let k := 512 * q + 16 * t
      let v := groupSum k (min (k + 16) hi) (s.elemA g gs j i) (s.matElem cmd j · n)
        (j.scaleA cmd.scales i k) (j.scaleB cmd.scales n k)
      (accAdd p.1 v, p.2 ||| groupExc v)) ((0 : Word), (0 : Flags))
    let t := i * j.c.n + n
    let old := if j.c.flag 16 && q == 0 then 0 else fs.2.acc g c.toNat j.c.tile (t / 32) (t % 32)
    (fs.1 ||| p.2, fs.2.setAcc g c.toNat j.c.tile (t / 32) (t % 32) (accAdd old (f64.decode p.1.toNat)))) (0, s)

/-! The slot table (R221, R394). -/

/-- The context of table entry t, if valid. -/
def Spindle.entry (p : Spindle) (t : Nat) : Option Nat :=
  let e := fld (p.plyslot.getD (t / 4) 0) (16 * (t % 4) + 15) (16 * (t % 4))
  if 32768 ≤ e then some (e % 4096) else none
/-- Whether a context holds an entry. -/
def Spindle.inTable (p : Spindle) (c : Nat) : Bool := (upto 16).any (fun t => p.entry t == some c)
/-- Whether a context that is being saved has, on a Spindle, a command of a party that its save awaits (R242, R412). -/
def State.plyOwed (s : State) (g ctx : Nat) : Bool :=
  let p := s.spindle g
  (p.queue.getD [] (ctx * 2) ++ p.queue.getD [] (ctx * 2 + 1)).any (fun c => (s.party? c.party).isSome)
/-- Whether a context's commands may run on a Spindle: it holds an entry, its tiles are in the unit (R222, R236), and it is
not saved, nor being saved with no party's command outstanding there (R242, R243). -/
def State.plyHas (s : State) (g ctx : Nat) : Bool :=
  let p := s.spindle g
  let x := s.ctx (BitVec.ofNat 12 ctx)
  p.inTable ctx && p.tiles.contains (BitVec.ofNat 12 ctx) && !x.saved && !s.isFrozen (BitVec.ofNat 12 ctx) && (!x.saving || s.plyOwed g ctx)

def Spindle.head (p : Spindle) (ctx kind : Nat) : Option Cmd := (p.queue.getD [] (ctx * 2 + kind)).head?

/-- Whether the tile of a command is named by an earlier command of the context's other queue (R222). -/
def Spindle.tileBlocked (p : Spindle) (ctx kind : Nat) (c : Cmd) : Bool :=
  c.job.tiled && (p.queue.getD [] (ctx * 2 + (1 - kind))).any (fun d =>
    decide (d.id < c.id) && d.job.tiled && d.job.c.tile == c.job.c.tile)

/-- Whether the head command of a queue may leave the waiting or paused state, save for its turn at the unit (R220, R222,
R236, R241); one that stopped to be saved goes on as a paused one does, and one that is to be cancelled may at once (R244). -/
def State.cmdReady (s : State) (g ctx kind : Nat) : Bool :=
  let p := s.spindle g
  match p.head ctx kind with
  | none => false
  | some c => c.st != .filling && (c.fail.isSome || (match c.st with
    | .held | .filling => false
    | .running => c.ends == 0 && s.plyHas g ctx
    | .paused => s.plyHas g ctx
    | _ => s.plyHas g ctx && !s.lockBlocked (g / 8) c.id && !p.tileBlocked ctx kind c))

/-- The context that the Ply unit serves at this cycle: the current entry's, else the next in table order that has a command
to run (R221). -/
def State.plyOwner (s : State) (g : Nat) : Option Nat :=
  let p := s.spindle g
  let t := s.cycle % 4096 / 256
  (upto 16).findSome? (fun k => match p.entry ((t + k) % 16) with
    | some c => if s.cmdReady g c 0 || (match p.head c 0 with
        | some h => h.st == .running
        | none => false) then some c else none
    | none => none)

/-! Progress (R226, R230, R241). -/

def State.onHead (g ctx kind : Nat) (f : Cmd → Cmd) (s : State) : State :=
  s.onSpindle g (fun p => { p with queue := p.queue.put (ctx * 2 + kind) (match p.queue.getD [] (ctx * 2 + kind) with
    | [] => []
    | c :: t => f c :: t) })

/-- The Ply unit is free of a context. -/
def State.unitFree (g ctx kind : Nat) (s : State) : State :=
  s.onSpindle g (fun p => { p with unit := if kind = 0 ∧ p.unit = some (BitVec.ofNat 12 ctx) then none else p.unit })

/-- What ends on a Spindle for a context that has left its slot table lets its Ply state be saved, before another command begins
(R243, R394). -/
def State.plyLeft (g ctx : Nat) (s : State) : State :=
  if (s.spindle g).inTable ctx || !(s.spindle g).tiles.contains (BitVec.ofNat 12 ctx) then s
  else s.soonEv .plySlotBoundary (.unit g)
/-- The head command has filled: it leaves its queue, its submitter may halt, and the next command may start (R218, R219). -/
def State.cmdDone (g ctx kind : Nat) (s : State) : State :=
  match (s.spindle g).head ctx kind with
  | none => s
  | some cmd =>
    let s := s.onSpindle g (fun p => { p with
      queue := p.queue.put (ctx * 2 + kind) (headed ((p.queue.getD [] (ctx * 2 + kind)).drop 1)) })
    let s := ((s.opDone cmd.id).locksFreed (g / 8)).plyLeft g ctx
    match (s.spindle g).head ctx kind with
    | some h => if h.fail.isSome then s.later (.command g ctx kind) else s
    | none => s

/-- The word that a command fills: EXC and STATUS (R106). -/
def Cmd.outcome (cmd : Cmd) : Word := BitVec.ofNat 64 (cmd.exc.toNat * 256 + cmd.fail.getD 0)
/-- Performs the fill of the head command's completion word (R106, R219), wherever the word lies then; it waits for the word's
page, and for the answer of another device or the host. A word that no translation reaches any more takes no fill (log
entry 9). -/
def State.cmdFill (g ctx kind : Nat) (s : State) : State :=
  match (s.spindle g).head ctx kind with
  | none => s
  | some cmd =>
    let c := BitVec.ofNat 12 ctx
    let va := (cmd.line.getD 7 0).toNat
    match s.translate c cmd.level (.cluster (g / 8)) va 8 .store with
    | (.ok pa e, s) => match s.locOf pa (pageOf cmd.level va e) with
      | .mem o => ((s.homeTakes o).fillWord o cmd.outcome).cmdDone g ctx kind
      | .far p u =>
        let (id, s) := s.farSend p u (.feStore false cmd.outcome) (.cmd g cmd.id) c
        s.onHead g ctx kind (fun x => { x with far := some id })
      | _ => s.cmdDone g ctx kind
    | (.absent e pte, s) => s.pageRequest (.cmd g cmd.id) c va e pte
    | (.moving e, s) => s.moveHold e (.cmd g cmd.id)
    | (.bad _, s) => s.cmdDone g ctx kind

/-- The head command ends (R219, R220): its locks go, and its completion word is to fill. -/
def State.cmdStop (g ctx kind status : Nat) (exc : Flags) (s : State) : State :=
  match (s.spindle g).head ctx kind with
  | none => s
  | some cmd =>
    let s := s.onHead g ctx kind (fun x => { x with st := .filling, fail := some status, exc := exc, far := none, mat := [] })
    let s := s.onCluster (g / 8) (fun r => { r with locks := r.locks.filter (fun l => l.id != cmd.id) })
    (s.unitFree g ctx kind).wakeRoom .copies
/-- The end of the head command: its locks go, then its completion word fills. -/
def State.cmdEnd (g ctx kind status : Nat) (exc : Flags) (s : State) : State :=
  (s.cmdStop g ctx kind status exc).cmdFill g ctx kind

/-- What a scale byte's address comes to for a command: the memory below a command window (R214), and no window of the
scratchpad (R187). -/
def State.scaleAt (g : Nat) (c : BitVec 12) (cmd : Cmd) (va : Nat) (s : State) : Eng × State :=
  if cmd.level ≠ .monitor ∧ inWindow va then (.stop 0x03, s) else s.engineMem (g / 8) c cmd.level va 1 .load
/-- The rows of R226 about the scale arrays over all their bytes: one that fails translation; a page to wait for; one that may not
be read. -/
def State.scaleCheck (s : State) (g : Nat) (c : BitVec 12) (cmd : Cmd) (vas : List Nat) : Option Eng :=
  let rs := vas.map (fun va => (s.scaleAt g c cmd va).1)
  let pick (f : Eng → Bool) : Option Eng := rs.find? f
  let stop (e : Eng) (f : Nat → Bool) : Bool := match e with
    | .stop n => f n
    | _ => false
  (pick (fun e => stop e (· == 0x02))).or ((pick (fun e => match e with
    | .wait _ _ _ | .moving _ => true
    | _ => false)).or (pick (fun e => stop e (· != 0x02))))

/-- Reads the scale bytes that are left (R226): all of them, or a wait for an answer with those read so far. -/
def State.scaleRead (g : Nat) (c : BitVec 12) (cmd : Cmd) : List Nat → List Nat → State → List Nat × Option Nat × State
  | [], got, s => (got, none, s)
  | va :: t, got, s => match s.scaleAt g c cmd va with
    | (.at (.mem o), s) => State.scaleRead g c cmd t (got ++ [(s.mem.read o).toNat]) (s.dirTouch (g / 8) o false)
    | (.at (.far p u), s) =>
      let (id, s) := s.farSend p u (.read 1) (.cmd g cmd.id) c
      (got, some id, s)
    | (_, s) => State.scaleRead g c cmd t (got ++ [0]) s

/-- The pages of a near-bank command's matrix, all bank-resident: first address, size, first device offset; none where one is not
(R226, R236). Log entry 24. -/
def State.matPages (s : State) (g : Nat) (c : BitVec 12) (cmd : Cmd) (j : Job) : Option (List (Nat × Nat × Nat)) :=
  if cmd.level = .monitor then none else
  let page (va : Nat) : Option (Nat × Nat × Nat) :=
    if (canonCheck cmd.level va 0).isSome ∨ inWindow va then none
    else match State.translate c cmd.level (.die (g / 192)) va 1 .load { s with poisoned := [] } with
      | (.ok pa e, _) => if pteBR e then (s.placeMem (s.place pa)).map (fun o =>
          let u := pageOf cmd.level va e
          (u.1, u.2, o - (va - u.1))) else none
      | _ => none
  let vas := (upto j.c.n).flatMap (fun n => pagesOf (j.c.b0.toNat + n * j.c.pitch) j.column)
  vas.foldr (fun va (acc : Option (List (Nat × Nat × Nat))) => match acc, page va with
    | some l, some x => some (if l.contains x then l else x :: l)
    | _, _ => none) (some [])

/-- The rows of R226 before those of the scale arrays: a status, or none. -/
def State.cmdCheck (s : State) (g ctx kind : Nat) (cmd : Cmd) (j : Job) : Option Nat :=
  let c := BitVec.ofNat 12 ctx
  let gs := s.cmdGrans g cmd.party
  let limit := 16384 * gs.length
  let al (o : Opnd) : Bool := let m := if o.layout = 2 then 64 else 16; o.off % m == 0 && o.lds % m == 0
  let hasA := j.isMma || j.isNbm || j.opc == 5 || j.opc == 6 || j.opc == 7
  let hasB := j.isMma || j.opc == 7
  if opcReserved kind j.opc || !j.legal || !(j.features.all (s.feature c)) then some 0x01
  else if (hasA && !al j.c.a) || (hasB && !al j.c.b)
      || (j.isNbm && (j.c.b0.toNat % 512 != 0 || j.c.pitch % 512 != 0)) then some 0x04
  else if (hasA && decide (limit < j.c.a.off + j.spanA)) || (hasB && decide (limit < j.c.b.off + j.spanB)) then some 0x02
  else none

/-- ac of one k group of ply.mma and its variants (R229). -/
def Job.groupAc (j : Job) : Nat :=
  if j.opc = 4 then j.p else if j.opc = 3 ∧ j.fb = 7 then 4
  else match j.fa with
    | 8 | 9 => 16
    | 10 => 64
    | _ => 8

/-- k groups or stripes of a command; one turn for the others. -/
def Job.steps (j : Job) : Nat := if j.isMma then cdiv j.c.k 16 else if j.isNbm then cdiv j.c.k 512 else 1

/-- ac until the turn's end: the first of a Ply command has the start-up of R230. A near-bank stripe's time is not bound
(R239). Log entry 2. -/
def Job.turnAc (j : Job) (first : Bool) : Nat :=
  if j.isMma then (if first then 24 else 0) + j.groupAc
  else if j.opc = 5 ∨ j.opc = 6 ∨ j.opc = 7 then 24 + 4 * j.c.m else 8

/-- The head command starts its next turn, to end later. -/
def State.cmdRun (g ctx kind : Nat) (j : Job) (first : Bool) (s : State) : State :=
  let (n, s) := s.draw
  let d := if kind = 1 then 1 + Config.latency n else j.turnAc first
  let s := s.onHead g ctx kind (fun x => { x with st := .running, started := true, ends := s.cycle + d })
  let s := if kind = 0 then s.onSpindle g (fun p => { p with unit := some (BitVec.ofNat 12 ctx) }) else s
  s.after d (.command g ctx kind)

/-- The effect of the turn that ends: a k group, a stripe, or the whole command (R228 to R240). -/
def State.cmdEffect (g ctx : Nat) (cmd : Cmd) (j : Job) (s : State) : Flags × State :=
  let gs := s.cmdGrans g cmd.party
  match j.opc with
  | 1 => (0, (cells 32 32).foldl (fun s (i, n) => s.setAcc g ctx j.c.tile i n 0) s)
  | 2 | 3 | 4 => s.mmaGroup g ctx gs j cmd.scales cmd.next
  | 5 => s.ldacc g ctx gs j
  | 6 => s.stacc g ctx gs j cmd.scales cmd.rng
  | 7 => (0, s.plyTranspose g gs j)
  | 0x21 | 0x22 => s.nbmStripe g (BitVec.ofNat 12 ctx) gs cmd j cmd.next
  | _ => (0, s)

/-- Whether the stripe that ends reads a poisoned line of the matrix (R343). -/
def State.stripeBad (s : State) (cmd : Cmd) (j : Job) : Bool :=
  j.isNbm && (cmd.stripeLines j cmd.next).any (fun l => s.isPoisoned (64 * l) 64)

/-- The turn that ends takes effect; then the command ends, goes on, pauses when its context's entry is over
(R221), or stops to be saved (R243). -/
def State.cmdTurnEnd (g ctx kind : Nat) (cmd : Cmd) (j : Job) (s : State) : State :=
  if s.stripeBad cmd j then s.cmdEnd g ctx kind 0x02 cmd.exc else
  let (fl, s) := s.cmdEffect g ctx cmd j
  let exc := cmd.exc ||| fl
  let s := s.onHead g ctx kind (fun x => { x with exc := exc, next := x.next + 1 })
  if j.steps ≤ cmd.next + 1 then s.cmdEnd g ctx kind 0 exc
  else if (if kind = 0 then s.plyOwner g == some ctx else s.plyHas g ctx) then s.cmdRun g ctx kind j false
  else if !s.plyHas g ctx then ((s.onHead g ctx kind (fun x => { x with ends := 0, mat := [] })).unitFree g ctx kind).plyLeft g ctx
  else (s.onHead g ctx kind (fun x => { x with st := .paused })).unitFree g ctx kind

/-- Whether the Ply unit is free for a command. -/
def State.unitOpen (s : State) (g kind : Nat) : Bool := kind != 0 || (s.spindle g).unit.isNone

/-- A command's checks, in the order of R226, then its first turn, or its next (R226, R241). The sequencer reads every scale byte
before the first multiply. -/
def State.cmdStart (g ctx kind : Nat) (cmd : Cmd) (j : Job) (s : State) : State :=
  let c := BitVec.ofNat 12 ctx
  match s.cmdCheck g ctx kind cmd j with
  | some st => s.cmdEnd g ctx kind st 0
  | none => match s.scaleCheck g c cmd j.scaleBytes with
    | some (.stop st) => s.cmdEnd g ctx kind st 0
    | some (.wait e va pte) => (s.onHead g ctx kind (fun x => { x with st := .held })).pageRequest (.cmd g cmd.id) c va e pte
    | some (.moving e) => (s.onHead g ctx kind (fun x => { x with st := .held })).moveHold e (.cmd g cmd.id)
    | _ => match (if j.isNbm then s.matPages g c cmd j else some []) with
      | none => s.cmdEnd g ctx kind 0x03 0
      | some mat =>
        let (got, far, s) := s.scaleRead g c cmd (j.scaleBytes.drop cmd.scales.length) cmd.scales
        match far with
        | some id => s.onHead g ctx kind (fun x => { x with st := .held, scales := got, far := some id })
        | none => (s.onHead g ctx kind (fun x => { x with scales := got, mat := mat })).cmdRun g ctx kind j true
/-- A command that began goes on at its next group or stripe (R221, R243). A near-bank command that was saved finds its matrix
again. -/
def State.cmdResume (g ctx kind : Nat) (cmd : Cmd) (j : Job) (s : State) : State :=
  if j.isNbm ∧ cmd.mat = [] then
    match s.matPages g (BitVec.ofNat 12 ctx) cmd j with
    | none => s.cmdEnd g ctx kind 0x03 cmd.exc
    | some mat => (s.onHead g ctx kind (fun x => { x with mat := mat })).cmdRun g ctx kind j false
  else s.cmdRun g ctx kind j false

/-- A turn of a head command: one that has ended goes on with its fill, one whose end is settled ends, any other takes `go`. -/
def State.cmdOver (g ctx kind : Nat) (cmd : Cmd) (go : State → State) (s : State) : State :=
  match cmd.st, cmd.fail with
  | .filling, _ => if cmd.far.isSome then s else s.cmdFill g ctx kind
  | _, some st => s.cmdEnd g ctx kind st cmd.exc
  | _, none => go s
/-- The turn of a head command of a reserved opcode (R226). -/
def State.cmdReserved (g ctx kind : Nat) (cmd : Cmd) (s : State) : State :=
  s.cmdOver g ctx kind cmd (fun s => if s.cmdReady g ctx kind then s.cmdEnd g ctx kind 0x01 0 else s)
/-- The turn of the head command of the queue `curCmd` names, when it is opcode opc with line c. The model's choice: a held command
whose page has come while the unit serves another context waits again, and is checked at its turn (R241, R415; log entry 41). -/
def State.cmdTurn (opc : Nat) (c : CmdLine) (s : State) : State :=
  let (g, ctx, kind) := s.curCmd
  match (s.spindle g).head ctx kind with
  | none => s
  | some cmd =>
    if opcOf (cmd.line.getD 0 0) ≠ opc then s else
    let j : Job := { opc := opc, c := c, fmt := cmd.fmt, sca0 := cmd.sca0, sca1 := cmd.sca1, sca2 := cmd.sca2 }
    let may : Bool := s.cmdReady g ctx kind && s.unitOpen g kind
    s.cmdOver g ctx kind cmd (fun s => match cmd.st with
    | .held =>
      if cmd.far.isSome then s
      else if s.plyHas g ctx ∧ s.unitOpen g kind then s.cmdStart g ctx kind cmd j
      else s.onHead g ctx kind (fun x => { x with st := .waiting })
    | .running =>
      if cmd.ends ≠ 0 then (if s.cycle < cmd.ends then s else s.cmdTurnEnd g ctx kind cmd j)
      else if may then s.cmdResume g ctx kind cmd j else s
    | .paused => if may then s.cmdResume g ctx kind cmd j else s
    | _ => if may then s.cmdStart g ctx kind cmd j else s)

/-- ply.zero (R228). -/
def execPlyZero (c : CmdLine) (s : State) : Host.Outcome State Fault Refusal := .next (s.cmdTurn 1 c)
/-- ply.mma (R229). -/
def execPlyMma (c : CmdLine) (s : State) : Host.Outcome State Fault Refusal := .next (s.cmdTurn 2 c)
/-- ply.mmamx (R229). -/
def execPlyMmaMx (c : CmdLine) (s : State) : Host.Outcome State Fault Refusal := .next (s.cmdTurn 3 c)
/-- ply.mmabp (R229). -/
def execPlyMmaBp (c : CmdLine) (s : State) : Host.Outcome State Fault Refusal := .next (s.cmdTurn 4 c)
/-- ply.ldacc (R231). -/
def execPlyLdacc (c : CmdLine) (s : State) : Host.Outcome State Fault Refusal := .next (s.cmdTurn 5 c)
/-- ply.stacc (R232). -/
def execPlyStacc (c : CmdLine) (s : State) : Host.Outcome State Fault Refusal := .next (s.cmdTurn 6 c)
/-- ply.tr (R234). -/
def execPlyTr (c : CmdLine) (s : State) : Host.Outcome State Fault Refusal := .next (s.cmdTurn 7 c)
/-- ply.sync (R235). -/
def execPlySync (c : CmdLine) (s : State) : Host.Outcome State Fault Refusal := .next (s.cmdTurn 8 c)
/-- nbm.gemv (R239). -/
def execNbmGemv (c : CmdLine) (s : State) : Host.Outcome State Fault Refusal := .next (s.cmdTurn 0x21 c)
/-- nbm.gemvbp (R239). -/
def execNbmGemvBp (c : CmdLine) (s : State) : Host.Outcome State Fault Refusal := .next (s.cmdTurn 0x22 c)
/-- nbm.sync (R240). -/
def execNbmSync (c : CmdLine) (s : State) : Host.Outcome State Fault Refusal := .next (s.cmdTurn 0x28 c)

/-! Commands that wait for a page or an answer. -/

/-- The queue that holds a command of a Spindle. -/
def Spindle.findCmd (p : Spindle) (id : Nat) : Option (Nat × Cmd) :=
  p.queue.findSome? (fun (k, q) => match q.head? with
    | some c => if c.id = id then some (k, c) else none
    | none => none)

/-- A command's page has come, or failed (R424, R428): one that was to fill then takes no fill (log entry 9). -/
def State.cmdWake (g id : Nat) (fail : Bool) (s : State) : State :=
  match (s.spindle g).findCmd id with
  | none => s
  | some (k, c) =>
    if c.st = .filling then (if fail then s.cmdDone g (k / 2) (k % 2) else s.cmdFill g (k / 2) (k % 2))
    else
      let s := if fail then s.onHead g (k / 2) (k % 2) (fun x => { x with fail := some (x.fail.getD 0x02) }) else s
      s.later (.command g (k / 2) (k % 2))

/-- The answer to access `far` of a command (R434, R435): a scale byte, or the end of its fill. -/
def State.cmdAnswer (g id far : Nat) (a : Answer) (s : State) : State :=
  match (s.spindle g).findCmd id with
  | none => s
  | some (k, c) =>
    if c.far ≠ some far then s
    else if c.st = .filling then s.cmdDone g (k / 2) (k % 2)
    else
      let s := s.onHead g (k / 2) (k % 2) (fun x => match a with
        | .done v _ => { x with far := none, scales := x.scales ++ [v.toNat % 256] }
        | .data bs => { x with far := none, scales := x.scales ++ [ofBytes (bs.take 1)] }
        | .refused => { x with far := none, fail := some 0x03 }
        | _ => { x with far := none, fail := some 0x02 })
      s.later (.command g (k / 2) (k % 2))

end Sys2Proof.Machine
end

