-- ==== Sys2Proof/Machine/PlySave.lean ====
section
/-! DEFINITION. The Ply slot table and the save of a context's Ply state (12, R394; 07, R222, R243; 13, R415). -/

namespace Sys2Proof.Machine
open Sys2Proof

/-- State codes of a command entry (R415); a command that fills is not saved. -/
def CmdSt.code : CmdSt → Nat
  | .queued => 0
  | .waiting => 1
  | .held => 2
  | .running | .filling => 3
  | .paused => 4

/-- The state a restored command takes: the one it left (R241). -/
def CmdSt.ofCode (n : Nat) : CmdSt :=
  match n with
  | 0 => .queued
  | 1 => .waiting
  | 2 => .held
  | 3 => .running
  | _ => .paused

/-- The 24 words of a command entry (R415). The party's identity is the command's own number, under which the device keeps
the rest of it. Log entry 41. -/
def Cmd.words (c : Cmd) : List Word :=
  (upto 8).map (fun i => c.line.getD i 0) ++ [c.fmt, c.sca0, c.sca1, c.sca2, c.sca3, BitVec.ofNat 64 c.id]
  ++ (upto 8).map (fun j => (c.rng.getD (2 * j + 1) 0 ++ c.rng.getD (2 * j) 0 : Word))
  ++ [BitVec.ofNat 64 (c.next % 2 ^ 32 + (if c.started then 2 ^ 32 else 0)), BitVec.ofNat 64 c.st.code]

/-- A command of 24 words over what the device kept of it: one that ran goes on at its next group or stripe (R243), one that was
held is checked again. Log entry 41. -/
def Cmd.ofWords (keep : List Cmd) (w : List Word) : Cmd :=
  let g (i : Nat) : Word := w.getD i 0
  let id := (g 13).toNat
  let base := (keep.find? (fun c => c.id == id)).getD
    { id := id, line := [], fmt := 0, sca0 := 0, sca1 := 0, sca2 := 0, sca3 := 0, party := 0, rng := [], level := .user }
  let rng := (upto 16).map (fun k => BitVec.ofNat 32 (fld (g (14 + k / 2)) (32 * (k % 2) + 31) (32 * (k % 2))))
  { base with
    line := w.take 8, fmt := g 8, sca0 := g 9, sca1 := g 10, sca2 := g 11, sca3 := g 12, rng := rng
    next := fld (g 22) 31 0, started := tbit (g 22) 32, st := CmdSt.ofCode (fld (g 23) 3 0), ends := 0
    far := none, mat := [] }

/-- The Ply and the near-bank commands of a context on a Spindle, in queue order. -/
def Spindle.cmds (p : Spindle) (ctx kind : Nat) : List Cmd := p.queue.getD [] (ctx * 2 + kind)

/-- The words of a Spindle record, its reserved bytes 0 (R415). -/
def Spindle.record (p : Spindle) (g ctx : Nat) : List Word :=
  let a := p.cmds ctx 0
  let b := p.cmds ctx 1
  BitVec.ofNat 64 (g + a.length * 2 ^ 16 + b.length * 2 ^ 24) :: List.replicate 7 0
  ++ (upto 4096).map (fun k => p.acc.getD 0 (ctx * 4096 + k)) ++ (a ++ b).flatMap Cmd.words
  ++ List.replicate (8192 - 4104 - 24 * (a.length + b.length)) 0

/-- A place for one more record of a context: its block and index. The last block of the chain takes it, or a fresh one that
joins the chain (R413, R415); none while the pool is empty. A last block whose head cannot be read takes no more, a fatal event (R403).
Log entry 59. -/
def State.plyPlace (c : BitVec 12) (s : State) : Option (Nat × Nat × State) :=
  let bs := (s.ctx c).plyBlocks
  let fresh (s : State) : Option (Nat × Nat × State) := (s.takeBlock c).map (fun (b, s) =>
    let s := (s.pwr8 (b + 8) (BitVec.ofNat 64 (c.toNat + 3 * 2 ^ 16))).pwrWords (b + 16) [0, 0, 0]
    let s := match bs.getLast? with
      | some l => s.pwr8 (l + 32) (BitVec.ofNat 64 b)
      | none => s
    (b, 0, s.onCtx c (fun x => { x with plyBlocks := x.plyBlocks ++ [b] })))
  match bs.getLast? with
  | some l => match s.areaError l 64 with
    | some e => fresh (s.trapRecord {
        kind := 7, cause := e, loc := BitVec.ofNat 64 l, unit := 0, level := (ctxLevel c).code, ctx := c })
    | none => if (s.prd8 (l + 24)).toNat < 63 then some (l, (s.prd8 (l + 24)).toNat, s) else fresh s
  | none => fresh s

/-- Whether a context has Ply state on a Spindle. -/
def Spindle.hasPly (p : Spindle) (c : BitVec 12) : Bool :=
  p.tiles.contains c || p.cmds c.toNat 0 != [] || p.cmds c.toNat 1 != []

/-- Whether no k group or stripe of the context runs on a Spindle, and no command of it that has ended has yet to fill (R241,
R243). -/
def Spindle.plyIdle (p : Spindle) (c : BitVec 12) : Bool :=
  [0, 1].all (fun k => match p.head c.toNat k with
    | some h => h.st != .filling && (h.st != .running || h.ends == 0)
    | none => true)

/-- Saves a context's Ply state of a Spindle into a record (R243, R415). It waits while a group or stripe runs, and while the
pool is empty. Log entries 38, 41. -/
def State.plySave (g : Nat) (c : BitVec 12) (s : State) : State :=
  let p := s.spindle g
  if !p.hasPly c ∨ !p.plyIdle c then s else
  match s.plyPlace c with
  | none => s.poolMet c g
  | some (b, k, s) =>
    let cs := p.cmds c.toNat 0 ++ p.cmds c.toNat 1
    let s := (s.pwrWords (plyRec b k) (p.record g c.toNat)).pwr8 (b + 24) (BitVec.ofNat 64 (k + 1))
    let s := s.onCtx c (fun x => { x with plyKeep := x.plyKeep ++ cs })
    let s := s.onSpindle g (fun p => { p with
      acc := p.acc.filter (fun (i, _) => i / 4096 != c.toNat)
      queue := (p.queue.del (c.toNat * 2)).del (c.toNat * 2 + 1)
      tiles := p.tiles.filter (· != c) })
    let s := s.onCluster (g / 8) (fun r => { r with locks := r.locks.filter (fun l => cs.all (fun x => x.id != l.id)) })
    s.locksFreed (g / 8)

/-- Moves a record of a block to another place in it. A poisoned line of it stays one, and is a fatal event (R403). Log entry 59. -/
def State.plyMove (c : BitVec 12) (b i k : Nat) (s : State) : State :=
  let from_ := plyRec b i
  let t := s.pwrWords (plyRec b k) (s.prdWords from_ 8192)
  match s.areaError from_ 65536, s.placeMem (s.place from_), s.placeMem (s.place (plyRec b k)) with
  | some e, some o, some p =>
    let moved := (s.poisoned.filter (fun l => decide (o ≤ l ∧ l < o + 65536))).map (fun l => l - o + p)
    State.trapRecord {
      kind := 7, cause := e, loc := BitVec.ofNat 64 from_, unit := fld (s.prd8 from_) 9 0, level := (ctxLevel c).code, ctx := c }
      { t with poisoned := moved.foldl (fun l a => insertNat a l) t.poisoned }
  | _, _, _ => t
/-- Gives up record k of a block: the last record takes its place, and an empty block returns to the pool, its chain closed
over it. -/
def State.plyDrop (c : BitVec 12) (b k : Nat) (s : State) : State :=
  let n := (s.prd8 (b + 24)).toNat
  let s := if k + 1 < n then s.plyMove c b (n - 1) k else s
  let s := s.pwr8 (b + 24) (BitVec.ofNat 64 (n - 1))
  if 1 < n then s else
  let bs := (s.ctx c).plyBlocks
  let s := bs.foldl (fun s a => if s.prd8 (a + 32) = BitVec.ofNat 64 b then s.pwr8 (a + 32) (s.prd8 (b + 32)) else s) s
  (s.onCtx c (fun x => { x with plyBlocks := x.plyBlocks.filter (· != b) })).returnBlock c b

/-- A context's tiles come into the unit of a Spindle: as saved, with its commands before those submitted since and their locks
registered again (R243, R415); else +0 (R222). A record with a poisoned line is a fatal event, and its commands end with STATUS
0x02 (R403). Log entries 41, 59. -/
def State.plyRestore (g : Nat) (c : BitVec 12) (s : State) : State :=
  match s.plyFind g c with
  | none => s.onSpindle g (fun p => { p with tiles := p.tiles ++ [c] })
  | some (b, k) =>
    let w := s.prdWords (plyRec b k) 5688
    let np := fld (w.getD 0 0) 21 16
    let nn := fld (w.getD 0 0) 29 24
    let keep := (s.ctx c).plyKeep
    let err := (s.areaError b 64).or (s.areaError (plyRec b k) 45504)
    let cs := (upto (np + nn)).map (fun e =>
      let x := Cmd.ofWords keep ((w.drop (4104 + 24 * e)).take 24)
      if err.isSome then { x with fail := some 0x02 } else x)
    let s := match err with
      | some e => s.trapRecord {
          kind := 7, cause := e, loc := BitVec.ofNat 64 (plyRec b k), unit := g, level := (ctxLevel c).code, ctx := c }
      | none => s
    let s := s.onSpindle g (fun p => { p with
      tiles := p.tiles ++ [c]
      acc := (upto 4096).foldl (fun t i => t.put (c.toNat * 4096 + i) (w.getD (8 + i) 0)) p.acc
      queue := (p.queue.put (c.toNat * 2) (headed (cs.take np ++ p.cmds c.toNat 0))).put (c.toNat * 2 + 1)
        (headed (cs.drop np ++ p.cmds c.toNat 1)) })
    let locks := ((upto cs.length).zip cs).flatMap (fun (e, x) =>
      x.job.locks g (if e < np then 0 else 1) x.id c x.party)
    let s := s.onCluster (g / 8) (fun r => { r with locks := locks ++ r.locks })
    let s := s.onCtx c (fun x => { x with plyKeep := x.plyKeep.filter (fun y => cs.all (fun z => z.id != y.id)) })
    let s := [0, 1].foldl (fun s k => match (s.spindle g).head c.toNat k with
      | some h => if h.st = .held then s.later (.command g c.toNat k) else s
      | none => s) s
    s.plyDrop c b k

/-- Brings a Spindle's tiles in line with its slot table: contexts that left are saved, those that came are restored (R243,
R394), save for a context that is saved or being saved (R412). Log entry 19. -/
def State.plySettle (g : Nat) (s : State) : State :=
  let s := (s.spindle g).tiles.foldl (fun s c => if (s.spindle g).inTable c.toNat then s else s.plySave g c) s
  (upto 16).foldl (fun s t => match (s.spindle g).entry t with
    | none => s
    | some n =>
      let c := BitVec.ofNat 12 n
      let x := s.ctx c
      if x.saved || s.isFrozen c || (x.saving && x.plyKeep.all (fun y => (s.party? y.party).isNone)) then s
      else if !(s.spindle g).tiles.contains c then s.plyRestore g c else s) s

/-- The contexts that four slot-table words name. -/
def tableCtxs (ws : List Word) : List Nat :=
  ((upto 16).filterMap (fun t =>
    let e := fld (ws.getD (t / 4) 0) (16 * (t % 4) + 15) (16 * (t % 4))
    if 32768 ≤ e then some (e % 4096) else none)).eraseDups

/-- A write of PLYSLOT register r (R394): none when the table would name more than four contexts. Log entry 19. -/
def State.plyslotSet (g : Nat) (r : Nat) (v : Word) (s : State) : Option State :=
  let ws := (s.spindle g).plyslot.set r (v &&& 0x8FFF8FFF8FFF8FFF)
  if 4 < (tableCtxs ws).length then none
  else some ((s.onSpindle g (fun p => { p with plyslot := ws })).plySettle g)

/-- PLY_SLOT_BOUNDARY (R221, R394): a slot-table entry begins on a Spindle. A running command that is not the entry's context's
pauses at its group's end; what left the table is saved. Log entry 19. -/
def execPlySlotBoundary (s : State) : Host.Outcome State Fault Refusal :=
  match s.ev with
  | .unit g => .next (s.plySettle g)
  | _ => .next s

/-- PLYSLOT_WRITE (R394): a write of a slot-table register; one that names more than four contexts changes nothing.
Log entry 19. -/
def execPlyslotWrite (s : State) : Host.Outcome State Fault Refusal :=
  match s.ev with
  | .slotWrite g r v => .next ((s.plyslotSet g r.toNat v).getD s)
  | _ => .next s

end Sys2Proof.Machine
end

