-- ==== Sys2Proof/Machine/System.lean ====
section
/-! DEFINITION. System registers, tlb.inv and code.retire (01, R38 to R44; 04, R142 to R150; 12, R394; 14, R453). -/

namespace Sys2Proof.Machine
open Sys2Proof

/-! Numbers (R38, R39, R41). -/

/-- The allocated numbers (R41). -/
def sysAllocated (n : Nat) : Bool :=
  [(0x000, 0x001), (0x008, 0x00C), (0x200, 0x207), (0x210, 0x214), (0x400, 0x406), (0x410, 0x411), (0x420, 0x424),
   (0x430, 0x433), (0x600, 0x60F), (0xC00, 0xC06), (0xE00, 0xE00)].any (fun (a, b) => decide (a ≤ n ∧ n ≤ b))

/-- T-PRIV with no detail. -/
def tPriv : Cause := ⟨10, 0, 0, false, 0⟩

/-- The checks of an access in the order of R39. -/
def sysCheck (lvl : Level) (n : Nat) (write : Bool) : Option Cause :=
  if 0x800 ≤ n ∧ n ≤ 0xBFF then some (tIll 0)
  else if lvl.code < field n 11 10 then some tPriv
  else if !sysAllocated n then some (tIll 0)
  else if write ∧ field n 9 9 = 1 then some (tIll 0)
  else none

/-! Values. -/

/-- DISC0 to DISC15 (R453, R454). Every Utsen port, storage port and feature is present. -/
def State.disc (s : State) (i : Nat) : Word :=
  let m (d : Nat) : Nat := (s.part.cmask.getD d 0).toNat
  match i with
  | 0 => BitVec.ofNat 64 (s.part.part.toNat * 2 ^ 48 + 4 * 2 ^ 36 + 8 * 2 ^ 24 + 16 * 2 ^ 16 + 1)
  | 1 => BitVec.ofNat 64 (m 1 * 2 ^ 32 + m 0)
  | 2 => BitVec.ofNat 64 (m 3 * 2 ^ 32 + m 2)
  | 3 => BitVec.ofNat 64 (64 * 2 ^ 16 + ofElems 4 ((upto 4).map (fun d => s.part.nstk.getD d 0)))
  | 4 => BitVec.ofNat 64 (((upto 18).foldl (fun n p => if tbit (s.uport.getD 0 p) 0 then n + 2 ^ p else n) 0) * 2 ^ 32
      + 0x3FFFF)
  | 5 => BitVec.ofNat 64 (s.supPorts.toNat * 2 ^ 8 + 0xFF)
  | 6 => 0x7F
  | 7 => match s.devnum with
    | some d => BitVec.ofNat 64 (2 ^ 63 + d.toNat)
    | none => 0
  | _ => 0

/-- REPST (R28): the first word of the repetition state as the save area lays it out (R414). Log entry 17. -/
def Rep.word (r : Rep) : Word :=
  BitVec.ofNat 64 ((if r.active then 1 else 0) + r.len.toNat * 2 + r.pos.toNat * 2 ^ 6 + r.stride.toNat * 2 ^ 10
    + r.left.toNat * 2 ^ 32)

/-- PARTY (R370). -/
def Thread.partyWord (t : Thread) : Word := t.nidx ++ (0#9 ++ t.psize ++ 0#9 ++ t.pidx)

/-- STRBIND (R29). -/
def Thread.strbind (t : Thread) : Word :=
  (upto 8).foldl (fun (w : Word) j => if (t.strand (BitVec.ofNat 5 (24 + j))).isSome then w ||| (1#64 <<< (24 + j)) else w) 0

/-- XEMPTY (R30, R41): a bound register's bit tells whether its strand is empty, whose words the read loads.
Log entry 18. -/
def State.xempty (s : State) : Acc Word :=
  let t := s.thr
  (Acc.each (fun j s => match t.strand (BitVec.ofNat 5 (24 + j)) with
    | none => .ok (t.empty.getLsbD (24 + j)) s
    | some d => (s.strandLoad (d.toNat + 16)).bind (fun h s =>
        (s.strandLoad (d.toNat + 24)).bind (fun l s => .ok (h == l) s))) (upto 8) s).bind (fun bs s =>
    let q := ofElems 1 (bs.map (fun b => if b then 1 else 0))
    .ok (BitVec.ofNat 64 (t.empty.toNat % 2 ^ 24 + q * 2 ^ 24)) s)

/-- The fields of fmt (R25). The register may hold reserved bits from dispatch (R26); FMT and FMT_S read them as 0 and a write
leaves them (R6). Log entry 3. -/
def fmtMask : Word := 0xFCFFFF
/-- The value of an allocated register (R41). Log entries 17, 18, 52. -/
def State.sysGet (n : Nat) (s : State) : Acc Word :=
  let t := s.thr
  let ok (v : Word) : Acc Word := .ok v s
  match n with
  | 0x000 => ok (t.fflags.setWidth 64)
  | 0x001 => ok t.vrm
  | 0x008 => ok t.utvec
  | 0x009 => ok t.uepc
  | 0x00A => ok t.ucause
  | 0x00B => ok t.utval
  | 0x00C => ok t.uscratch
  | 0x200 => s.xempty
  | 0x201 => ok (BitVec.ofNat 64 (gspOf s.cur * 2 ^ 16 + slotOf s.cur))
  | 0x202 => ok (t.ctx.setWidth 64)
  | 0x203 => ok (BitVec.ofNat 64 s.cycle)
  | 0x204 => ok t.partyWord
  | 0x205 => ok t.launch
  | 0x206 => ok t.rep.word
  | 0x207 => ok t.strbind
  | 0x210 | 0x420 => ok (t.fmt &&& fmtMask)
  | 0x211 | 0x421 => ok t.sca0
  | 0x212 | 0x422 => ok t.sca1
  | 0x213 | 0x423 => ok t.sca2
  | 0x214 | 0x424 => ok t.sca3
  | 0x400 => ok (t.sstatus.setWidth 64)
  | 0x401 => ok s.stvec
  | 0x402 => ok t.sepc
  | 0x403 => ok t.scause
  | 0x404 => ok t.stval
  | 0x405 => ok t.sscratch
  | 0x406 => ok (s.sdeleg t.ctx)
  | 0x410 => ok s.ctxtab
  | 0x411 => ok t.retain
  | 0x430 | 0x431 | 0x432 | 0x433 => ok ((s.spindle (gspOf s.cur)).plyslot.getD (n - 0x430) 0)
  | 0xC00 => ok (t.mstatus.setWidth 64)
  | 0xC01 => ok s.mtvec
  | 0xC02 => ok t.mepc
  | 0xC03 => ok t.mcause
  | 0xC04 => ok t.mtval
  | 0xC05 => ok s.mdeleg
  | 0xC06 => ok t.mscratch
  | 0xE00 => ok (BitVec.ofNat 64 (1 + s.stepping.toNat * 2 ^ 8))
  | _ => ok (s.disc (n - 0x600))

/-- The state after a write of v to a read-and-write register (R6, R41): reserved bits stay 0. None when the write is refused
(R394). Log entry 19. -/
def State.sysPut (n : Nat) (v : Word) (s : State) : Option State :=
  let on (f : Thread → Thread) : Option State := some (s.onThr f)
  match n with
  | 0x000 => on (fun t => { t with fflags := v.setWidth 5 })
  | 0x001 => on (fun t => { t with vrm := v &&& vrmMask })
  | 0x008 => on (fun t => { t with utvec := v })
  | 0x009 => on (fun t => { t with uepc := v })
  | 0x00A => on (fun t => { t with ucause := v &&& causeMask })
  | 0x00B => on (fun t => { t with utval := v })
  | 0x00C => on (fun t => { t with uscratch := v })
  | 0x400 => on (fun t => { t with sstatus := v.setWidth 3 })
  | 0x401 => some { s with stvec := v }
  | 0x402 => on (fun t => { t with sepc := v })
  | 0x403 => on (fun t => { t with scause := v &&& causeMask })
  | 0x404 => on (fun t => { t with stval := v })
  | 0x405 => on (fun t => { t with sscratch := v })
  | 0x406 => some (s.pwr8 (s.descAddr s.thr.ctx 6) (v &&& 0x920))
  | 0x410 => some { s with ctxtab := v &&& 0x000FFFFFFFFFFF80 }
  | 0x411 => on (fun t => { t with retain := v &&& retainMask })
  | 0x420 => on (fun t => { t with fmt := (t.fmt &&& ~~~fmtMask) ||| (v &&& fmtMask) })
  | 0x421 => on (fun t => { t with sca0 := v })
  | 0x422 => on (fun t => { t with sca1 := v })
  | 0x423 => on (fun t => { t with sca2 := v })
  | 0x424 => on (fun t => { t with sca3 := v })
  | 0x430 | 0x431 | 0x432 | 0x433 => s.plyslotSet (gspOf s.cur) (n - 0x430) v
  | 0xC00 => on (fun t => { t with mstatus := v.setWidth 3 })
  | 0xC01 => some { s with mtvec := v }
  | 0xC02 => on (fun t => { t with mepc := v })
  | 0xC03 => on (fun t => { t with mcause := v &&& causeMask })
  | 0xC04 => on (fun t => { t with mtval := v })
  | 0xC05 => some { s with mdeleg := v &&& 0x3FFF }
  | 0xC06 => on (fun t => { t with mscratch := v })
  | _ => some s

/-- A write of `f old operand` with the old value in rd (R142). -/
def sysOp (rd : Reg) (n : BitVec 12) (rs1 : Reg) (f : Word → Word → Word) : TOp :=
  { xs := [rs1], xd := [rd],
    run := fun ws s =>
      (Acc.check (sysCheck s.thr.level n.toNat true) s).bind (fun _ s => (s.sysGet n.toNat).bind (fun old s =>
        match s.sysPut n.toNat (f old (ws.getD 0 0)) with
        | some s => .ok { ws := [(rd, old)] } s
        | none => .trap (tIll 0))) }

/-- sysrd (R142). -/
def opSysrd (rd : Reg) (n : BitVec 12) : TOp :=
  { xd := [rd],
    run := fun _ s => (Acc.check (sysCheck s.thr.level n.toNat false) s).bind (fun _ s =>
      (s.sysGet n.toNat).bind (fun v s => .ok { ws := [(rd, v)] } s)) }
/-- sysrd (R142). -/
def execSysrd (rd : Reg) (n : BitVec 12) (s : State) : Host.Outcome State Fault Refusal := issueOp (opSysrd rd n) s
/-- syswr (R142). -/
def opSyswr (rd : Reg) (n : BitVec 12) (rs1 : Reg) : TOp := sysOp rd n rs1 (fun _ v => v)
/-- syswr (R142). -/
def execSyswr (rd : Reg) (n : BitVec 12) (rs1 : Reg) (s : State) : Host.Outcome State Fault Refusal := issueOp (opSyswr rd n rs1) s
/-- sysset (R142). -/
def opSysset (rd : Reg) (n : BitVec 12) (rs1 : Reg) : TOp := sysOp rd n rs1 (fun old v => old ||| v)
/-- sysset (R142). -/
def execSysset (rd : Reg) (n : BitVec 12) (rs1 : Reg) (s : State) : Host.Outcome State Fault Refusal := issueOp (opSysset rd n rs1) s
/-- sysclr (R142). -/
def opSysclr (rd : Reg) (n : BitVec 12) (rs1 : Reg) : TOp := sysOp rd n rs1 (fun old v => old &&& ~~~v)
/-- sysclr (R142). -/
def execSysclr (rd : Reg) (n : BitVec 12) (rs1 : Reg) (s : State) : Host.Outcome State Fault Refusal := issueOp (opSysclr rd n rs1) s

/-! tlb.inv (R147, R148, R409). -/

/-- Starts an invalidation of [lo, hi) of a context, or of every context, for the thread whose turn it is: its token is
empty until every unit has acknowledged; with 64 outstanding on the die it waits. Log entry 23. -/
def State.invStart (rd : Reg) (c : Option (BitVec 12)) (lo hi : Nat) (s : State) : Acc Out :=
  let d := gspOf s.cur / 192
  (s.tokenCheck rd).bind (fun _ s =>
    if 64 ≤ (s.die d).invs.length then .hold (State.roomHold .invs)
    else
      let (id, s) := s.newId
      let s := s.onDie d (fun r => { r with invs := r.invs ++ [{ id := id, ctx := c, lo := lo, hi := hi }] })
      let s := s.onThr (fun t => { t.setEmpty rd (.op id) with ops := t.ops ++ [id] })
      .ok {} (s.eventually (.event .tlbInvComplete (.unit id))))

/-- A tlb.inv form: supervisor level; `f` gives what it selects, or none for T-ILL. -/
def invOp (rd : Reg) (xs : List Reg) (f : List Word → Option (Option (BitVec 12) × Nat × Nat)) : TOp :=
  { xs := xs, xd := [rd],
    run := fun ws s =>
      if s.thr.level = .user then .trap tPriv
      else match f ws with
        | none => .trap (tIll 0)
        | some (c, lo, hi) => s.invStart rd c lo hi }

/-- The context that x[rs1] names (R147). -/
def invCtx (w : Word) : Option (BitVec 12) := if fld w 63 12 ≠ 0 then none else some (w.setWidth 12)

/-- tlb.inv (R147, R148). -/
def opTlbInv (rd rs1 rs2 rs3 : Reg) : TOp :=
  invOp rd [rs1, rs2, rs3] (fun ws =>
    let a := (ws.getD 1 0).toNat
    let n := (ws.getD 2 0).toNat
    match invCtx (ws.getD 0 0) with
    | none => none
    | some c =>
      if field a 63 57 ≠ 0 ∨ 2 ^ 57 < a + n then none
      else if n = 0 then some (some c, 0, 0) else some (some c, a / 4096 * 4096, a + n))
/-- tlb.inv (R147, R148). -/
def execTlbInv (rd rs1 rs2 rs3 : Reg) (s : State) : Host.Outcome State Fault Refusal := issueOp (opTlbInv rd rs1 rs2 rs3) s
/-- tlb.inv.ctx (R147, R148). -/
def opTlbInvCtx (rd rs1 : Reg) : TOp :=
  invOp rd [rs1] (fun ws => (invCtx (ws.getD 0 0)).map (fun c => (some c, 0, 2 ^ 57)))
/-- tlb.inv.ctx (R147, R148). -/
def execTlbInvCtx (rd rs1 : Reg) (s : State) : Host.Outcome State Fault Refusal := issueOp (opTlbInvCtx rd rs1) s
/-- tlb.inv.all (R147, R148). -/
def opTlbInvAll (rd : Reg) : TOp := invOp rd [] (fun _ => some (none, 0, 2 ^ 57))
/-- tlb.inv.all (R147, R148). -/
def execTlbInvAll (rd : Reg) (s : State) : Host.Outcome State Fault Refusal := issueOp (opTlbInvAll rd) s

/-- The ports of regions of a context walk again (R416). -/
def State.rewalk (c : Option (BitVec 12)) (s : State) : State :=
  s.regions.foldl (fun s (rid, r) =>
    if r.ctx = none ∨ (c.isSome ∧ c ≠ some 0 ∧ r.ctx ≠ c) then s
    else r.withheld.foldl (fun s w =>
      if w.page.isSome then s
      else s.later (.event .portRewalk (.pair (2 * rid) (w.node.toNat + 256 * w.tag.toNat)))) s) s

/-- TLB_INV_COMPLETE (R148, R409): every unit removes what the invalidation selects and acknowledges; once what used a removed
entry has completed, the token fills with 0, and ports walk again. Log entry 23. -/
def State.invDone (id : Nat) (s : State) : State :=
  match (upto 4).findSome? (fun d => ((s.die d).invs.find? (fun i => i.id == id)).map (fun i => (d, i))) with
  | none => s
  | some (d, i) =>
    let now := if i.lo < i.hi then s.usesOf i.ctx i.lo i.hi true else []
    let (left, s) : List Nat × State := match i.users with
      | none => (now, if i.lo < i.hi then s.tlbRemove i.ctx i.lo i.hi else s)
      | some l => (l.filter now.contains, s)
    if left = [] then
      (((s.onDie d (fun r => { r with invs := r.invs.filter (fun j => j.id != id) })).fillOp id 0).wakeRoom .invs).rewalk i.ctx
    else
      (s.onDie d (fun r => { r with invs := r.invs.map (fun j => if j.id = id then { j with users := some left } else j) })).after 1
        (.event .tlbInvComplete (.unit id))
/-- TLB_INV_COMPLETE (R148). Log entry 23. -/
def execTlbInvComplete (s : State) : Host.Outcome State Fault Refusal :=
  match s.ev with
  | .unit id => .next (s.invDone id)
  | _ => .next s

/-! code.retire (R149, R150). -/

/-- log2 of the entries of a context's spill rings, if word 0 of the spill queue is in order (R384). -/
def State.spillCap (s : State) (c : BitVec 12) : Option Nat :=
  let w := s.prd8 (fld (s.desc c 2) 51 6 * 64)
  if 4 ≤ w.toNat ∧ w.toNat ≤ 15 then some w.toNat else none
/-- Physical address of the header of a cluster's spill ring (R384). -/
def State.ringHead (s : State) (c : BitVec 12) (rid cap : Nat) : Nat :=
  fld (s.desc c 2) 51 6 * 64 + 64 + rid * (64 + 128 * 2 ^ cap)
/-- Physical address of entry i of the ring whose header stands at h. -/
def ringEntry (h cap : Nat) (i : Word) : Nat := h + 64 + 128 * (i.toNat % 2 ^ cap)
/-- Addresses of the records in a cluster's ring, oldest first. -/
def State.spilled (s : State) (c : BitVec 12) (rid : Nat) : List Nat :=
  match s.spillCap c with
  | none => []
  | some cap =>
    let h := s.ringHead c rid cap
    let head := s.prd8 h
    let n := (s.prd8 (h + 8) - head).toNat
    (upto (min n (2 ^ cap))).map (fun i => ringEntry h cap (head + BitVec.ofNat 64 i))

/-- The references of a context that code.retire counts (R150). Log entries 20, 57. -/
def State.references (c : BitVec 12) (s : State) : List Word :=
  s.threads.flatMap (fun (_, t) => if t.ctx = c then [t.pc, t.rx 1] else [])
  ++ s.parties.flatMap (fun (_, p) =>
    if p.ctx = c then p.saved.flatMap (fun e => [s.prd8 (e.area + 2424), s.prd8 (e.area + 8)]) else [])
  ++ s.regions.flatMap (fun (_, r) => if r.ctx = some c then r.rcfg.filter (· != 0) else [])
  ++ s.images.flatMap (fun (b, m) =>
    if m.ctx = c then ((upto 16).map (fun i => s.prd8 (b + 64 + 8 * i))).filter (· != 0) else [])
  ++ s.clusters.flatMap (fun (_, r) =>
    r.records.filterMap (fun e => if fld (e.record.words.getD 6 0) 63 52 = c.toNat then e.record.words[1]? else none))
  ++ (upto 96).flatMap (fun rid => (s.spilled c rid).map (fun a => s.prd8 (a + 8)))
  ++ s.launches.filterMap (fun (n, l) =>
    let waits := decide (l.next < l.parties) || !l.sent || s.clusters.any (fun (_, r) => r.entries.any (fun e =>
      match e.what with
      | .launch m _ => m == n
      | _ => false))
    if l.ctx = c ∧ waits then l.words[0]? else none)

/-- code.retire (R149, R150). Log entry 20. -/
def opCodeRetire (rd rs1 rs2 : Reg) : TOp :=
  { xs := [rs1, rs2], xd := [rd],
    run := fun ws s =>
      let b := (ws.getD 0 0).toNat
      let n := fld (ws.getD 1 0) 51 0
      let c := BitVec.ofNat 12 (fld (ws.getD 1 0) 63 52)
      if s.thr.level = .user then .trap tPriv
      else if n = 0 ∨ 2 ^ 57 < b + n then .trap (tIll 0)
      else
        let k := ((s.references c).filter (fun w => decide (b ≤ w.toNat ∧ w.toNat < b + n))).length
        .ok { ws := [(rd, BitVec.ofNat 64 (min k (2 ^ 64 - 1)))] } s.slow }
/-- code.retire (R149, R150). -/
def execCodeRetire (rd rs1 rs2 : Reg) (s : State) : Host.Outcome State Fault Refusal := issueOp (opCodeRetire rd rs1 rs2) s

end Sys2Proof.Machine
end

