-- ==== Sys2Proof/Machine/Flags.lean ====
section
/-! DEFINITION. Element operations of V-parcels: elements and masks, the rounding mode, the sticky flags and the stochastic
draws of a parcel (05, R151 to R155; 02, R51, R63 to R66). -/

namespace Sys2Proof.Machine
open Sys2Proof

/-- What a parcel's float elements leave: the union of their flags and the lanes' generator states. -/
structure FSt where
  fl : Flags := 0
  rng : List (BitVec 32)
  deriving DecidableEq, Repr

/-- One rounding that draws from a lane when it needs to (R66). -/
def FSt.step (lane : Nat) (op : Nat → FRes) (st : FSt) : Nat × FSt :=
  let d := rngStep (st.rng.getD lane 0)
  let r := op d.toNat
  (r.bits, { fl := st.fl ||| r.fl, rng := if r.drew then st.rng.set lane d else st.rng })

/-- The lane that holds bit 0 of element i of width w (R66, R159). -/
def laneOf (w i : Nat) : Nat := w * i % 512 / 32

/-- Elements of a destination whose computation sets flags and draws, in ascending order (R154, R66). -/
def vEach (act : Nat → Bool) (old : Nat → Nat) (f : Nat → FSt → Nat × FSt) : List Nat → FSt → List Nat × FSt
  | [], st => ([], st)
  | i :: t, st =>
    let (v, st) := if act i then f i st else (old i, st)
    let (vs, st) := vEach act old f t st
    (v :: vs, st)

/-- The format of a float type code (R92). -/
def fltOf (ty : BitVec 3) : FFmt := if ty = 0 then f32 else if ty = 1 then bf16 else f16

/-- The mode that VRM.RM holds (R155). -/
def Thread.rm (t : Thread) : Nat := fld t.vrm 2 0
/-- FXW (R155). -/
def Thread.fxw (t : Thread) : Int := toSigned 8 (fld t.vrm 15 8)

/-- The first feature of a list that the thread's context lacks (R311). -/
def State.lacks (s : State) (fs : List Nat) : Option Cause := (fs.find? (fun n => !s.feature s.thr.ctx n)).map tFeature

/-- The check of the mode of a parcel that rounds (R155): a reserved code is T-ILL; stochastic rounding is a feature. -/
def State.modeCheck (mode : Nat) (s : State) : Option Cause :=
  if 5 ≤ mode then some (tIll 0) else if mode = 4 then s.lacks [6] else none

/-- The thread after a parcel's float elements. -/
def FSt.leave (st : FSt) (t : Thread) : Thread := { t.flags st.fl with rng := st.rng }

/-- The v registers of a group of n. -/
def vregs (r : Reg) (n : Nat) : List Nat := (upto n).map (r.toNat + ·)

/-- A parcel's view of the registers it found (R154): groups of vs1, vs2 and vd, the mask, and the scalar of S. -/
structure VIn where
  a : Nat
  b : Nat
  d : Nat
  m : Word
  x : Nat
  deriving DecidableEq, Repr

/-- Reads the sources of a parcel; `ws` holds x(vs2) when S is 1. -/
def Thread.vin (t : Thread) (p : VArgs) (ws : List Word) : VIn :=
  let n := p.grp.n
  { a := t.rvg p.vs1.toNat n, b := t.rvg p.vs2.toNat n, d := t.rvg p.vd.toNat n, m := t.rk p.mask.toNat,
    x := (ws.getD 0 0).toNat }

/-- Element i of the second source (R153). -/
def VIn.src2 (v : VIn) (p : VArgs) (w i : Nat) : Nat := if p.s then v.x % 2 ^ w else elem w v.b i

/-- Elements of width w in a parcel (R151). -/
def vcount (p : VArgs) (w : Nat) : Nat := 512 * p.grp.n / w

/-- A parcel of two sources that writes vd. -/
def vop (p : VArgs) (ok : Bool) (run : List Word → State → Acc Out) : TOp :=
  { xs := if p.s then [p.vs2] else [], wf := ok, beats := p.grp.n
    vs := vregs p.vs1 p.grp.n ++ (if p.s then [] else vregs p.vs2 p.grp.n) ++ vregs p.vd p.grp.n, run := run }

/-- Writes the elements of vd. -/
def Thread.putElems (t : Thread) (p : VArgs) (w : Nat) (es : List Nat) : Thread := t.wvg p.vd.toNat p.grp.n (ofElems w es)

/-- An integer parcel: `f` computes an element from the two sources. -/
def intOp (p : VArgs) (ok : Bool) (f : Nat → Nat → Nat) : TOp :=
  let w := intWidth p.ty
  let n := vcount p w
  vop p ok (fun ws s =>
    let v := s.thr.vin p ws
    let es := vMap (active v.m n) (elem w v.d) (fun i => f (elem w v.a i) (v.src2 p w i) % 2 ^ w) n
    .ok {} (s.onThr (fun t => t.putElems p w es)))

/-- A float parcel: `f` computes an element from the mode, the draw, the two sources and the old destination. `rounds` says
whether its operation is among those of R155. -/
def fltOp (p : VArgs) (ok rounds : Bool) (f : FFmt → Nat → Nat → Nat → Nat → Nat → FRes) : TOp :=
  let w := fltWidth p.ty
  let n := vcount p w
  vop p ok (fun ws s =>
    let t := s.thr
    (Acc.check (if rounds then s.modeCheck t.rm else none) s).bind (fun _ s =>
      let v := t.vin p ws
      let (es, st) := vEach (active v.m n) (elem w v.d)
        (fun i => FSt.step (laneOf w i) (fun r => f (fltOf p.ty) t.rm r (elem w v.a i) (v.src2 p w i) (elem w v.d i)))
        (upto n) { rng := t.rng }
      .ok {} (s.onThr (fun t => st.leave (t.putElems p w es)))))

/-- A comparison parcel (R157): `f` gives an element's condition and its flags. -/
def cmpOp (p : VArgs) (ok : Bool) (w : Nat) (f : Nat → Nat → Bool × Flags) : TOp :=
  let n := vcount p w
  { vop p ok (fun ws s =>
      let v := s.thr.vin p ws
      let rs := (upto n).map (fun i => if active v.m n i then f (elem w v.a i) (v.src2 p w i) else (false, 0))
      let k := ofElems 1 (rs.map (fun r => if r.1 then 1 else 0))
      .ok {} (s.onThr (fun t =>
        (t.flags (rs.foldl (fun a r => a ||| r.2) 0)).wk (p.vd.toNat % 8) (BitVec.ofNat 64 k))))
    with vs := vregs p.vs1 p.grp.n ++ (if p.s then [] else vregs p.vs2 p.grp.n) }

/-- A condition of R157 from an order, whether the operands are unordered aside. -/
def condOf (cond : Nat) (lt eq : Bool) : Bool :=
  match cond with
  | 0 => eq
  | 1 => !eq
  | 2 => lt
  | 3 => lt || eq
  | 4 => !(lt || eq)
  | _ => !lt

/-- A float condition and its flags (R157). -/
def fltCond (f : FFmt) (cond a b : Nat) : Bool × Flags :=
  let x := f.decode a
  let y := f.decode b
  let nan := x.isNan || y.isNan
  let ordered := decide (2 ≤ cond ∧ cond ≤ 5)
  let nv : Flags := if x.isSig || y.isSig || (nan && ordered) then flNV else 0
  let c := FVal.cmp x y
  (match cond with
    | 6 => !nan
    | 7 => nan
    | 1 => nan || c != 0
    | _ => !nan && condOf cond (decide (c < 0)) (c == 0), nv)

end Sys2Proof.Machine
end

