-- ==== Sys2Proof/Machine/Vector.lean ====
section
/-! DEFINITION. The V-parcels but for the special functions (05, R156 to R173). -/

namespace Sys2Proof.Machine
open Sys2Proof

/-! Shared element functions. -/

/-- A signed type of R92. -/
def tySigned (ty : BitVec 3) : Bool := decide (ty.toNat < 4)
/-- An element as the integer its type gives it. -/
def elemInt (ty : BitVec 3) (a : Nat) : Int := if tySigned ty then toSigned (intWidth ty) a else (a : Int)
/-- The smaller or the larger by type (R156). -/
def elemPick (ty : BitVec 3) (isMax : Bool) (a b : Nat) : Nat :=
  if decide (elemInt ty a < elemInt ty b) != isMax then a else b
/-- |a| by type (R156). -/
def elemAbs (ty : BitVec 3) (a : Nat) : Nat := ofInt (intWidth ty) ((elemInt ty a).natAbs : Int)
/-- Bits 2w − 1:w of a product by type (R156). -/
def elemHigh (ty : BitVec 3) (a b : Nat) : Nat :=
  ofInt (intWidth ty) (elemInt ty a * elemInt ty b / (2 ^ intWidth ty : Nat))
/-- A shift right that fills with the sign bit of width w (R156). -/
def elemSra (w a n : Nat) : Nat := ofInt w (toSigned w a / (2 ^ n : Nat))

/-! Reductions (R72, R164). -/

/-- The result of a reduction of a parcel: element 0 of register vd, zeros above. -/
def redOut (p : VArgs) (w v : Nat) (t : Thread) : Thread := t.wv p.vd.toNat (BitVec.ofNat 512 (v % 2 ^ w))

/-- A parcel of one source, with d registers named by vd. -/
def vop1 (p : VArgs) (ok : Bool) (d : Nat) (run : List Word → State → Acc Out) : TOp :=
  { vop p ok run with vs := vregs p.vs1 p.grp.n ++ vregs p.vd d }

/-- An integer reduction, exact modulo 2^w in any order (R72). -/
def redOp (p : VArgs) (ok : Bool) (ident : Nat) (f : Nat → Nat → Nat) : TOp :=
  let w := intWidth p.ty
  let n := vcount p w
  vop1 p ok 1 (fun ws s =>
    let v := s.thr.vin p ws
    let r := (upto n).foldl (fun acc i => if active v.m n i then f acc (elem w v.a i) % 2 ^ w else acc) ident
    .ok {} (s.onThr (redOut p w r)))

/-- Folds values onto a first one with f32 combinations that draw from one lane (R72). Log entry 22. -/
def redFold (mode lane : Nat) : FVal → List FVal → FSt → FVal × FSt
  | a, [], st => (a, st)
  | a, b :: t, st =>
    let (r, st) := st.step lane (fun d => f32.addV mode d a b false)
    redFold mode lane (f32.decode r) t st
/-- The combination of a lane's values. -/
def redLane (mode lane : Nat) (vs : List FVal) (st : FSt) : FVal × FSt :=
  match vs with
  | [] => (.fin true 0 0, st)
  | a :: t => redFold mode lane a t st

/-- One value for each lane of a list of lists, each with its own lane's draws (R72, steps 1 and 2). -/
def redLanes (mode : Nat) : List (Nat × List FVal) → FSt → List FVal × FSt
  | [], st => ([], st)
  | (l, vs) :: t, st =>
    let (v, st) := redLane mode l vs st
    let (r, st) := redLanes mode t st
    (v :: r, st)

/-- One level of the tree: neighbours combine, drawing from the lowest lane of the left side (R72, step 3).
Log entry 22. -/
def redLevel (mode span lane : Nat) : List FVal → FSt → List FVal × FSt
  | a :: b :: t, st =>
    let (r, st) := st.step lane (fun d => f32.addV mode d a b false)
    let (rs, st) := redLevel mode span (lane + 2 * span) t st
    (f32.decode r :: rs, st)
  | l, st => (l, st)

/-- vfred.add of the elements of a parcel as values, w bits wide, over g beats (R72). Log entry 22. -/
def fredSum (mode w g : Nat) (vals : Nat → FVal) (st : FSt) : FVal × FSt :=
  let per := 32 / w
  let lanes := upto 16
  -- step 1: each lane of each beat; step 2: lane i over the beats
  let one := lanes.flatMap (fun l => (upto g).map (fun b => (l, (upto per).map (fun e => vals (b * (512 / w) + l * per + e)))))
  let (xs, st) := redLanes mode one st
  let two := lanes.map (fun l => (l, (upto g).map (fun b => xs.getD (l * g + b) (.fin true 0 0))))
  let (l0, st) := redLanes mode two st
  let (l1, st) := redLevel mode 1 0 l0 st
  let (l2, st) := redLevel mode 2 0 l1 st
  let (l3, st) := redLevel mode 4 0 l2 st
  let (l4, st) := redLevel mode 8 0 l3 st
  (l4.getD 0 (.fin true 0 0), st)

/-! Conversions (R67, R159 to R161). -/

/-- The floating-point format of a conversion code (R93). -/
def cvtFlt (c : BitVec 4) : Option FFmt :=
  match c.toNat with
  | 8 => some f32
  | 9 => some bf16
  | 10 => some f16
  | 11 => some e4m3
  | 12 => some e5m2
  | 13 => some e2m1
  | _ => none

/-- Whether the pair's row of R67 takes a rounding mode (R93). -/
def cvtRounds (src dst : BitVec 4) : Bool :=
  match cvtFlt src, cvtFlt dst with
  | none, none => false
  | some f, some g => !(decide (f.fb ≤ g.fb) && (g.eb == 8 || (g.eb == 5 && f.eb ≤ 5)) && g.kind == .ieee)
  | _, _ => true

/-- One converted element (R67, R160, R161). -/
def cvtElem (src dst : BitVec 4) (fxw : Int) (mode r x : Nat) : FRes :=
  let intVal : Int := if src.toNat < 4 then toSigned (cvtWidth src) x else (x : Int)
  match cvtFlt src, cvtFlt dst with
  | some f, some g => g.convert mode r (f.decode x)
  | some f, none =>
    if dst.toNat = 15 then
      let (v, inx, rng, drew) := toFixed128 fxw mode r (f.decode x)
      ⟨v, (if inx then flNX else 0) ||| (if rng then flNV else 0), drew⟩
    else toIntRes (cvtWidth dst) (decide (dst.toNat < 4)) mode r (f.decode x)
  | none, some g => if src.toNat = 15 then ofFixed128 fxw mode r x else g.ofIntRes mode r intVal
  | none, none => ⟨ofInt (cvtWidth dst) intVal, 0, false⟩

/-! Vector memory (R167 to R169). -/

/-- A load that is one of several of its parcel. -/
def State.loadOnce (va n : Nat) (s : State) : Acc Nat :=
  (s.once (fun s => (s.load va n).bind (fun v s => .ok (BitVec.ofNat 64 v) s))).bind (fun v s => .ok v.toNat s)
/-- A store that is one of several of its parcel, where its check found that it lands. -/
def State.storeOnce (q : Req) (v : Nat) (l : Loc) (s : State) : Acc Unit :=
  (s.once (fun s => (s.storeAt q v l).bind (fun _ s => .ok 0 s))).bind (fun _ s => .ok () s)

/-- Loads the active elements at the addresses `va`, w bits each (R167). -/
def vLoads (act : Nat → Bool) (old va : Nat → Nat) (w n : Nat) (s : State) : Acc (List Nat) :=
  Acc.each (fun i s => if act i then s.loadOnce (va i) (w / 8) else .ok (old i) s) (upto n) s
/-- Clears the poison of the line of a, if the active elements write all of it (R343). Log entry 25. -/
def vWhole (act : Nat → Bool) (va : Nat → Nat) (w n a : Nat) (s : State) : State :=
  if s.poisoned = [] then s
  else if (upto 64).all (fun b => (upto n).any (fun i => let c := a / 64 * 64 + b; act i && decide (va i ≤ c ∧ c < va i + w / 8))) then
    s.wholeLine a
  else s
/-- Stores the active elements in ascending order (R167, R169). Every element is checked before one is stored (R80); those before one
that waits for room stand (R215). -/
def vStores (act : Nat → Bool) (val va : Nat → Nat) (w n : Nat) (s : State) : Acc (List Unit) :=
  let q (i : Nat) : Req := { va := va i, n := w / 8, al := w / 8, k := .store }
  (Acc.each (fun i s => (State.resolve (q i) (vWhole act va w n (va i) s)).bind (fun l s =>
      (s.farMay (q i) l).bind (fun _ s => .ok (i, l) s))) ((upto n).filter act) s).bind (fun ls s =>
    Acc.each (fun e s => s.storeOnce (q e.1) (val e.1) e.2) ls s)

/-- The x sources of a memory parcel: x(vs1) when it names a stride or offset, then the base. Where both are strands they pop in
this order: no rule orders the two (R29, R167), so the order is the model's choice, log entry 27. -/
def vmemXs (p : VArgs) (stride : Bool) : List Reg := if stride then [p.vs1, p.vs2] else [p.vs2]

/-- A vector load or store: `va` gives the address of an element from the base and the element of vs1 or the stride. -/
def vmemOp (p : VArgs) (ok isLoad indexed : Bool) : TOp :=
  let w := intWidth p.ty
  let n := vcount p w
  { xs := vmemXs p (!indexed), wf := ok, beats := p.grp.n
    vs := vregs p.vd p.grp.n ++ (if indexed then vregs p.vs1 p.grp.n else [])
    run := fun ws s =>
      let t := s.thr
      let v := t.vin p ws
      let base := (ws.getD (if indexed then 0 else 1) 0).toNat
      let stride : Int := if p.vs1 = 0 then ((w / 8 : Nat) : Int) else (ws.getD 0 0).toInt
      let va (i : Nat) : Nat :=
        if indexed then (base + elem w v.a i * (w / 8)) % 2 ^ 64 else ofInt 64 ((base : Int) + (i : Int) * stride)
      let act := active v.m n
      if isLoad then (vLoads act (elem w v.d) va w n s).bind (fun es s => .ok {} (s.onThr (fun t => t.putElems p w es)))
      else (vStores act (elem w v.d) va w n s).bind (fun _ s => .ok {} s) }

/-- The planes that a type field of vld.bp and vst.bp names (R92, R168); none when the parcel consults fmt, for PLANES or, a load,
for MIDPT, and fmt has a reserved bit set (R26), or a reserved PLANES that it takes. Log entry 58. -/
def bpPlanes (isLoad : Bool) (ty : BitVec 3) (fmt : Word) : Option Nat :=
  if (isLoad || ty == 7) && fmtReserved fmt then none
  else if ty.toNat < 7 then some (ty.toNat + 2)
  else if planesReserved (fmtPlanes fmt) then none
  else some (if fmtPlanes fmt = 0 then 8 else fmtPlanes fmt)

/-- One 8-byte unit of a plane run. -/
def State.planeLoad (va : Nat) (s : State) : Acc Nat := s.loadOnce va 8
/-- Writes the bits of `sel` in an 8-byte unit, merging the others (R168, R169). A unit at byte 56 of a staging line submits as an
8-byte element of a vst does: a choice of the model, log entry 12. -/
def State.planeStore (va bits sel : Nat) (s : State) : Acc Unit :=
  let q : Req := { va := va, n := 8, al := 8, k := .store }
  let put (v : Nat) (s : State) : Acc Unit := (s.resolve q).bind (fun l s => s.storeOnce q v l)
  if sel = 2 ^ 64 - 1 then put bits s
  else (s.planeLoad va).bind (fun old s => put (bits + (old - (old &&& sel))) s)

/-- The checks of a bp parcel before its accesses, then `f` with the base, the planes and e0 (R168). The feature comes before the
T-ILL of fmt and of e0: a choice of the model, log entry 21. -/
def bpOp (p : VArgs) (ok isLoad : Bool) (f : Nat → Nat → Nat → VIn → State → Acc Out) : TOp :=
  { xs := vmemXs p true, wf := ok, beats := p.grp.n, vs := vregs p.vd p.grp.n
    run := fun ws s =>
      let t := s.thr
      let e0 := if p.vs1 = 0 then 0 else (ws.getD 0 0).toNat
      let base := (ws.getD 1 0).toNat
      (Acc.check (s.lacks [2]) s).bind (fun _ s =>
        match bpPlanes isLoad p.ty t.fmt with
        | none => .trap (tIll 0)
        | some pl =>
          if e0 % (64 * p.grp.n) ≠ 0 ∨ 512 < e0 + 64 * p.grp.n then .trap (tIll (e0 % 2 ^ 32))
          else (Acc.check (canonCheck t.level base (if isLoad then 0 else 1)) s).bind (fun _ s =>
            if base % 64 ≠ 0 then .trap (tAlign (BitVec.ofNat 64 base)) else f base pl e0 (t.vin p ws) s)) }

/-- The address of unit u of plane j for the elements from e0. -/
def planeAt (base e0 u j : Nat) : Nat := (base + 64 * j + e0 / 8 + 8 * u) % 2 ^ 64
/-- The active bits of unit u. -/
def planeSel (m : Word) (n u : Nat) : Nat := if 64 < n then 2 ^ 64 - 1 else if u = 0 then m.toNat else 0

/-! Chains (R170 to R172). -/

/-- OP and SEL of a stage. -/
def chOp (d : Word) (st : Nat) : Nat := fld d (10 * st + 9) (10 * st + 6)
def chSel (d : Word) (st : Nat) : Nat := fld d (10 * st + 5) (10 * st + 4)
def chFlt (d : Word) : Bool := tbit d 63
def chTy (d : Word) : BitVec 3 := BitVec.ofNat 3 (fld d 62 60)

/-- A descriptor is valid (R170). -/
def chValid (d : Word) : Bool :=
  !(chFlt d && decide (3 ≤ (chTy d).toNat)) && chSel d 0 != 3 &&
  (upto 6).all (fun st => fld d (10 * st + 3) (10 * st) == 0 && chOp d st != 15
    && !(chFlt d && [9, 10, 11, 12, 13, 14].contains (chOp d st)))

/-- A chain whose float stages round (R155). -/
def chRounds (d : Word) : Bool := chFlt d && (upto 6).any (fun st => [1, 2, 3, 6].contains (chOp d st))

/-- A float stage (R170, R172). -/
def chFltStage (f : FFmt) (mode op r t b : Nat) : FRes :=
  let sign (flip : Bool) : FRes := match f.decode t with
    | .nan s => f.nanRes s
    | v => ⟨t % 2 ^ (f.w - 1) + (if flip && !v.neg? then 2 ^ (f.w - 1) else 0), 0, false⟩
  match op with
  | 1 => f.fadd mode r t b
  | 2 => f.fsub mode r t b
  | 3 => f.fmul mode r t b
  | 4 => f.fminmax false t b
  | 5 => f.fminmax true t b
  | 6 => f.fsub mode r b t
  | 7 => sign false
  | 8 => sign true
  | _ => ⟨t, 0, false⟩

/-- An integer stage (R170). -/
def chIntStage (ty : BitVec 3) (op t b : Nat) : Nat :=
  let w := intWidth ty
  (match op with
  | 1 => t + b
  | 2 => t + (2 ^ w - b)
  | 3 => t * b
  | 4 => elemPick ty false t b
  | 5 => elemPick ty true t b
  | 6 => b + (2 ^ w - t)
  | 7 => elemAbs ty t
  | 8 => 2 ^ w - t
  | 9 => t &&& b
  | 10 => t ||| b
  | 11 => t ^^^ b
  | 12 => t <<< (b % w)
  | 13 => t >>> (b % w)
  | 14 => elemSra w t (b % w)
  | _ => t) % 2 ^ w

/-- The stages of a chain from stage `st` on, for one element: `src` gives the operand of a SEL but that of stage 0. -/
def chRun (d : Word) (mode lane : Nat) (src : Nat → Nat) : List Nat → Nat → Nat → FSt → Nat × FSt
  | [], _, t, s => (t, s)
  | st :: r, t0, t, s =>
    let b := if chSel d st = 3 then t0 else src (chSel d st)
    let (v, s) := if chFlt d then s.step lane (fun x => chFltStage (fltOf (chTy d)) mode (chOp d st) x t b)
      else (chIntStage (chTy d) (chOp d st) t b, s)
    chRun d mode lane src r (if st = 0 then v else t0) v s

/-! The instructions. -/

/-- vadd (R156). -/
def opVadd (p : VArgs) : TOp := intOp p (Instr.vadd p).wf (fun a b => a + b)
/-- vadd (R156). -/
def execVadd (p : VArgs) (s : State) : Host.Outcome State Fault Refusal := issueOp (opVadd p) s
/-- vsub (R156). -/
def opVsub (p : VArgs) : TOp := intOp p (Instr.vsub p).wf (fun a b => a + (2 ^ intWidth p.ty - b))
/-- vsub (R156). -/
def execVsub (p : VArgs) (s : State) : Host.Outcome State Fault Refusal := issueOp (opVsub p) s
/-- vmul (R156). -/
def opVmul (p : VArgs) : TOp := intOp p (Instr.vmul p).wf (fun a b => a * b)
/-- vmul (R156). -/
def execVmul (p : VArgs) (s : State) : Host.Outcome State Fault Refusal := issueOp (opVmul p) s
/-- vmulh (R156). -/
def opVmulh (p : VArgs) : TOp := intOp p (Instr.vmulh p).wf (elemHigh p.ty)
/-- vmulh (R156). -/
def execVmulh (p : VArgs) (s : State) : Host.Outcome State Fault Refusal := issueOp (opVmulh p) s
/-- vmin (R156). -/
def opVmin (p : VArgs) : TOp := intOp p (Instr.vmin p).wf (elemPick p.ty false)
/-- vmin (R156). -/
def execVmin (p : VArgs) (s : State) : Host.Outcome State Fault Refusal := issueOp (opVmin p) s
/-- vmax (R156). -/
def opVmax (p : VArgs) : TOp := intOp p (Instr.vmax p).wf (elemPick p.ty true)
/-- vmax (R156). -/
def execVmax (p : VArgs) (s : State) : Host.Outcome State Fault Refusal := issueOp (opVmax p) s
/-- vabs (R156). -/
def opVabs (p : VArgs) : TOp := { intOp p (Instr.vabs p).wf (fun a _ => elemAbs p.ty a) with vs := vregs p.vs1 p.grp.n ++ vregs p.vd p.grp.n }
/-- vabs (R156). -/
def execVabs (p : VArgs) (s : State) : Host.Outcome State Fault Refusal := issueOp (opVabs p) s
/-- vneg (R156). -/
def opVneg (p : VArgs) : TOp := { intOp p (Instr.vneg p).wf (fun a _ => 2 ^ intWidth p.ty - a) with vs := vregs p.vs1 p.grp.n ++ vregs p.vd p.grp.n }
/-- vneg (R156). -/
def execVneg (p : VArgs) (s : State) : Host.Outcome State Fault Refusal := issueOp (opVneg p) s
/-- vand (R156). -/
def opVand (p : VArgs) : TOp := intOp p (Instr.vand p).wf (fun a b => a &&& b)
/-- vand (R156). -/
def execVand (p : VArgs) (s : State) : Host.Outcome State Fault Refusal := issueOp (opVand p) s
/-- vor (R156). -/
def opVor (p : VArgs) : TOp := intOp p (Instr.vor p).wf (fun a b => a ||| b)
/-- vor (R156). -/
def execVor (p : VArgs) (s : State) : Host.Outcome State Fault Refusal := issueOp (opVor p) s
/-- vxor (R156). -/
def opVxor (p : VArgs) : TOp := intOp p (Instr.vxor p).wf (fun a b => a ^^^ b)
/-- vxor (R156). -/
def execVxor (p : VArgs) (s : State) : Host.Outcome State Fault Refusal := issueOp (opVxor p) s
/-- vshl (R156). -/
def opVshl (p : VArgs) : TOp := intOp p (Instr.vshl p).wf (fun a b => a <<< (b % intWidth p.ty))
/-- vshl (R156). -/
def execVshl (p : VArgs) (s : State) : Host.Outcome State Fault Refusal := issueOp (opVshl p) s
/-- vshr (R156). -/
def opVshr (p : VArgs) : TOp := intOp p (Instr.vshr p).wf (fun a b => a >>> (b % intWidth p.ty))
/-- vshr (R156). -/
def execVshr (p : VArgs) (s : State) : Host.Outcome State Fault Refusal := issueOp (opVshr p) s
/-- vsra (R156). -/
def opVsra (p : VArgs) : TOp := intOp p (Instr.vsra p).wf (fun a b => elemSra (intWidth p.ty) a (b % intWidth p.ty))
/-- vsra (R156). -/
def execVsra (p : VArgs) (s : State) : Host.Outcome State Fault Refusal := issueOp (opVsra p) s
/-- vsel (R156). -/
def opVsel (p : VArgs) : TOp :=
  let w := intWidth p.ty
  let n := vcount p w
  vop p (Instr.vsel p).wf (fun ws s =>
    let v := s.thr.vin p ws
    let es := (upto n).map (fun i => if active v.m n i then elem w v.a i else v.src2 p w i)
    .ok {} (s.onThr (fun t => t.putElems p w es)))
/-- vsel (R156). -/
def execVsel (p : VArgs) (s : State) : Host.Outcome State Fault Refusal := issueOp (opVsel p) s
/-- vcmp (R157). -/
def opVcmp (cond : BitVec 3) (p : VArgs) : TOp :=
  cmpOp p (Instr.vcmp cond p).wf (intWidth p.ty) (fun a b =>
    (condOf cond.toNat (decide (elemInt p.ty a < elemInt p.ty b)) (a == b), 0))
/-- vcmp (R157). -/
def execVcmp (cond : BitVec 3) (p : VArgs) (s : State) : Host.Outcome State Fault Refusal := issueOp (opVcmp cond p) s
/-- vfadd (R158). -/
def opVfadd (p : VArgs) : TOp := fltOp p (Instr.vfadd p).wf true (fun f m r a b _ => f.fadd m r a b)
/-- vfadd (R158). -/
def execVfadd (p : VArgs) (s : State) : Host.Outcome State Fault Refusal := issueOp (opVfadd p) s
/-- vfsub (R158). -/
def opVfsub (p : VArgs) : TOp := fltOp p (Instr.vfsub p).wf true (fun f m r a b _ => f.fsub m r a b)
/-- vfsub (R158). -/
def execVfsub (p : VArgs) (s : State) : Host.Outcome State Fault Refusal := issueOp (opVfsub p) s
/-- vfmul (R158). -/
def opVfmul (p : VArgs) : TOp := fltOp p (Instr.vfmul p).wf true (fun f m r a b _ => f.fmul m r a b)
/-- vfmul (R158). -/
def execVfmul (p : VArgs) (s : State) : Host.Outcome State Fault Refusal := issueOp (opVfmul p) s
/-- vfma (R158). -/
def opVfma (p : VArgs) : TOp := fltOp p (Instr.vfma p).wf true (fun f m r a b c => f.fma m r a b c false)
/-- vfma (R158). -/
def execVfma (p : VArgs) (s : State) : Host.Outcome State Fault Refusal := issueOp (opVfma p) s
/-- vfms (R158). -/
def opVfms (p : VArgs) : TOp := fltOp p (Instr.vfms p).wf true (fun f m r a b c => f.fma m r a b c true)
/-- vfms (R158). -/
def execVfms (p : VArgs) (s : State) : Host.Outcome State Fault Refusal := issueOp (opVfms p) s
/-- vfmin (R158). -/
def opVfmin (p : VArgs) : TOp := fltOp p (Instr.vfmin p).wf false (fun f _ _ a b _ => f.fminmax false a b)
/-- vfmin (R158). -/
def execVfmin (p : VArgs) (s : State) : Host.Outcome State Fault Refusal := issueOp (opVfmin p) s
/-- vfmax (R158). -/
def opVfmax (p : VArgs) : TOp := fltOp p (Instr.vfmax p).wf false (fun f _ _ a b _ => f.fminmax true a b)
/-- vfmax (R158). -/
def execVfmax (p : VArgs) (s : State) : Host.Outcome State Fault Refusal := issueOp (opVfmax p) s
/-- vcvt (R159 to R161). -/
def opVcvt (p : VCvt) : TOp :=
  let ws := cvtWidth p.src
  let wd := cvtWidth p.dst
  let n := cvtN p
  { wf := (Instr.vcvt p).wf, beats := p.grp.n, vs := vregs p.vs1 (cvtSrcN p) ++ vregs p.vd p.grp.n
    run := fun _ s =>
      let t := s.thr
      let rounds := cvtRounds p.src p.dst
      let mode := if p.rnd = 7 then t.rm else p.rnd.toNat
      (Acc.check (s.lacks (if p.src = 13 ∨ p.dst = 13 then [3] else [])) s).bind (fun _ s =>
        (Acc.check (if rounds then s.modeCheck mode else none) s).bind (fun _ s =>
          let a := t.rvg p.vs1.toNat (cvtSrcN p)
          let d := t.rvg p.vd.toNat p.grp.n
          let (es, st) := vEach (active (t.rk p.mask.toNat) n) (elem wd d)
            (fun i => FSt.step (laneOf ws i) (fun r => cvtElem p.src p.dst t.fxw mode r (elem ws a i))) (upto n) { rng := t.rng }
          .ok {} (s.onThr (fun t => st.leave (t.wvg p.vd.toNat p.grp.n (ofElems wd es)))))) }
/-- vcvt (R159 to R161). -/
def execVcvt (p : VCvt) (s : State) : Host.Outcome State Fault Refusal := issueOp (opVcvt p) s
/-- vred.add (R72, R164). -/
def opVredAdd (p : VArgs) : TOp := redOp p (Instr.vredAdd p).wf 0 (fun a b => a + b)
/-- vred.add (R72, R164). -/
def execVredAdd (p : VArgs) (s : State) : Host.Outcome State Fault Refusal := issueOp (opVredAdd p) s
/-- vred.min (R72, R164). -/
def opVredMin (p : VArgs) : TOp :=
  redOp p (Instr.vredMin p).wf (if tySigned p.ty then 2 ^ (intWidth p.ty - 1) - 1 else 2 ^ intWidth p.ty - 1)
    (elemPick p.ty false)
/-- vred.min (R72, R164). -/
def execVredMin (p : VArgs) (s : State) : Host.Outcome State Fault Refusal := issueOp (opVredMin p) s
/-- vred.max (R72, R164). -/
def opVredMax (p : VArgs) : TOp :=
  redOp p (Instr.vredMax p).wf (if tySigned p.ty then 2 ^ (intWidth p.ty - 1) else 0) (elemPick p.ty true)
/-- vred.max (R72, R164). -/
def execVredMax (p : VArgs) (s : State) : Host.Outcome State Fault Refusal := issueOp (opVredMax p) s
/-- vfred.add (R72, R164). -/
def opVfredAdd (p : VArgs) : TOp :=
  let w := fltWidth p.ty
  let n := vcount p w
  let f := fltOf p.ty
  vop1 p (Instr.vfredAdd p).wf 1 (fun ws s =>
    let t := s.thr
    (Acc.check (s.modeCheck t.rm) s).bind (fun _ s =>
      let v := t.vin p ws
      let (r, st) := fredSum t.rm w p.grp.n (fun i => if active v.m n i then f.decode (elem w v.a i) else .fin true 0 0)
        { rng := t.rng }
      let (x, st) := st.step 0 (fun d => f.ofVal t.rm d r false)
      .ok {} (s.onThr (fun t => st.leave (redOut p w x t)))))
/-- vfred.add (R72, R164). -/
def execVfredAdd (p : VArgs) (s : State) : Host.Outcome State Fault Refusal := issueOp (opVfredAdd p) s
/-- vld (R167). -/
def opVld (p : VArgs) : TOp := vmemOp p (Instr.vld p).wf true false
/-- vld (R167). -/
def execVld (p : VArgs) (s : State) : Host.Outcome State Fault Refusal := issueOp (opVld p) s
/-- vst (R167). -/
def opVst (p : VArgs) : TOp := vmemOp p (Instr.vst p).wf false false
/-- vst (R167). -/
def execVst (p : VArgs) (s : State) : Host.Outcome State Fault Refusal := issueOp (opVst p) s
/-- vldx (R167). -/
def opVldx (p : VArgs) : TOp := vmemOp p (Instr.vldx p).wf true true
/-- vldx (R167). -/
def execVldx (p : VArgs) (s : State) : Host.Outcome State Fault Refusal := issueOp (opVldx p) s
/-- vstx (R167). -/
def opVstx (p : VArgs) : TOp := vmemOp p (Instr.vstx p).wf false true
/-- vstx (R167). -/
def execVstx (p : VArgs) (s : State) : Host.Outcome State Fault Refusal := issueOp (opVstx p) s
/-- vld.bp (R168). -/
def opVldBp (p : VArgs) : TOp :=
  bpOp p (Instr.vldBp p).wf true (fun base pl e0 v s =>
    let n := 64 * p.grp.n
    let t := s.thr
    (Acc.each (fun u s => if planeSel v.m n u = 0 then .ok [] s
        else Acc.each (fun j s => s.planeLoad (planeAt base e0 u j)) (upto pl) s) (upto p.grp.n) s).bind (fun us s =>
      let q (i : Nat) : Nat := (upto pl).foldl (fun x j =>
        x + ((us.getD (i / 64) []).getD j 0) / 2 ^ (i % 64) % 2 * 2 ^ (7 - j)) 0
      let es := vMap (active v.m n) (elem 8 v.d) (fun i => ofInt 8 (bpnValue pl (fmtMidpt t.fmt) (toSigned 8 (q i)))) n
      .ok {} (s.onThr (fun t => t.putElems p 8 es))))
/-- vld.bp (R168). -/
def execVldBp (p : VArgs) (s : State) : Host.Outcome State Fault Refusal := issueOp (opVldBp p) s
/-- vst.bp (R168). -/
def opVstBp (p : VArgs) : TOp :=
  bpOp p (Instr.vstBp p).wf false (fun base pl e0 v s =>
    let n := 64 * p.grp.n
    (Acc.each (fun u s =>
        let sel := planeSel v.m n u
        if sel = 0 then .ok [] s
        else Acc.each (fun j s =>
          let bits := ofElems 1 ((upto 64).map (fun i => elem 8 v.d (64 * u + i) / 2 ^ (7 - j) % 2))
          s.planeStore (planeAt base e0 u j) (bits &&& sel) sel) (upto pl) s) (upto p.grp.n) s).bind (fun _ s => .ok {} s))
/-- vst.bp (R168). -/
def execVstBp (p : VArgs) (s : State) : Host.Outcome State Fault Refusal := issueOp (opVstBp p) s
/-- vfcmp (R157). -/
def opVfcmp (cond : BitVec 3) (p : VArgs) : TOp :=
  cmpOp p (Instr.vfcmp cond p).wf (fltWidth p.ty) (fltCond (fltOf p.ty) cond.toNat)
/-- vfcmp (R157). -/
def execVfcmp (cond : BitVec 3) (p : VArgs) (s : State) : Host.Outcome State Fault Refusal := issueOp (opVfcmp cond p) s
/-- vperm (R165). -/
def opVperm (p : VArgs) : TOp :=
  let w := intWidth p.ty
  let n := vcount p w
  vop p (Instr.vperm p).wf (fun ws s =>
    let v := s.thr.vin p ws
    let es := vMap (active v.m n) (elem w v.d) (fun i => elem w v.a ((if p.s then v.x else elem w v.b i) % n)) n
    .ok {} (s.onThr (fun t => t.putElems p w es)))
/-- vperm (R165). -/
def execVperm (p : VArgs) (s : State) : Host.Outcome State Fault Refusal := issueOp (opVperm p) s
/-- vrot (R165). -/
def opVrot (p : VArgs) : TOp :=
  let w := intWidth p.ty
  let n := vcount p w
  { vop p (Instr.vrot p).wf (fun ws s =>
      let v := s.thr.vin p ws
      let es := vMap (active v.m n) (elem w v.d) (fun i => elem w v.a ((i + (if p.s then v.x else p.vs2.toNat)) % n)) n
      .ok {} (s.onThr (fun t => t.putElems p w es)))
    with vs := vregs p.vs1 1 ++ vregs p.vd 1 }
/-- vrot (R165). -/
def execVrot (p : VArgs) (s : State) : Host.Outcome State Fault Refusal := issueOp (opVrot p) s
/-- vshuf (R165). -/
def opVshuf (p : VArgs) : TOp :=
  let w := intWidth p.ty
  let n := vcount p w
  vop p (Instr.vshuf p).wf (fun ws s =>
    let v := s.thr.vin p ws
    let es := vMap (active v.m n) (elem w v.d) (fun i => elem w (if i % 2 = 0 then v.a else v.b) (i / 2)) n
    .ok {} (s.onThr (fun t => t.putElems p w es)))
/-- vshuf (R165). -/
def execVshuf (p : VArgs) (s : State) : Host.Outcome State Fault Refusal := issueOp (opVshuf p) s
/-- vbcast (R165). -/
def opVbcast (p : VArgs) : TOp :=
  let w := intWidth p.ty
  let n := vcount p w
  { vop p (Instr.vbcast p).wf (fun ws s =>
      let v := s.thr.vin p ws
      let es := vMap (active v.m n) (elem w v.d) (fun _ => elem w v.a ((if p.s then v.x else p.vs2.toNat) % n)) n
      .ok {} (s.onThr (fun t => t.putElems p w es)))
    with vs := vregs p.vs1 1 ++ vregs p.vd 1 }
/-- vbcast (R165). -/
def execVbcast (p : VArgs) (s : State) : Host.Outcome State Fault Refusal := issueOp (opVbcast p) s
/-- vslide (R165). -/
def opVslide (p : VArgs) : TOp :=
  let w := intWidth p.ty
  let n := vcount p w
  { vop p (Instr.vslide p).wf (fun ws s =>
      let v := s.thr.vin p ws
      let es := vMap (active v.m n) (elem w v.d) (fun i => 
        let j : Int := (i : Int) + (if p.s then toSigned 64 v.x else toSigned 5 p.vs2.toNat)
        if 0 ≤ j ∧ j < (n : Int) then elem w v.a j.toNat else 0) n
      .ok {} (s.onThr (fun t => t.putElems p w es)))
    with vs := vregs p.vs1 1 ++ vregs p.vd 1 }
/-- vslide (R165). -/
def execVslide (p : VArgs) (s : State) : Host.Outcome State Fault Refusal := issueOp (opVslide p) s
/-- vmv.vx (R166). -/
def opVmvVx (p : VArgs) : TOp :=
  let w := intWidth p.ty
  let n := vcount p w
  { vop p (Instr.vmvVx p).wf (fun ws s =>
      let v := s.thr.vin p ws
      let es := vMap (active v.m n) (elem w v.d) (fun _ => v.x % 2 ^ w) n
      .ok {} (s.onThr (fun t => t.putElems p w es)))
    with vs := vregs p.vd 1 }
/-- vmv.vx (R166). -/
def execVmvVx (p : VArgs) (s : State) : Host.Outcome State Fault Refusal := issueOp (opVmvVx p) s
/-- An element as a register value, extended by type (R166). -/
def elemWord (ty : BitVec 3) (v : Nat) : Word := BitVec.ofInt 64 (elemInt ty v)

/-- vmv.xv (R166). -/
def opVmvXv (p : VArgs) : TOp :=
  { xd := [p.vd], wf := (Instr.vmvXv p).wf, vs := vregs p.vs1 1
    run := fun _ s => .ok { ws := [(p.vd, elemWord p.ty (elem (intWidth p.ty) (s.thr.rv p.vs1.toNat).toNat 0))] } s }
/-- vmv.xv (R166). -/
def execVmvXv (p : VArgs) (s : State) : Host.Outcome State Fault Refusal := issueOp (opVmvXv p) s
/-- vins (R166). -/
def opVins (p : VArgs) : TOp :=
  let w := intWidth p.ty
  let n := vcount p w
  { vop p (Instr.vins p).wf (fun ws s =>
      let v := s.thr.vin p ws
      let es := (upto n).map (fun i => if i = p.vs1.toNat then v.x % 2 ^ w else elem w v.d i)
      .ok {} (s.onThr (fun t => t.putElems p w es)))
    with vs := vregs p.vd 1 }
/-- vins (R166). -/
def execVins (p : VArgs) (s : State) : Host.Outcome State Fault Refusal := issueOp (opVins p) s
/-- vext (R166). -/
def opVext (p : VArgs) : TOp :=
  let w := intWidth p.ty
  { xs := if p.s then [p.vs2] else [], xd := [p.vd], wf := (Instr.vext p).wf, vs := vregs p.vs1 1
    run := fun ws s =>
      let j := if p.s then (ws.getD 0 0).toNat % (512 / w) else p.vs2.toNat
      .ok { ws := [(p.vd, elemWord p.ty (elem w (s.thr.rv p.vs1.toNat).toNat j))] } s }
/-- vext (R166). -/
def execVext (p : VArgs) (s : State) : Host.Outcome State Fault Refusal := issueOp (opVext p) s
/-- vpack (R162). -/
def opVpack (p : VArgs) : TOp :=
  let w := intWidth p.ty
  let n := vcount p w
  vop p (Instr.vpack p).wf (fun ws s =>
    let v := s.thr.vin p ws
    let sat (x : Nat) : Nat :=
      if tySigned p.ty then
        let i := toSigned (2 * w) x
        ofInt w (min (max i (-(2 ^ (w - 1) : Nat))) ((2 ^ (w - 1) : Nat) - 1))
      else min x (2 ^ w - 1)
    let es := vMap (active v.m n) (elem w v.d)
      (fun i => sat (if i < n / 2 then elem (2 * w) v.a i else elem (2 * w) v.b (i - n / 2))) n
    .ok {} (s.onThr (fun t => t.putElems p w es)))
/-- vpack (R162). -/
def execVpack (p : VArgs) (s : State) : Host.Outcome State Fault Refusal := issueOp (opVpack p) s
/-- vunpack (R163). -/
def opVunpack (p : VArgs) : TOp :=
  let w := intWidth p.ty
  let n := 256 / w
  { vop p (Instr.vunpack p).wf (fun ws s =>
      let v := s.thr.vin p ws
      let es := vMap (active v.m n) (elem (2 * w) v.d)
        (fun i => ofInt (2 * w) (elemInt p.ty (elem w v.a (p.vs2.toNat % 2 * n + i)))) n
      .ok {} (s.onThr (fun t => t.putElems p (2 * w) es)))
    with vs := vregs p.vs1 1 ++ vregs p.vd 1 }
/-- vunpack (R163). -/
def execVunpack (p : VArgs) (s : State) : Host.Outcome State Fault Refusal := issueOp (opVunpack p) s
/-- vchn (R171). -/
def opVchn (kd : BitVec 3) (rs : Reg) : TOp :=
  { xs := [rs], wf := (Instr.vchn kd rs).wf
    run := fun ws s =>
      let d := ws.getD 0 0
      if chValid d then .ok {} (s.onThr (fun t => t.wk kd.toNat d)) else .trap (tIll 0) }
/-- vchn (R171). -/
def execVchn (kd : BitVec 3) (rs : Reg) (s : State) : Host.Outcome State Fault Refusal := issueOp (opVchn kd rs) s
/-- vx (R172). -/
def opVx (p : VArgs) : TOp :=
  { vop p (Instr.vx p).wf (fun ws s =>
      let t := s.thr
      let d := t.rk p.mask.toNat
      if !chValid d then .trap (tIll 0)
      else (Acc.check (if chRounds d then s.modeCheck t.rm else none) s).bind (fun _ s =>
        let w := if chFlt d then fltWidth (chTy d) else intWidth (chTy d)
        let v := t.vin p ws
        let (es, st) := vEach (fun _ => true) (fun _ => 0) (fun i =>
          chRun d t.rm (laneOf w i)
            (fun sel => if sel = 0 then elem w v.a i else if sel = 1 then v.src2 p w i else elem w v.d i)
            (upto 6) 0 (elem w v.a i)) (upto (512 / w)) { rng := t.rng }
        .ok {} (s.onThr (fun t => st.leave (t.putElems p w es)))))
    with beats := 1 }
/-- vx (R172). -/
def execVx (p : VArgs) (s : State) : Host.Outcome State Fault Refusal := issueOp (opVx p) s
/-- kand (R173). -/
def opKand (kd ka kb : BitVec 3) : TOp := { run := fun _ s => .ok {} (s.onThr (fun t => t.wk kd.toNat (t.rk ka.toNat &&& t.rk kb.toNat))) }
/-- kand (R173). -/
def execKand (kd ka kb : BitVec 3) (s : State) : Host.Outcome State Fault Refusal := issueOp (opKand kd ka kb) s
/-- kor (R173). -/
def opKor (kd ka kb : BitVec 3) : TOp := { run := fun _ s => .ok {} (s.onThr (fun t => t.wk kd.toNat (t.rk ka.toNat ||| t.rk kb.toNat))) }
/-- kor (R173). -/
def execKor (kd ka kb : BitVec 3) (s : State) : Host.Outcome State Fault Refusal := issueOp (opKor kd ka kb) s
/-- knot (R173). -/
def opKnot (kd ka : BitVec 3) : TOp := { run := fun _ s => .ok {} (s.onThr (fun t => t.wk kd.toNat (~~~(t.rk ka.toNat)))) }
/-- knot (R173). -/
def execKnot (kd ka : BitVec 3) (s : State) : Host.Outcome State Fault Refusal := issueOp (opKnot kd ka) s
/-- kpop (R173). -/
def opKpop (rd : Reg) (ka : BitVec 3) : TOp :=
  { xd := [rd]
    run := fun _ s => .ok { ws := [(rd, BitVec.ofNat 64 ((upto 64).filter (fun i => (s.thr.rk ka.toNat).getLsbD i)).length)] } s }
/-- kpop (R173). -/
def execKpop (rd : Reg) (ka : BitVec 3) (s : State) : Host.Outcome State Fault Refusal := issueOp (opKpop rd ka) s

end Sys2Proof.Machine
end

