-- ==== Sys2Proof/Machine/Sfu.lean ====
section
/-! DEFINITION. The special-function unit (05, R174, R175). The elementary functions are computed here to 448 fractional
bits: bf16 and f16 results are correctly rounded from them; an f32 result is a free value within the bound of R175 (log
entry 5). -/

namespace Sys2Proof.Machine
open Sys2Proof

/-- Fractional bits of the fixed-point arithmetic. -/
def sfP : Nat := 448
/-- ln 2 and π times 2^448, rounded down. -/
def sfLn2 : Nat :=
  0xb17217f7d1cf79abc9e3b39803f2f6af40f343267298b62d8a0d175b8baafa2be7b876206debac98559552fb4afa1b10ed2eae35c1382144
def sfPi : Nat :=
  0x3243f6a8885a308d313198a2e03707344a4093822299f31d0082efa98ec4e6c89452821e638d01377be5466cf34e90c6cc0ac29b7c97c50dd

/-- A real result ±m·2^e, exact or cut below its last bit. -/
structure RVal where
  neg : Bool
  m : Nat
  e : Int
  exact : Bool
  deriving DecidableEq, Repr

/-- The magnitude with a sticky bit below a cut. -/
def RVal.sticky (v : RVal) : Nat × Int := if v.exact then (v.m, v.e) else (2 * v.m + 1, v.e - 1)

/-- Sum of y^j/j! for the next n terms. -/
def expSum (y : Nat) : Nat → Nat → Nat → Nat → Nat
  | 0, _, _, acc => acc
  | n + 1, j, term, acc =>
    let t := term * y / 2 ^ sfP / j
    expSum y n (j + 1) t (acc + t)
/-- Sum of z^(2j+1)/(2j+1) for the next n terms, z2 the square. -/
def atanhSum (z2 : Nat) : Nat → Nat → Nat → Nat → Nat
  | 0, _, _, acc => acc
  | n + 1, k, term, acc => atanhSum z2 n (k + 2) (term * z2 / 2 ^ sfP) (acc + term / k)
/-- The alternating series of sine and cosine: next term from term over k(k + 1). -/
def trigSum (x2 : Nat) : Nat → Nat → Nat → Int → Int → Int
  | 0, _, _, _, acc => acc
  | n + 1, k, term, sg, acc =>
    let t := term * x2 / 2 ^ sfP / (k * (k + 1))
    trigSum x2 n (k + 2) t (-sg) (acc - sg * (t : Int))
/-- The integer square root, bit by bit from bit n down. -/
def isqrtGo (v : Nat) : Nat → Nat → Nat
  | 0, r => if (r + 1) * (r + 1) ≤ v then r + 1 else r
  | n + 1, r =>
    let c := r + 2 ^ (n + 1)
    isqrtGo v n (if c * c ≤ v then c else r)

/-- 2^a. -/
def rExp2 (neg : Bool) (m : Nat) (e : Int) : RVal :=
  let a : Int := if neg then -(m : Int) else m
  let k := (-e).toNat
  let a := if 0 ≤ e then a * ((2 ^ (min e.toNat 16) : Nat) : Int) else a
  let n := a / (2 ^ k : Nat)
  let fr := (a - n * (2 ^ k : Nat)).toNat
  let y := fr * 2 ^ sfP / 2 ^ k * sfLn2 / 2 ^ sfP
  let s := expSum y 120 1 (2 ^ sfP) (2 ^ sfP)
  let n := min (max n (-2000)) 2000
  ⟨false, s, n - sfP, decide (fr = 0)⟩
/-- log2 of m·2^e. -/
def rLog2 (m : Nat) (e : Int) : RVal :=
  let t := Nat.log2 m
  let k : Int := t + e
  if m = 2 ^ t then ⟨decide (k < 0), k.natAbs, 0, true⟩
  else
    let z := (m - 2 ^ t) * 2 ^ sfP / (m + 2 ^ t)
    let s := atanhSum (z * z / 2 ^ sfP) 160 1 z 0
    let v : Int := k * (2 ^ sfP : Nat) + (2 * s * 2 ^ sfP / sfLn2 : Nat)
    ⟨decide (v < 0), v.natAbs, -(sfP : Int), false⟩
/-- 1/(m·2^e). -/
def rRcp (neg : Bool) (m : Nat) (e : Int) : RVal := ⟨neg, 2 ^ sfP / m, -e - sfP, decide (2 ^ sfP % m = 0)⟩
/-- 1/√(m·2^e). -/
def rRsqrt (m : Nat) (e : Int) : RVal :=
  let (m, e) := if e % 2 = 0 then (m, e) else (2 * m, e - 1)
  let q := 2 ^ (2 * sfP) / m
  let r := isqrtGo q (sfP + 1) 0
  ⟨false, r, -(e / 2) - sfP, decide (r * r * m = 2 ^ (2 * sfP))⟩

/-- sin and cos of an angle in turns: the quadrant and the angle within an eighth turn pick a series and its signs. -/
def rTrig (cos neg : Bool) (m : Nat) (e : Int) : RVal :=
  let k := (-e).toNat
  let fr := if 0 ≤ e then 0 else m % 2 ^ k * 2 ^ sfP / 2 ^ k
  let q := fr * 4 / 2 ^ sfP
  let g := fr - q * 2 ^ sfP / 4
  -- beyond an eighth, the complement within the quadrant
  let far := decide (2 ^ sfP / 8 < g)
  let g' := if far then 2 ^ sfP / 4 - g else g
  let x := 2 * sfPi * g' / 2 ^ sfP
  let x2 := x * x / 2 ^ sfP
  let useSin := (cos == decide (q % 2 = 1)) != far
  let v : Int := if useSin then trigSum x2 90 2 x 1 x else trigSum x2 90 1 (2 ^ sfP) 1 (2 ^ sfP : Nat)
  let minus := if cos then q == 1 || q == 2 else decide (2 ≤ q) != neg
  ⟨minus, v.natAbs, -(sfP : Int), decide (g' = 0)⟩

/-- The result of a function at a finite operand that R175 lists no value for (R175). Log entry 5. -/
def sfReal (op : Nat) (neg : Bool) (m : Nat) (e : Int) : RVal :=
  match op with
  | 0 => rExp2 neg m e
  | 1 => rLog2 m e
  | 2 => rRcp neg m e
  | 3 => rRsqrt m e
  | 4 => rTrig false neg m e
  | _ => rTrig true neg m e

/-- Whether an f32 value ±n·2^c lies within k ulp of a real result. -/
def ulpsWithin (k : Nat) (v : RVal) (neg : Bool) (n : Nat) (c : Int) : Bool :=
  let (m, e) := v.sticky
  let u : Int := max ((Nat.log2 m : Int) + e - 23) (-149)
  let lo := min (min e c) u
  let a : Int := (m * 2 ^ (e - lo).toNat : Nat)
  let b : Int := (n * 2 ^ (c - lo).toNat : Nat)
  decide (((if v.neg then -a else a) - (if neg then -b else b)).natAbs ≤ k * 2 ^ (u - lo).toNat)

/-- An f32 result: the part's own, where it lies within the bound and no rule makes it exact; else rounded to nearest even
(R175). Log entry 5. -/
def sfF32 (op : Nat) (x : Nat) (v : RVal) : FRes :=
  let (m, e) := v.sticky
  let r := f32.round 0 0 v.neg m e
  let c := (Config.sfuF32 op (BitVec.ofNat 32 x)).toNat
  if (v.exact ∧ op < 4) ∨ v.m = 0 ∨ r.fl &&& flOF ≠ 0 then r
  else match f32.decode c with
    | .fin n mc ec =>
      if ulpsWithin (if 4 ≤ op then 2 else 1) v n mc ec then
        let same := v.exact && (addExact v.neg m e (!n) mc ec).1 == 0
        let uf := !same && mc != 0 && decide (mc < 2 ^ 23)
        ⟨c, (if same then 0 else flNX) ||| (if uf then flUF else 0), false⟩
      else r
    | _ => r

/-- A special function of an element (R175): op 0 to 5 are exp2, log2, rcp, rsqrt, sin and cos. Log entry 5. -/
def sfElem (f : FFmt) (op x : Nat) : FRes :=
  let one : Nat := f.bias * 2 ^ f.fb
  match f.decode x with
  | .nan s => f.nanRes s
  | .inf neg =>
    let nv : FRes := f.nanRes true
    match op, neg with
    | 0, false => ⟨f.infCode false, 0, false⟩
    | 0, true => ⟨0, 0, false⟩
    | 1, false => ⟨f.infCode false, 0, false⟩
    | 2, _ => ⟨f.signBit neg, 0, false⟩
    | 3, false => ⟨0, 0, false⟩
    | _, _ => nv
  | .fin neg 0 _ =>
    match op with
    | 0 | 5 => ⟨one, 0, false⟩
    | 1 => ⟨f.infCode true, flDZ, false⟩
    | 2 | 3 => ⟨f.infCode neg, flDZ, false⟩
    | _ => ⟨x, 0, false⟩
  | .fin neg m e =>
    if neg ∧ (op = 1 ∨ op = 3) then f.nanRes true
    else
      let v := sfReal op neg m e
      -- a zero of sine or cosine is +0
      if v.m = 0 ∧ v.exact then ⟨0, 0, false⟩
      else if f.w = 32 then sfF32 op x v
      else
        let (m, e) := v.sticky
        f.round 0 0 v.neg m e

/-- A special-function parcel (R174): the unit computes each active element; vd is pending until it lands. The flags are set
with the group (log entry 5). -/
def sfuOp (p : VArgs) (ok : Bool) (op : Nat) : TOp :=
  let w := fltWidth p.ty
  let n := 512 / w
  vop1 p ok 1 (fun ws s =>
    let v := s.thr.vin p ws
    let rs := (upto n).map (fun i => if active v.m n i then sfElem (fltOf p.ty) op (elem w v.a i) else ⟨0, 0, false⟩)
    let d := if 4 ≤ op ∧ w = 32 then 24 else 16
    let pend : SfuPend := {
      vd := p.vd, due := s.cycle + d, value := BitVec.ofNat 512 (ofElems w (rs.map (fun r => r.bits))), mask := v.m, width := w }
    let s := s.onThr (fun t => { t.flags (rs.foldl (fun a r => a ||| r.fl) 0) with sfu := t.sfu ++ [pend] })
    .ok {} (s.after d (.event .sfuResult (.unit s.cur))))

/-- SFU_RESULT (R174). -/
def execSfuResult (s : State) : Host.Outcome State Fault Refusal :=
  match s.ev with
  | .unit key => .next (if (Tab.find key s.threads).isSome then s.onThread key (Thread.sfuLand s.cycle) else s)
  | _ => .next s

/-- vexp2 (R174, R175). -/
def opVexp2 (p : VArgs) : TOp := sfuOp p (Instr.vexp2 p).wf 0
/-- vexp2 (R174, R175). -/
def execVexp2 (p : VArgs) (s : State) : Host.Outcome State Fault Refusal := issueOp (opVexp2 p) s
/-- vlog2 (R174, R175). -/
def opVlog2 (p : VArgs) : TOp := sfuOp p (Instr.vlog2 p).wf 1
/-- vlog2 (R174, R175). -/
def execVlog2 (p : VArgs) (s : State) : Host.Outcome State Fault Refusal := issueOp (opVlog2 p) s
/-- vrcp (R174, R175). -/
def opVrcp (p : VArgs) : TOp := sfuOp p (Instr.vrcp p).wf 2
/-- vrcp (R174, R175). -/
def execVrcp (p : VArgs) (s : State) : Host.Outcome State Fault Refusal := issueOp (opVrcp p) s
/-- vrsqrt (R174, R175). -/
def opVrsqrt (p : VArgs) : TOp := sfuOp p (Instr.vrsqrt p).wf 3
/-- vrsqrt (R174, R175). -/
def execVrsqrt (p : VArgs) (s : State) : Host.Outcome State Fault Refusal := issueOp (opVrsqrt p) s
/-- vsin (R174, R175). -/
def opVsin (p : VArgs) : TOp := sfuOp p (Instr.vsin p).wf 4
/-- vsin (R174, R175). -/
def execVsin (p : VArgs) (s : State) : Host.Outcome State Fault Refusal := issueOp (opVsin p) s
/-- vcos (R174, R175). -/
def opVcos (p : VArgs) : TOp := sfuOp p (Instr.vcos p).wf 5
/-- vcos (R174, R175). -/
def execVcos (p : VArgs) (s : State) : Host.Outcome State Fault Refusal := issueOp (opVcos p) s

end Sys2Proof.Machine
end

