-- ==== Sys2Proof/Machine/Records.lean ====
section
/-! DEFINITION. Work records on their way to a Hamper: their words, the checks of a send, the load of a cluster, and the
ends of units (04, R130 to R135; 12, R371, R380, R391). -/

namespace Sys2Proof.Machine
open Sys2Proof

/-! The fields of a record (R131, R132, R383). -/

def recCtx (w : Word) : BitVec 12 := BitVec.ofNat 12 (fld w 63 52)
def recOp (w : Word) : Nat := fld w 51 46
def recFmask (w : Word) : Nat := fld w 45 42
def recCls (w : Word) : Nat := fld w 41 39
def recLinger (w : Word) : Nat := fld w 38 31
def recWexp (w : Word) : Nat := fld w 30 23
def recCall (w : Word) : Nat := fld w 22 21
def recNfold (w : Word) : Nat := fld w 20 5
def recNslot (w : Word) : Nat := fld w 2 0
def recRvalid (w : Word) : Bool := tbit w 0

/-- Word 7 of a reply request (R132). -/
def replyTarget (gen : BitVec 16) (key : Nat) (r : Reg) (valid : Bool) : Word :=
  BitVec.ofNat 64 (gen.toNat * 2 ^ 48 + gspOf key * 2 ^ 30 + slotOf key * 2 ^ 26 + r.toNat * 2 ^ 21
    + (if valid then 1 else 0))
/-- The thread key that word 7 names. -/
def replyKey (w : Word) : Nat := fld w 39 30 * 16 + fld w 29 26
def replyReg (w : Word) : Reg := BitVec.ofNat 5 (fld w 25 21)
def replyGen (w : Word) : BitVec 16 := BitVec.ofNat 16 (fld w 63 48)

/-- The checks of a record image (R133): T-TAG, then T-ILL. -/
def recordCheck (ws : List Word) : Option Cause :=
  let p := ws.getD 1 0
  if tbit p 2 ∨ fld p 1 0 = 3 then some (tTag p)
  else if 0x0F < recOp (ws.getD 6 0) then some (tIll 0) else none

/-- The record that leaves: word 6 with CTX, CLASS capped and FLAGS 0, word 7 as given (R131, R133). -/
def State.recordWords (s : State) (c : BitVec 12) (ws : List Word) (w7 : Word) : List Word :=
  let w := ws.getD 6 0
  let w := setFld (setFld (setFld w 63 52 c.toNat) 22 0 0) 41 39 (min (recCls w) (s.prioCeil c))
  ws.take 6 ++ [w, w7]

/-- A call record (R123, R279): f, the resolved pointer, OP NONE, FLAGS.CALL. Log entry 37. -/
def State.callWords (s : State) (c : BitVec 12) (f ptr : Word) (cls call : Nat) (w7 : Word) : List Word :=
  [f, ptr, 0, 0, 0, 0,
   BitVec.ofNat 64 (c.toNat * 2 ^ 52 + min cls (s.prioCeil c) * 2 ^ 39 + call * 2 ^ 21), w7]

/-- A record leaves for the Hamper of a cluster; it arrives in the order of sending (R134). -/
def State.sendRecord (h : Nat) (r : HRecord) (s : State) : State :=
  s.onCluster h (fun c => { c with arrivals := c.arrivals ++ [r] })

/-! In-flight counts (R133, R281). Among senders, a thread stands as twice its own number, a region as twice its identifier
and one. -/

def threadSender (t : Thread) : Nat := 2 * t.uid
def regionSender (rid : Nat) : Nat := 2 * rid + 1

/-- A record of a sender is accepted, or a reply delivered: the count falls, in the save area for a saved thread (R45, R414),
and a waiting thread may issue again. -/
def State.flightEnd (sender : Nat) (s : State) : State :=
  if sender % 2 = 1 then s.onRegion (sender / 2) (fun r => { r with inflight := r.inflight - 1 })
  else match s.findThread (fun t => t.uid == sender / 2) with
    | none => s
    | some w =>
      let s := s.onAt w (fun t => { t with inflight := t.inflight - 1 })
      match w with
      | .inl _ => s.wakeRoom .records
      | .inr (_, e) => s.pwr8 (e.area + 2768) (BitVec.ofNat 64 (e.rest.inflight - 1))

/-! The load of a cluster (R391). -/

def State.busyOf (s : State) (rid : Nat) : Nat :=
  (s.threads.filter (fun (k, _) => ridOf k == rid)).length + (s.cluster rid).entries.length
/-- The first of a list with the least value. -/
def leastBy (f : Nat → Nat) : List Nat → Option Nat
  | [] => none
  | a :: t => match leastBy f t with
    | none => some a
    | some b => if f b < f a then some b else some a
/-- The least-loaded cluster of a die. Log entry 6. -/
def State.least (s : State) (d : Nat) : Nat := (leastBy s.busyOf (s.clustersOf d)).getD (24 * d)

/-- The Hamper that a physical address is affine to (R130). -/
def State.affine (s : State) (die : Nat) (pa : Nat) : Nat :=
  match s.placeMem (s.place pa) with
  | some o => s.home o
  | none => s.least die

/-! Ends of units (R369, R371, R376). -/

/-- A unit has ended: its launch counts it, or its Itinerary node is done. -/
def State.unitEnd (u : UnitRef) (s : State) : State :=
  match u with
  | .none => s
  | .launch n => match Tab.find n s.launches with
    | none => s
    | some l => { s with launches := s.launches.put n { l with left := l.left - 1 } }
  | .itin n node firing => s.later (.event .itinNodeDone (.pair n (node * 2 ^ 32 + firing)))

end Sys2Proof.Machine
end

