-- ==== Sys2Proof/Machine/Region.lean ====
section
/-! DEFINITION. A Whorl region's own work (08; 01, R31 to R34; 03, R94 to R101; 13, R413 to R418): images, ports, memory,
tokens, cuts, commits, faults, and the start and end of frames. -/

namespace Sys2Proof.Machine
open Sys2Proof

/-! Images (R94 to R97). -/

/-- Opcode and fields of a node word, if its opcode is allocated. -/
def nodeWordOf (w : Word) : Option (Nat × NodeWord) := (decodeNode w).bind Instr.node?
/-- Node i of the placed image. -/
def Region.node (r : Region) (i : Nat) : Option (Nat × NodeWord) := (r.nodes[i]?).bind nodeWordOf
/-- First node and node count of configuration j of a header (R94). -/
def cfgEntry (h : List Word) (j : Nat) : Nat × Nat :=
  let e := fld (h.getD (2 + j / 4) 0) (16 * (j % 4) + 15) (16 * (j % 4))
  (e % 256, e / 256 + 1)
def imgNcfg (h : List Word) : Nat := fld (h.getD 0 0) 27 24
def imgNnode (h : List Word) : Nat := fld (h.getD 0 0) 23 16 + 1
def imgNarg (h : List Word) : Nat := fld (h.getD 0 0) 35 32
def imgNres (h : List Word) : Nat := fld (h.getD 0 0) 39 36
/-- Whether node i belongs to configuration j. -/
def inCfg (h : List Word) (j i : Nat) : Bool :=
  let (a, n) := cfgEntry h j
  decide (a ≤ i ∧ i < a + n)
/-- The data ports of a node and the class of each, 0 word, 1 digit, 2 control (R247, R254 to R283). -/
def dataPorts (opc : Nat) (n : NodeWord) : List (Nat × Nat) :=
  let c := n.cls.toNat
  match opc with
  | 0x0D | 0x12 => [(0, 0), (1, 0), (2, 0)]
  | 0x13 | 0x1C | 0x28 | 0x29 | 0x38 | 0x39 | 0x41 => [(0, 0)]
  | 0x18 | 0x19 | 0x1A => [(0, 1), (1, 1)]
  | 0x1B => [(0, 1)]
  | 0x20 | 0x23 => [(0, c), (1, 0)]
  | 0x21 => [(0, c), (1, c), (2, 0)]
  | 0x22 | 0x26 | 0x35 | 0x48 | 0x49 | 0x4A | 0x4B | 0x4C | 0x50 => [(0, c)]
  | 0x24 => (upto (n.imm.toNat % 4 + 1)).map (fun p => (p, c))
  | 0x30 => if n.imm.getLsbD 8 then [(0, 0), (1, 0), (2, 0)] else [(0, 0), (1, 0)]
  | 0x31 => if c = 0 then [(0, 0)] else [(0, 0), (1, 0)]
  | 0x34 => if n.imm.toNat / 16 % 16 = 9 then [(0, 0), (1, 0), (2, 0)] else [(0, 0), (1, 0)]
  | 0x42 => [(0, 0), (1, 0), (2, 0)]
  | 0x43 => [(0, 0), (2, 0)]
  | 0x40 => []
  | _ => [(0, 0), (1, 0)]
/-- The ports that a firing takes a token from (R246, R248, R281): port b of a constant, and of an hsend of MODE 10, is not
required. -/
def reqPorts (opc : Nat) (n : NodeWord) : List Nat :=
  let ps := (dataPorts opc n).map (·.1)
  if n.immb || (opc == 0x44 && n.imm.toNat % 4 == 2) then ps.filter (· != 1) else ps
/-- Nodes whose state stands on port d (R260 to R274). -/
def hasState (opc : Nat) : Bool := [0x25, 0x29, 0x30, 0x33, 0x38, 0x39].contains opc
def isMemEdge (opc : Nat) : Bool := decide (0x31 ≤ opc ∧ opc ≤ 0x35)
/-- The consumers of a node: node and port; fan has C and D too (R95, R258). -/
def consumers (opc : Nat) (n : NodeWord) : List (Nat × Nat) :=
  [(n.caNode.toNat, n.caPort.toNat), (n.cbNode.toNat, n.cbPort.toNat)] ++
  (if opc = 0x22 then
    let i := n.imm.toNat
    [(i / 4 % 256, i % 4), (i / 4096 % 256, i / 1024 % 4)]
  else [])
/-- The consumer field 0x3FF (R95). -/
def noConsumer (c : Nat × Nat) : Bool := c == (255, 3)

/-- The header checks of R96. -/
def headerOk (h : List Word) : Bool :=
  let w := h.getD 0 0
  let n := imgNcfg h
  fld w 7 0 == 1 && fld w 63 40 == 0 && fld w 31 28 == 0 && fld w 15 8 == 0 && decide (imgNres h ≤ 4) && decide (imgNarg h ≤ 8)
    && h.getD 1 0 == 0 && h.getD 6 0 == 0 && h.getD 7 0 == 0
    && (upto (n + 1)).all (fun j =>
      decide ((cfgEntry h j).1 = if j = 0 then 0 else (cfgEntry h (j - 1)).1 + (cfgEntry h (j - 1)).2))
    && decide ((cfgEntry h n).1 + (cfgEntry h n).2 = imgNnode h)
    && (upto 16).all (fun j => decide (j ≤ n) || fld (h.getD (2 + j / 4) 0) (16 * (j % 4) + 15) (16 * (j % 4)) == 0)

/-- Whether node i is one that its image may place (R95, R96, R258, R263, R275, R276, R283). NCFG is the count of configurations minus 1
(R94), so the model takes a TARGET up to and including it. Log entry 33. -/
def nodePlaces (h : List Word) (ws : List Word) (i : Nat) : Bool :=
  match nodeWordOf (ws.getD i 0) with
  | none => false
  | some (opc, n) =>
    let imm := n.imm.toNat
    let lacks (c : Nat × Nat) : Bool :=
      if noConsumer c then false
      else if imgNnode h ≤ c.1 then true
      else match nodeWordOf (ws.getD c.1 0) with
        | none => false
        | some (o, m) => !((dataPorts o m).any (fun p => p.1 == c.2))
    nodeOk opc n && !(consumers opc n).any lacks
    && (opc != 0x40 || imm == 8 || decide (imm < imgNarg h))
    && (opc != 0x41 || imm / 16 % 2 == 1 || decide (imm % 4 < imgNres h))
    && (opc != 0x4C || decide (imm % 16 ≤ imgNcfg h))

/-- The tile that a node stands on: 0 a node tile, 1 an address generator, 2 a memory port (R96). -/
def tileKind (w : Word) : Nat :=
  match nodeWordOf w with
  | some (opc, _) => if opc = 0x30 then 1 else if isMemEdge opc then 2 else 0
  | none => 0
/-- The configuration of a node of the image. -/
def Region.cfgOf (r : Region) (n : Nat) : Nat := ((upto (imgNcfg r.header + 1)).find? (fun j => inCfg r.header j n)).getD 0
/-- The tile that a node stands on while its configuration is placed: one of the region's 48 node tiles, which the nodes of the
configuration fill in turn; a port tile; or an address generator (R1, R96, R262). Log entry 14. -/
def Region.tileOf (r : Region) (n : Nat) : Nat :=
  let w := r.nodes.getD n 0
  let before (t : Nat) : Nat :=
    ((upto n).filter (fun i => decide ((cfgEntry r.header (r.cfgOf n)).1 ≤ i) && tileKind (r.nodes.getD i 0) == t)).length
  match tileKind w with
  | 2 => 48 + fld w 2 0
  | 1 => 56 + before 1
  | _ => before 0 % 48
/-- Whether node i is placed: one of the current configuration, or, on a tile that has taken its node of the target configuration,
one of that (R284). -/
def Region.here (r : Region) (i : Nat) : Bool :=
  inCfg r.header (if r.taken.contains (r.tileOf i) then r.target.getD r.rpc else r.rpc) i
/-- Whether node i brings its configuration above a tile limit, or is the fifth of a port tile (R96, R262). -/
def tileOver (h : List Word) (ws : List Word) (i : Nat) : Bool :=
  let j := (upto (imgNcfg h + 1)).find? (fun j => inCfg h j i)
  let first := (cfgEntry h (j.getD 0)).1
  let before := (upto i).filter (fun k => decide (first ≤ k))
  let t := tileKind (ws.getD i 0)
  let n := (before.filter (fun k => tileKind (ws.getD k 0) == t)).length + 1
  let port (k : Nat) : Nat := match nodeWordOf (ws.getD k 0) with
    | some (_, m) => m.imm.toNat % 8
    | none => 8
  let same := (before.filter (fun k => tileKind (ws.getD k 0) == 2 && port k == port i)).length + 1
  (t == 0 && decide (192 < n)) || (t == 1 && decide (8 < n)) || (t == 2 && (decide (32 < n) || decide (4 < same)))

/-- The checks of R96 on a whole image: the cause of a rejection. Log entries 34, 56. -/
def imageCheck (h ws : List Word) : Option Cause :=
  if !headerOk h then some ⟨0, 1, 0xFFFFFFFF, false, 0⟩
  else ((upto (imgNnode h)).find? (fun i => !nodePlaces h ws i || tileOver h ws i)).map (fun i => ⟨0, 1, i, false, 0⟩)

/-- The node that a rejection names in its record: none for a header fault. -/
def rejectNode (c : Cause) : Nat := if c.info < 256 then c.info else 0

/-! Tokens (R98 to R101). -/

def Tok.route (t : Tok) : Word :=
  BitVec.ofNat 64 (t.tag.toNat * 2 ^ 16 + t.cls.toNat * 2 ^ 10 + t.port.toNat * 2 ^ 8 + t.node.toNat)
def tokOf (p r : Word) : Tok :=
  { pay := p, cls := BitVec.ofNat 2 (fld r 11 10), port := BitVec.ofNat 2 (fld r 9 8), node := BitVec.ofNat 8 (fld r 7 0),
    tag := BitVec.ofNat 16 (fld r 31 16) }
/-- An END token's payload; COUNT saturates (R100). -/
def endWord (level count : Nat) (mism : Bool) : Word :=
  BitVec.ofNat 64 (1 + (if mism then 16 else 0) + level % 256 * 256 + min count 0xFFFFFFFF * 2 ^ 32)
def ctlCode (p : Word) : Nat := fld p 3 0
/-- The payload of a control token as the device keeps and sends it: the fields of its opcode, and 0 (R100). -/
def ctlClean (p : Word) : Word :=
  match ctlCode p with
  | 1 => p &&& 0xFFFFFFFF0000FF1F
  | 2 => p &&& 0xFFFF000F
  | 5 => p &&& 0xFF
  | _ => p &&& 0xF
/-- A token as the device keeps it (R100). -/
def Tok.clean (t : Tok) : Tok := if t.cls = 2 then { t with pay := ctlClean t.pay } else t
def endLevel (p : Word) : Nat := fld p 15 8
def endCount (p : Word) : Nat := fld p 63 32
def endMism (p : Word) : Bool := tbit p 4
/-- N of a digit group and whether it is the last (R99). -/
def digLast (p : Word) : Bool := tbit p 55
def digN (p : Word) : Nat := fld p 54 50
/-- A group that breaks R99, and one that holds a reserved digit (R59). -/
def digMalformed (p : Word) : Bool := decide (25 ≤ digN p) || (!digLast p && decide (digN p < 24))
def digReserved (p : Word) : Bool := (upto (digN p + 1)).any (fun k => fld p (49 - 2 * k) (48 - 2 * k) == 2)

/-! Frames. -/

def Region.ctxId (r : Region) : BitVec 12 := r.ctx.getD 0
def tagIdx (t : BitVec 16) : Nat := t.toNat % 256
def Frame.tag (f : Frame) (k : Nat) : BitVec 16 := BitVec.ofNat 16 (f.gen.toNat * 256 + k % 256)
def Region.frame (r : Region) (k : Nat) : Frame := r.frames.getD {} k
def State.onFrame (rid k : Nat) (f : Frame → Frame) (s : State) : State :=
  s.onRegion rid (fun r => { r with frames := r.frames.put k (f (r.frame k)) })
/-- Whether a tag names the frame that its entry holds, and that frame runs (R32). -/
def Region.runs (r : Region) (t : BitVec 16) : Bool :=
  let f := r.frame (tagIdx t)
  f.gen.toNat == t.toNat / 256 && (f.st == .live || f.st == .quiescent)
/-- Whether the tag's frame is faulted. -/
def Region.stopped (r : Region) (t : BitVec 16) : Bool :=
  let f := r.frame (tagIdx t)
  f.gen.toNat == t.toNat / 256 && f.st == .faulted

/-- The region, node and tag whose turn it is. -/
def State.rid (s : State) : Nat := s.curNode.1
def State.nodeIx (s : State) : Nat := s.curNode.2.1
def State.tag (s : State) : BitVec 16 := s.curNode.2.2
def State.reg (s : State) : Region := s.region s.rid
def State.frm (s : State) : Frame := s.reg.frame (tagIdx s.tag)
def State.onFrm (f : Frame → Frame) (s : State) : State := s.onFrame s.rid (tagIdx s.tag) f

/-! Memory (R262, R271). -/

/-- What an access of a region comes to. -/
inductive RTo where
  | at (l : Loc)
  | bad (c : Cause)
  | absent (entry : Nat) (pte : Word)
  | moving (entry : Nat)
  deriving DecidableEq, Repr

/-- The sequencer of a region takes its turn: node 255 under tag 0. -/
def State.sequencer (rid : Nat) (s : State) : State := { s with curNode := (rid, 255, 0) }

/-- Resolves an access of a region at the frame's level: steps 1 to 4 of R185. A page whose Read failed fails the access that
waited for it (R428). -/
def State.regionAt (via : Via) (c : BitVec 12) (q : Req) (s : State) : RTo × State :=
  let lvl := ctxLevel c
  let w := BitVec.ofNat 64 q.va
  match canonCheck lvl q.va q.k.code with
  | some e => (.bad e, s)
  | none =>
    if q.va % q.al ≠ 0 then (.bad (tAlign w), s)
    else if inWindow q.va then (.bad (tPerm 0x10 (infoNoWalk q.k.code) false w), s)
    else match s.translate c lvl via q.va q.n q.k with
    | (.bad e, s) => (.bad e, s)
    | (.absent e pte, s) =>
      let me : Nat × Nat × BitVec 16 := (e, s.nodeIx, s.tag)
      if s.reg.failed.contains me then
        (.bad (tPage 0x03 (infoNoWalk q.k.code) false w),
          s.onRegion s.rid (fun r => { r with failed := r.failed.filter (· != me) }))
      else (.absent e pte, s)
    | (.moving e, s) => (.moving e, s)
    | (.ok pa e, s) => match placeCheck (s.place pa) q with
      | some e => (.bad e, s)
      | none => (.at (s.locOf pa (pageOf lvl q.va e)), s)

/-- The node and frame whose turn it is, as one who waits for a page. -/
def State.waiter (s : State) : PWaiter := .port s.rid (BitVec.ofNat 8 s.nodeIx) s.tag

/-- A record of a frame event (R396): KIND 1 and 2 name the node at the image's address, and the frame. -/
def Region.record (r : Region) (rid k : Nat) (kind node : Nat) (c : Cause) : TrapRec :=
  let f := r.frame k
  { kind := kind, cause := c, loc := r.image + BitVec.ofNat 64 node, ftag := (f.tag k).toNat, unit := rid,
    level := (ctxLevel r.ctxId).code, ctx := r.ctxId, aux := if kind = 3 then 0 else f.cut }

/-- Forgets the answers that a page at another device failed for now: their accesses are sent again. -/
def Region.forget (r : Region) : Region :=
  { r with remote := r.remote.filter (fun e => match e.answer with
    | some (.page sub) => !(tPage sub 0 false 0).replay
    | _ => true) }
/-- Withholds the token of the node whose turn it is (R271, R416): a KIND 2 record for a failure, another walk after 1 µs,
and a drain at the limit. -/
def State.withhold (c : Cause) (page : Option Nat) (moving : Bool) (s : State) : State :=
  let rid := s.rid
  let s := s.onRegion rid Region.forget
  let node := BitVec.ofNat 8 s.nodeIx
  let tag := s.tag
  let x : EvArg := .pair (2 * rid) (s.nodeIx + 256 * tag.toNat)
  let retry (s : State) : State := if page.isSome then s else s.after 4000 (.event .portRewalk x)
  match s.reg.withheld.find? (fun w => w.node == node && w.tag == tag) with
  | some w =>
    let s := s.onRegion rid (fun r => { r with withheld := r.withheld.map (fun v =>
      if v.node = node ∧ v.tag = tag then { v with cause := c, page := page, moving := moving, again := false } else v) })
    let s := if w.moving ∧ !moving then s.after (max 1 (w.since + s.drainAc - s.cycle)) (.event .regionDrain x) else s
    retry (if page.isNone ∧ w.cause ≠ c then s.trapRecord (s.reg.record rid (tagIdx tag) 2 s.nodeIx c) else s)
  | none =>
    let s := s.onRegion rid (fun r => { r with withheld := r.withheld ++ [{
      node := node, tag := tag, since := s.cycle, cause := c, page := page, moving := moving }] })
    let s := if page.isNone then s.trapRecord (s.reg.record rid (tagIdx tag) 2 s.nodeIx c) else s
    retry (s.after s.drainAc (.event .regionDrain x))

/-- An access for the node or the sequencer whose turn it is: where it lands, or its failure. One that waits for its answer has
passed its checks. A page that is not resident or is migrating is waited for; with `node`, it withholds the token (R271). -/
def State.landAt (node : Bool) (via : Via) (c : BitVec 12) (q : Req) (s : State) : Acc (Except Cause Loc) :=
  let me := s.curNode
  let mark (e : Nat) (moving : Bool) (s : State) : State :=
    if node then s.withhold ⟨3, 3, 0, false, 0⟩ (some e) moving else s
  match s.reg.remote.find? (fun e => e.node == s.nodeIx && e.tag == s.tag && e.q == q) with
  | some e => .ok (.ok (.far e.place e.page)) s
  | none => match s.regionAt via c q with
    | (.at l, s) => .ok (.ok l) s
    | (.bad e, s) => .ok (.error e) s
    | (.absent e pte, _) => .hold (fun s =>
        let s : State := { s with curNode := me }
        (mark e false s).pageRequest s.waiter c q.va e pte)
    | (.moving e, _) => .hold (fun s =>
        let s : State := { s with curNode := me }
        (mark e true s).moveHold e s.waiter)
/-- A failure is a trap. -/
def Acc.orTrap {α : Type} (x : Acc (Except Cause α)) : Acc α :=
  x.bind (fun r s => match r with
    | .ok a => .ok a s
    | .error c => .trap c)
/-- An access of the node whose turn it is. -/
def State.nodeAt (via : Via) (q : Req) (s : State) : Acc Loc := (s.landAt true via s.reg.ctxId q).orTrap

/-- What the answer of another device, or of the host, to an access comes to (R434, R435). -/
def outcomeOf (a : Answer) (q : Req) (p : Place) : Except Cause (Word × Word) :=
  let w := BitVec.ofNat 64 q.va
  let dev := match p with
    | .remote d _ => d
    | _ => 0
  match a with
  | .done x y => .ok (x, y)
  | .data bs => .ok (BitVec.ofNat 64 (ofBytes (bs.take 8)), BitVec.ofNat 64 (ofBytes ((bs.drop 8).take 8)))
  | .refused => .error (tPerm 0x22 (farInfo q.k.code dev) false w)
  | .page sub => .error (tPage sub (farInfo q.k.code dev) false w)
  | _ => .error (tPage 0x13 (farInfo q.k.code dev) false w)

/-- The bytes of n from va that the frame's own stores in a port's buffer give a load there: those of the youngest (R266). -/
def State.ownBytes (p va n : Nat) (s : State) : List (Option Byte) :=
  let mine := ((s.reg.stores.getD [] p).filter (fun b => b.tag == s.tag)).reverse
  (upto n).map (fun i =>
    let a := (va + i) % 2 ^ 64
    (mine.find? (fun b => decide (b.addr.toNat ≤ a ∧ a < b.addr.toNat + b.data.length))).map (fun b =>
      b.data.getD (a - b.addr.toNat) 0))
/-- What the frame's own stores give a load of the node whose turn it is, at that node's port. -/
def State.ownFor (q : Req) (op : RemoteOp) (s : State) : List (Option Byte) :=
  match op, s.reg.node s.nodeIx with
  | .read n, some (opc, w) => if isMemEdge opc then s.ownBytes (w.imm.toNat % 8) q.va n else []
  | _, _ => []
/-- Sends an access of the node or the sequencer whose turn it is to where it is performed; a store of a commit with its port. -/
def State.nodeSend (frame : BitVec 16) (commit : Option Nat) (p : Place) (page : Nat × Nat) (op : RemoteOp) (q : Req) (c : BitVec 12)
    (s : State) : State :=
  let own := s.ownFor q op
  let (id, s) := s.farSend p page op s.waiter c
  s.onRegion s.rid (fun r => { r with remote := r.remote ++ [{
    node := s.nodeIx, tag := s.tag, frame := frame, id := id, q := q, place := p, page := page, op := op, own := own, commit := commit }] })
/-- The answer of an access that is performed elsewhere, for frame `frame`; until it has come the node, or the sequencer, waits. Each
is sent once (R287), and performed before what follows it (R320, R332). -/
def State.nodeFar (frame : BitVec 16) (p : Place) (page : Nat × Nat) (op : RemoteOp) (q : Req) (c : BitVec 12) (s : State) :
    Acc (Except Cause (Word × Word)) :=
  let me := s.curNode
  match s.reg.remote.find? (fun e => e.node == s.nodeIx && e.tag == s.tag && e.q == q && e.op == op) with
  | some e => match e.answer with
    | some a => .ok (outcomeOf a q p) (s.onRegion s.rid (fun r => { r with remote := r.remote.filter (fun x => x.id != e.id) }))
    | none => .hold id
  | none => .hold (fun s => State.nodeSend frame none p page op q c { s with curNode := me })

/-- Reads the n bytes, at most 8, of an access where it lands. -/
def State.regionGet (q : Req) (l : Loc) (c : BitVec 12) (s : State) : Acc (Except Cause Nat) :=
  match l with
  | .mem o => .ok (.ok (s.rd o q.n)) (s.dirTouch s.rid o false)
  | .reg p => let (v, s) := s.regRead p; .ok (.ok v.toNat) s
  | .far p u => (s.nodeFar s.tag p u (.read q.n) q c).bind (fun r s => .ok (r.map (fun x => x.1.toNat)) s)
  | _ => .ok (.ok 0) s
/-- Stores bytes where an access lands on this device. -/
def State.putHere (l : Loc) (bs : List Byte) (s : State) : State :=
  match l with
  | .mem o => (s.memStore o bs).dirTouch s.rid o true
  | .reg p => s.regWrite p (BitVec.ofNat 64 (ofBytes bs))
  | _ => s
/-- Stores bytes for a frame where an access lands. -/
def State.regionPut (frame : BitVec 16) (q : Req) (l : Loc) (c : BitVec 12) (bs : List Byte) (s : State) : Acc (Except Cause Unit) :=
  match l with
  | .far p u => (s.nodeFar frame p u (.write bs) q c).bind (fun r s => .ok (r.map (fun _ => ())) s)
  | _ => .ok (.ok ()) (s.putHere l bs)

/-- A load of n bytes of a node. -/
def loadReq (va n al : Nat) : Req := { va := va, n := n, al := al, k := .load, plain := decide (n = 8) }
/-- Reads n bytes for the node whose turn it is. -/
def State.nodeRead (via : Via) (va n al : Nat) (s : State) : Acc Nat :=
  let q := loadReq va n al
  (s.nodeAt via q).bind (fun l s => (s.regionGet q l s.reg.ctxId).orTrap)
def State.nodeRead8 (va : Nat) (s : State) : Acc Word :=
  (s.nodeRead (.cluster s.rid) (va % 2 ^ 64) 8 8).bind (fun v s => .ok (BitVec.ofNat 64 v) s)
/-- Reads consecutive words. -/
def State.nodeWords (va n : Nat) (s : State) : Acc (List Word) :=
  Acc.each (fun i s => s.nodeRead8 (va + 8 * i)) (upto n) s
/-- Writes a word for the node whose turn it is. -/
def State.nodeWrite8 (va : Nat) (v : Word) (s : State) : Acc Unit :=
  let q : Req := { va := va % 2 ^ 64, n := 8, al := 8, k := .store }
  (s.nodeAt (.cluster s.rid) q).bind (fun l s => (s.regionPut s.tag q l s.reg.ctxId (toBytes 8 v.toNat)).orTrap)
def State.nodeWriteWords (va : Nat) : List Word → State → Acc Unit
  | [], s => .ok () s
  | w :: t, s => (s.nodeWrite8 va w).bind (fun _ s => State.nodeWriteWords (va + 8) t s)

/-- A word that the device writes for a context beside a frame's own stores, and how that came out; it waits for a page, and for
the answer of another device. -/
def State.tryWrite8 (c : BitVec 12) (va : Nat) (v : Word) (s : State) : Acc (Except Cause Unit) :=
  let q : Req := { va := va % 2 ^ 64, n := 8, al := 8, k := .store }
  (s.landAt false (.cluster s.rid) c q).bind (fun r s => match r with
    | .ok l => s.regionPut s.tag q l c (toBytes 8 v.toNat)
    | .error e => .ok (.error e) s)
/-- A write that the device makes to the activation frame at f on a callee's behalf (R125): one that fails is skipped, with a
record of KIND 8. -/
def State.actWrite (rid : Nat) (c : BitVec 12) (f : Word) (va : Nat) (v : Word) (s : State) : Acc Unit :=
  (s.tryWrite8 c va v).bind (fun r s => match r with
    | .ok () => .ok () s
    | .error e => .ok () (s.trapRecord {
        kind := 8, cause := { e with tval := BitVec.ofNat 64 va }, loc := f, unit := rid, level := (ctxLevel c).code, ctx := c }))

/-! Commits and cuts (R266, R285 to R287). -/

/-- The buffered stores of a frame, port by port. -/
def Region.buffered (r : Region) (tag : BitVec 16) : List (Nat × BufStore) :=
  (upto 8).flatMap (fun p => ((r.stores.getD [] p).filter (fun b => b.tag == tag)).map (fun b => (p, b)))
/-- Drops the first n elements that satisfy a test. -/
def dropFirst {α : Type} (f : α → Bool) : Nat → List α → List α
  | 0, l => l
  | _, [] => []
  | n + 1, a :: t => if f a then dropFirst f n t else a :: dropFirst f (n + 1) t
/-- The oldest store of a frame at a port has been performed. -/
def Region.storeDone (r : Region) (p : Nat) (tag : BitVec 16) : Region :=
  { r with stores := r.stores.put p (dropFirst (fun b => b.tag == tag) 1 (r.stores.getD [] p)) }
/-- The access of a buffered store. -/
def BufStore.req (b : BufStore) : Req :=
  { va := b.addr.toNat, n := b.data.length, al := 1, k := .store, plain := decide (b.data.length = 8) }
/-- Discards the buffered stores of a frame. -/
def Region.unbuffer (r : Region) (tag : BitVec 16) : Region :=
  { r with stores := r.stores.map (fun (p, l) => (p, l.filter (fun b => b.tag != tag))) }
/-- Where each of the buffered stores lands. -/
def State.commitCheck (rid : Nat) (c : BitVec 12) (l : List (Nat × BufStore)) (s : State) : Acc (List Loc) :=
  Acc.each (fun (p, b) s => (s.landAt false (.port rid p) c b.req).orTrap) l s
/-- Performs buffered stores in order: each leaves its buffer when it is performed. One to another device is sent, and what stands
before it stays performed (`done`) while its answer is awaited. -/
def State.commitAll (rid : Nat) (c : BitVec 12) (done : State → State) : List ((Nat × BufStore) × Loc) → State → Acc Unit
  | [], s => .ok () s
  | ((p, b), .far dev page) :: _, s =>
    let me := s.curNode
    .hold (fun s => State.nodeSend b.tag (some p) dev page (.write b.data) b.req c { done s with curNode := me })
  | ((p, b), l) :: t, s =>
    let go (s : State) : State := (s.putHere l b.data).onRegion rid (fun r => r.storeDone p b.tag)
    State.commitAll rid c (fun s => go (done s)) t (go s)
/-- Commits the buffered stores of a frame (R285): every one is checked before the first is performed; a commit in course is awaited.
Log entry 35. -/
def State.commit (rid : Nat) (tag : BitVec 16) (s : State) : Acc Unit :=
  let r := s.region rid
  match r.remote.find? (fun e => e.commit.isSome && e.frame == tag) with
  | some e => match e.answer.map (fun a => outcomeOf a e.q e.place) with
    | some (.error c) => .trap c
    | _ => .hold id
  | none =>
    (s.commitCheck rid r.ctxId (r.buffered tag)).bind (fun ls s => s.commitAll rid r.ctxId id ((r.buffered tag).zip ls))

/-- Takes a place of n bytes in the region's save area (R418), taking a block from the pool for it when there is none or the
last is full, with no further block in its chain yet; it waits while the pool is empty. -/
def State.areaTake (rid n : Nat) (s : State) : Acc Nat :=
  let r := s.region rid
  let fresh (s : State) : Option (Nat × State) := (s.takeBlock r.ctxId).map (fun (b, s) =>
    (b, (s.pwr8 (b + 8) (BitVec.ofNat 64 (r.ctxId.toNat + 2 * 2 ^ 16))).pwr8 (b + 32) 0))
  match r.area with
  | none => match fresh s with
    | none => .hold (fun s => s.poolMet r.ctxId rid)
    | some (b, s) => .ok (b + 2 ^ 20) (s.onRegion rid (fun r => { r with area := some b, areaNext := b + 2 ^ 20 + n }))
  | some _ =>
    let b := (r.areaNext - 1) / 2 ^ 22 * 2 ^ 22
    if r.areaNext + n ≤ b + 2 ^ 22 then .ok r.areaNext (s.onRegion rid (fun r => { r with areaNext := r.areaNext + n }))
    else match fresh s with
      | none => .hold (fun s => s.poolMet r.ctxId rid)
      | some (c, s) =>
        .ok (c + 2 ^ 20) ((s.pwr8 (b + 32) (BitVec.ofNat 64 c)).onRegion rid (fun r => { r with areaNext := c + 2 ^ 20 + n }))

/-- The words of a cut record (R34). -/
def Frame.cutWords (f : Frame) (k : Nat) (image fault : Word) (toks : List Tok) : List Word :=
  [BitVec.ofNat 64 ((f.tag k).toNat + f.marks.toNat * 2 ^ 16 + toks.length % 65536 * 2 ^ 32), image, fault, 0]
    ++ toks.flatMap (fun t => [t.pay, t.route])
/-- Writes a frame's cut record at its cut pointer, or at a new place when it has none or the record does not fit its
allotment (R285, R418). Log entry 35. -/
def State.writeCut (rid k : Nat) (fault : Word) (toks : List Tok) (s : State) : Acc Unit :=
  let r := s.region rid
  let f := r.frame k
  let need := 32 + 16 * toks.length
  if f.cut ≠ 0 ∧ need ≤ f.allot then .ok () (s.pwrWords f.cut.toNat (f.cutWords k r.image fault toks))
  else
    let n := cdiv need 512 * 512
    (s.areaTake rid n).bind (fun a s =>
      .ok () ((s.onFrame rid k (fun f => { f with cut := BitVec.ofNat 64 a, allot := n })).pwrWords a
        (f.cutWords k r.image fault toks)))

/-- The tokens that a cut records (R285): those of the frame at ports and in the carry store, then each stateful node's
state words on port d. Log entry 35. -/
def Region.cutToks (r : Region) (k : Nat) : List Tok :=
  let f := r.frame k
  let tag := f.tag k
  (r.toks ++ r.carry).filter (fun t => t.tag == tag) ++
  f.nst.flatMap (fun (n, ws) => ws.map (fun w =>
    { pay := w, cls := 0, port := 3, node := BitVec.ofNat 8 n, tag := tag }))

/-- The fault word of a cut record (R34). -/
def faultWord (node : Option Nat) (c : Cause) : Word :=
  BitVec.ofNat 64 (c.info % 2 ^ 32 * 2 ^ 32 + c.sub % 256 * 2 ^ 24 + node.getD 0 % 256 * 2 ^ 16 + c.cls % 16 * 2 ^ 8
    + (if node.isNone then 2 else 0) + 1)

/-- Discards what the region holds of a frame: tokens, stores, withheld marks, answers under way. -/
def Region.purge (r : Region) (tag : BitVec 16) : Region :=
  let r := r.unbuffer tag
  { r with
    toks := r.toks.filter (fun t => t.tag != tag), carry := r.carry.filter (fun t => t.tag != tag),
    withheld := r.withheld.filter (fun w => w.tag != tag), remote := r.remote.filter (fun e => e.frame != tag)
    failed := r.failed.filter (fun e => e.2.2 != tag) }

/-- The tokens of a cut record (R34), as the device keeps them (R100). -/
def State.cutRead (s : State) (cut : Nat) : List Tok :=
  (upto (fld (s.prd8 cut) 47 32)).map (fun i => (tokOf (s.prd8 (cut + 32 + 16 * i)) (s.prd8 (cut + 40 + 16 * i))).clean)
/-- Adds tokens to a frame's cut record (R279). Log entry 35. -/
def State.cutAdd (rid k : Nat) (toks : List Tok) (s : State) : Acc Unit :=
  let cut := ((s.region rid).frame k).cut.toNat
  if toks = [] then .ok () s else s.writeCut rid k (s.prd8 (cut + 16)) (s.cutRead cut ++ toks)
/-- Copies a cut pointer that moved to word 3 of the activation frame (R285): none, or why the write failed, when the pointer
stands in the frame table only. -/
def State.cutPointer (rid k : Nat) (old : Word) (s : State) : Acc (Option Cause) :=
  let r := s.region rid
  let f := r.frame k
  match f.f with
  | none => .ok none s
  | some a =>
    if f.cut = old then .ok none s
    else (s.tryWrite8 r.ctxId (a.toNat + 24) f.cut).bind (fun e s => .ok (match e with
      | .ok () => none
      | .error c => some c) s)
/-- The completion token of a call (R279). -/
def CallRef.tok (c : CallRef) (tag : BitVec 16) : Tok := { pay := c.f, cls := 0, port := 3, node := c.node, tag := tag }

/-- Whether an atomic operation of the frame of a tag is out, or performed with its cut still to come (R269, R287): one for which
`f` holds. -/
def Region.rmwOut (r : Region) (tag : BitVec 16) (f : NodeFar → Bool) : Bool :=
  r.remote.any (fun e => e.frame == tag && f e && (match e.op, e.answer with
    | .amo _ _ _ _, none | .amo _ _ _ _, some (.done _ _) | .amo _ _ _ _, some (.data _) => true
    | _, _ => false))
/-- Whether something that the frame of a tag has sent out to be performed, and that no fault may repeat, is on its way, or performed
with its cut still to come (R287). -/
def State.frameOut (tag : BitVec 16) (s : State) : Bool :=
  s.reg.rmwOut tag (fun _ => true) || s.reg.remote.any (fun e => e.frame == tag && e.answer.isNone && (match e.op with
    | .read _ => false
    | _ => true))
/-- A frame faults (R288): its state, the fault word in its last cut record or in one made for it, RSTAT.FAULT, and a KIND 1
record. A completion that came after the last cut is held in the record, for the frame goes on from there. What the frame has
sent out is performed first, and cut (R287). Log entry 35. -/
def State.frameFault (rid k : Nat) (node : Option Nat) (c : Cause) (s : State) : Acc Unit :=
  let f := (s.region rid).frame k
  let late := (f.cutCalls.filter (fun c => !f.calls.contains c)).map (fun c => c.tok (f.tag k))
  if s.frameOut (f.tag k) then .hold id else
  (if !f.isCut then s.writeCut rid k 0 f.startToks else s.cutAdd rid k late).bind (fun _ s =>
    (s.cutPointer rid k f.cut).bind (fun _ s =>
    let cut := ((s.region rid).frame k).cut.toNat
    let s := s.pwr8 (cut + 16) (faultWord node c)
    let s := s.onFrame rid k (fun f => { f with
      st := .faulted, nst := [], counts := f.cutCounts, argsFired := if f.isCut then f.cutArgs else f.argsFired
      cutCalls := f.calls })
    let s := s.onRegion rid (fun r => { (r.purge (f.tag k)) with fault := true })
    let s := match f.caller with
      | .unit u => s.parkUnit u c
      | _ => s
    .ok () (s.trapRecord ((s.region rid).record rid k 1 (node.getD 0) c))))

/-- A cut of a frame (R285): commit, MARK count, record, and word 3 of the activation frame when the cut pointer moves. A
failure to write word 3 faults the frame at the end of the cut. A frame that does not run takes none; one with an atomic operation
in course waits for the cut of that. Log entry 35. -/
def State.cut (rid k : Nat) (s : State) : Acc Unit :=
  let f := (s.region rid).frame k
  if f.st ≠ .live ∧ f.st ≠ .quiescent then .ok () s else
  if (s.region rid).rmwOut (f.tag k) (fun _ => true) then .hold id else
  (s.commit rid (f.tag k)).bind (fun _ s =>
    let s := s.onFrame rid k (fun f => { f with marks := f.marks + 1 })
    (s.writeCut rid k 0 ((s.region rid).cutToks k)).bind (fun _ s =>
      let s := s.onFrame rid k (fun f => { f with
        isCut := true, startToks := [], cutCounts := f.counts, cutArgs := f.argsFired, cutCalls := f.calls })
      (s.cutPointer rid k f.cut).bind (fun e s => match e with
        | none => .ok () s
        | some c => s.frameFault rid k none c)))

/-! Delivery and emission (R32, R100, R249, R284). -/

/-- Delivers a token to its node (R32): a stale one is dropped; one that its port does not accept faults the frame; a state
entry joins the node's state. One on an edge to another configuration, which is not placed there yet or which it leaves, goes to the
carry store (R284). -/
def State.deliver (rid : Nat) (t : Tok) (s : State) : Acc Unit :=
  let t := t.clean
  let r := s.region rid
  let k := tagIdx t.tag
  if !r.runs t.tag then
    .ok () (if t.cls ≠ 2 ∧ !r.stopped t.tag then s.onRegion rid (fun r => { r with stale := true }) else s)
  else match r.node t.node.toNat with
  | none => .ok () s
  | some (opc, n) =>
    let fault (c : Cause) : Acc Unit := s.frameFault rid k (some t.node.toNat) c
    let back := r.taken != [] && decide (t.src < 256) && r.target == some (r.cfgOf t.src) && r.cfgOf t.node.toNat == r.rpc
    let here (s : State) : State :=
      if r.here t.node.toNat && !back then s.onRegion rid (fun r => { r with toks := r.toks ++ [t] })
      else s.onRegion rid (fun r => { r with carry := r.carry ++ [t] })
    if t.port = 3 ∧ hasState opc then
      .ok () (s.onFrame rid k (fun f => { f with
        nst := f.nst.put t.node.toNat (f.nst.getD [] t.node.toNat ++ [t.pay]) }))
    else if t.port = 3 ∧ opc = 0x42 then .ok () (here s)
    else match (dataPorts opc n).find? (fun p => p.1 == t.port.toNat) with
    | none => fault ⟨8, 1, 0, false, 0⟩
    | some (_, c) =>
      if t.cls = 2 then
        if ctlCode t.pay = 0 ∨ 6 ≤ ctlCode t.pay then fault ⟨0, 3, 0, false, 0⟩ else .ok () (here s)
      else if t.cls.toNat ≠ c then fault ⟨8, 1, 0, false, 0⟩
      else if c = 1 ∧ digMalformed t.pay then fault ⟨0, 2, 0, false, 0⟩
      else if c = 1 ∧ digReserved t.pay then fault ⟨0, 5, 0, false, 0⟩
      else .ok () (here s)

/-- Sends tokens of a class from the node whose turn it is to one consumer. -/
def State.sendTo (cls : BitVec 2) (dst : Nat × Nat) : List Word → State → Acc Unit
  | [], s => .ok () s
  | p :: t, s =>
    if noConsumer dst then .ok () s
    else (s.deliver s.rid {
        pay := p, cls := cls, port := BitVec.ofNat 2 dst.2, node := BitVec.ofNat 8 dst.1, tag := s.tag,
        src := s.nodeIx }).bind
      (fun _ s => State.sendTo cls dst t s)

/-- Count i of the node whose turn it is: 0 firings, 1 to 4 tokens sent to A to D, 5 a pending mismatch. -/
def State.cnt (s : State) (i : Nat) : Nat := (s.frm.counts.getD [] s.nodeIx).getD i 0
def State.setCnt (i v : Nat) (s : State) : State :=
  let l := (upto 6).map (fun j => if j = i then v else (s.frm.counts.getD [] s.nodeIx).getD j 0)
  s.onFrm (fun f => { f with counts := f.counts.put s.nodeIx l })

/-- Sends one datum, a word or the groups of a digit number, to the consumers of given numbers, counting it on each edge.
Log entry 33. -/
def State.emit (cls : BitVec 2) (ps : List Word) (dsts : List (Nat × Nat)) : List Nat → State → Acc Unit
  | [], s => .ok () s
  | i :: t, s => (s.sendTo cls (dsts.getD i (255, 3)) ps).bind (fun _ s =>
      State.emit cls ps dsts t (s.setCnt (i + 1) (s.cnt (i + 1) + 1)))

/-- Sends a control token to each of the listed consumers. -/
def State.emitCtl (p : Word) (dsts : List (Nat × Nat)) : List Nat → State → Acc Unit
  | [], s => .ok () s
  | i :: t, s => (s.sendTo 2 (dsts.getD i (255, 3)) [p]).bind (fun _ s => State.emitCtl p dsts t s)

/-- Emits an END of the node's own (R253): with MISMATCH it sets RSTAT, or faults a strict node. Edge counts restart.
Log entry 33. -/
def State.emitEnd (strict : Bool) (level count : Nat) (mism : Bool) (dsts : List (Nat × Nat)) (is : List Nat) (s : State) :
    Acc Unit :=
  if mism ∧ strict then .trap ⟨8, 2, 0, false, 0⟩
  else
    let s := if mism then s.onRegion s.rid (fun r => { r with mismatch := true }) else s
    (s.emitCtl (endWord level count mism) dsts is).bind (fun _ s =>
      .ok () (is.foldl (fun s i => s.setCnt (i + 1) 0) s))

/-! Ends of frames (R125, R277). -/

/-- The thread whose registers an operation fills, and what the device keeps of it. -/
def State.opThread (op : Nat) (s : State) : Option ((Nat ⊕ (Nat × SavedThread)) × Thread) :=
  (s.findThread (fun t => t.ops.contains op)).map (fun w => (w, match w with
    | .inl k => s.thread k
    | .inr (_, e) => e.rest))

/-- Fills the result register of number j of a callx, if it still awaits it (R125). -/
def State.fillResult (op j : Nat) (v : Word) (s : State) : State :=
  match s.opThread op with
  | none => s
  | some (w, t) =>
    let r := BitVec.ofNat 5 (10 + j)
    if (t.awaiting (.op op)).contains r then s.fillAt w r v else s

/-- Returns every block of a region's save area to its pool: the chain from the first. -/
def State.areaReturn (c : BitVec 12) : Nat → Nat → State → State
  | 0, _, s => s
  | n + 1, b, s => if b = 0 then s else
    let next := (s.prd8 (b + 32)).toNat
    State.areaReturn c n next ((s.pwr8 (b + 32) 0).returnBlock c b)
/-- A free region: no live, quiescent or faulted frame (R390). Log entry 36. -/
def Region.idle (r : Region) : Bool := r.frames.all (fun (_, f) => f.st == .free || f.st == .evicted) && !r.draining
/-- A region without any frame, evicted ones included. -/
def Region.empty (r : Region) : Bool := r.frames.all (fun (_, f) => f.st == .free) && !r.draining
/-- A region that holds no frame any more, in memory or not, gives up its save area (R418). -/
def State.areaSettle (rid : Nat) (s : State) : State :=
  let r := s.region rid
  match r.area with
  | some b => if r.empty then (s.areaReturn r.ctxId 1024 b).onRegion rid (fun r => { r with area := none }) else s
  | none => s

/-- The tag's entry becomes free; tokens still held are discarded, and data among them set STALE (R277). -/
def State.frameFree (rid k : Nat) (s : State) : State :=
  let tag := ((s.region rid).frame k).tag k
  let stale := ((s.region rid).toks ++ (s.region rid).carry).any (fun t => t.tag == tag && t.cls != 2)
  let s := s.onRegion rid (fun r => { (r.purge tag) with stale := r.stale || stale })
  (s.onFrame rid k (fun f => { gen := f.gen })).areaSettle rid

/-- The caller's answer when a frame has ended (R125 step 2, R277, R279). -/
def State.frameAnswer (rid k : Nat) (s : State) : Acc Unit :=
  let r := s.region rid
  let f := r.frame k
  let status := f.status &&& ~~~0xF
  let clear : Acc Unit := match f.f with
    | some a => if f.status &&& 0xF = 0 then .ok () s else s.actWrite rid r.ctxId a (a.toNat + 16) status
    | none => .ok () s
  match f.caller with
  | .thread op => clear.bind (fun _ s => .ok () (s.fillOp op 0))
  | .node c => clear.bind (fun _ s => .ok () (s.later (.event .callCompletion (.completion {
      rid := c.rid, tag := c.tag, node := c.node, f := c.f, res := f.results, status := status }))))
  | .record _ => .ok () s
  | .unit u => .ok () (s.unitEnd u)

/-- A frame ends: its stores are committed, its caller answered, its entry freed (R277). -/
def State.frameEnd (rid k : Nat) (s : State) : Acc Unit :=
  (s.commit rid (((s.region rid).frame k).tag k)).bind (fun _ s => (s.frameAnswer rid k).bind (fun _ s =>
    .ok () (s.frameFree rid k)))

/-- A frame is abandoned after a fault (R125 step 3, R288): the status word, the caller, the entry. -/
def State.frameAbandon (rid k : Nat) (c : Cause) (s : State) : Acc Unit :=
  let r := s.region rid
  let f := r.frame k
  let status := BitVec.ofNat 64 (c.info % 2 ^ 32 * 2 ^ 32 + c.sub % 256 * 2 ^ 16 + c.cls % 16 * 2 ^ 8 + 16)
  let write : Acc Unit := match f.f with
    | some a => s.actWrite rid r.ctxId a (a.toNat + 16) status
    | none => .ok () s
  match f.caller with
  | .thread op => write.bind (fun _ s =>
      let poison := match s.opThread op with
        | none => s
        | some (w, _) =>
          let s := (upto 4).foldl (fun (s : State) j => s.fillResult op j 0) s
          let s := s.onAt w (fun t => { t with poison := 15, calleeF := f.f.getD 0, calleeStatus := status })
          match w with
          | .inl _ => s
          | .inr (_, e) => s.pwr8 (e.area + 264) (s.prd8 (e.area + 264) ||| 0x3C00)
      .ok () ((poison.opDone op).frameFree rid k))
  | .node n => write.bind (fun _ s => .ok () ((s.later (.event .callCompletion (.completion {
      rid := n.rid, tag := n.tag, node := n.node, f := n.f, res := f.results, status := status }))).frameFree rid k))
  | .record _ => .ok () (s.frameFree rid k)
  | .unit u =>
    let ended (s : State) : State := match u with
      | .itin _ _ _ => s.parkUnit u c
      | _ => s.unitEnd u
    .ok () ((ended s).frameFree rid k)

/-! Starts of frames (R275, R278). -/

/-- What starts a frame. -/
structure Start where
  f : Option Word
  args : List Word := []
  caller : Caller
  cls : Nat
  fmt : Word
  sca : List Word
  /-- What stands of the frame status: every EMPTY bit of a call's (R122, R279). -/
  status : Word := match caller with
    | .thread _ | .node _ => 0xF
    | _ => 0
  deriving DecidableEq, Repr

/-- The lowest tag that no frame holds; an evicted frame's tag is free for reuse (R33, R278). -/
def Region.freeTag (r : Region) : Option Nat :=
  (upto 256).find? (fun k => (r.frame k).st == .free || (r.frame k).st == .evicted)
/-- The frame that has been quiescent longest (R278). -/
def Region.oldestQuiet (r : Region) : Option Nat :=
  (((upto 256).filter (fun k => (r.frame k).st == .quiescent)).foldl (fun (b : Option Nat) k => match b with
    | none => some k
    | some j => if (r.frame k).quietAt < (r.frame j).quietAt then some k else some j) none)

/-- Evicts a quiescent frame to memory (R33): a cut, then its tag is free and what the device keeps of it moves aside.
Log entry 36. -/
def State.evict (rid k : Nat) (s : State) : Acc Unit :=
  (s.cut rid k).bind (fun _ s =>
    let r := s.region rid
    let f := r.frame k
    if f.st = .faulted then .ok () s else
    let j := ((upto (r.frames.length + 1)).find? (fun n => (Tab.find (256 * (n + 1) + k) r.frames).isNone)).getD 0
    .ok () (s.onRegion rid (fun r =>
      let r := r.purge (f.tag k)
      let fs := r.frames.put (256 * (j + 1) + k) { f with st := .evicted, nst := [] }
      { r with frames := fs.put k { gen := f.gen, st := .evicted, cut := f.cut } })))

/-- Takes a tag (R278): a free one, else the longest-quiescent frame's, else none. -/
def State.takeTag (rid : Nat) (s : State) : Acc (Option Nat) :=
  match (s.region rid).freeTag with
  | some k => .ok (some k) s
  | none => match (s.region rid).oldestQuiet with
    | some k => (s.evict rid k).bind (fun _ s => .ok (if ((s.region rid).frame k).st = .evicted then some k else none) s)
    | none => .ok none s

/-- A frame begins under a tag: its entry goes live under a new generation (R33). Its arg nodes fire next. Its cluster is powered
(R451). -/
def State.frameBegin (rid k : Nat) (x : Start) (s : State) : State :=
  (s.powerUp rid).onFrame rid k (fun f => {
    st := .live, gen := f.gen + 1, f := x.f, args := x.args, caller := x.caller, cls := x.cls, fmt := x.fmt, sca := x.sca,
    status := x.status })

/-- Whether the region holds an image for a context and takes new frames (R123, R390). -/
def Region.holds (r : Region) (c : BitVec 12) (img : Word) : Bool :=
  r.ctx == some c && r.image == img && r.nodes != [] && !r.draining

/-- The region becomes free: generations stay with the entries, and its save area goes back (R418). Log entry 36. -/
def State.regionFree (rid : Nat) (keepArea : Bool) (s : State) : State :=
  let r := s.region rid
  let s := match r.area with
    | some b => if keepArea then s else s.areaReturn r.ctxId 1024 b
    | none => s
  s.onRegion rid (fun r => {
    frames := (r.frames.filter (fun (k, _) => decide (k < 256))).map (fun (k, f) => (k, { gen := f.gen })),
    lastCtx := r.lastCtx, ranges := r.ranges, inflight := r.inflight })

end Sys2Proof.Machine
end

