-- ==== Sys2Proof/Machine/Graph.lean ====
section
/-! DEFINITION. How a node fires for a frame: its ports' heads, streams and control tokens, and what follows a firing (08,
R248 to R253, R271, R277, R288). -/

namespace Sys2Proof.Machine
open Sys2Proof

/-! Matching slots (R250). -/

/-- Whether a token ends a datum: every token but a group of a digit number before its last (R99). -/
def Tok.ends (t : Tok) : Bool := t.cls != 1 || digLast t.pay
/-- Whether a token waits at its port for no partner, given the tokens before it and their seats: the tokens that it fires with are
there, or it fires alone (R248, R250). At a call or tail an argument waits for its END, which closes one set of operands; at a merge a
selector waits for the port that it selects, and the tokens of ports a and b for their selector, or for the END that drops them. -/
def Region.partnered (r : Region) (acc : List (Tok × Nat)) (t : Tok) : Bool :=
  let at_ (p : Nat) : List Tok :=
    (acc.filter (fun e => e.2 != 2 && e.1.node == t.node && e.1.tag == t.tag && e.1.port.toNat == p && e.1.ends)).map (·.1)
  let n (p : Nat) : Nat := (at_ p).length
  let data (p : Nat) : Nat := ((at_ p).filter (fun x => x.cls != 2)).length
  let ctl (p : Nat) : Nat := ((at_ p).filter (fun x => x.cls == 2)).length
  let p := t.port.toNat
  match r.node t.node.toNat with
  | none => true
  | some (opc, w) =>
    let ps := reqPorts opc w
    if opc = 0x33 ∨ ps.length < 2 ∨ !ps.contains p then true
    else if opc = 0x21 then
      let takes (x : Tok) (q : Nat) : Bool := x.cls != 2 && decide ((x.pay ≠ 0) ↔ q = 0)
      let past (q : Nat) : Nat := ((at_ 2).filter (fun x => takes x q)).length
      if p < 2 then decide (n p < past p) || decide (0 < ctl 2)
      else if t.cls ≠ 2 then
        decide (past (if t.pay ≠ 0 then 0 else 1) < n (if t.pay ≠ 0 then 0 else 1))
          || decide (2 ≤ ((r.frame (tagIdx t.tag)).counts.getD [] t.node.toNat).getD 5 0)
      else decide (past 0 < n 0 ∧ past 1 < n 1)
        || (ctlCode t.pay == 1 && (decide (past 0 < data 0) || decide (past 1 < data 1)))
    else if (opc = 0x42 ∨ opc = 0x43) ∧ t.cls ≠ 2 then
      p != 2 && decide (data p < ctl 2) && ps.all (fun q => q == 2 || q == p || decide (n p < n q))
    else if (opc = 0x42 ∨ opc = 0x43) ∧ p = 2 then ps.all (fun q => q == 2 || decide (ctl 2 < data q))
    else ps.all (fun q => q == p || (q == 2 && (opc == 0x42 || opc == 0x43)) || decide (n p < n q))
/-- Where a token stands that comes after those of `acc`: 0 at its port, waiting for no partner; 1 at its port, in a matching slot
of its tile; 2 in its link, since the tile has no slot for it or a token of its frame waits there before it (R250).
Log entry 14. -/
def Region.seat (r : Region) (acc : List (Tok × Nat)) (t : Tok) : Nat :=
  let at_ (p : Nat) (x : Tok) : Bool := x.node == t.node && x.tag == t.tag && x.port.toNat == p
  let mine := acc.filter (fun e => at_ t.port.toNat e.1)
  let parked := (r.frame (tagIdx t.tag)).calls.any (fun c => c.node == t.node)
  let lone := t.cls == 2 && (ctlCode t.pay == 4 || ctlCode t.pay == 5)
  if mine.any (fun e => e.2 == 2) then 2
  else if mine.getLast?.any (fun e => !e.1.ends) then 0
  else if parked || lone || r.partnered acc t then 0
  else if 128 ≤ (acc.filter (fun e => e.2 == 1 && r.tileOf e.1.node.toNat == r.tileOf t.node.toNat)).length then 2
  else 1
/-- Where each token of the current configuration stands. -/
def Region.seats (r : Region) : List (Tok × Nat) :=
  if r.toks.length ≤ 128 then r.toks.map (fun t => (t, 0)) else r.toks.foldl (fun acc t => acc ++ [(t, r.seat acc t)]) []
/-- The tokens at ports. -/
def Region.seated (r : Region) : List Tok := (r.seats.filter (fun e => e.2 != 2)).map (·.1)
/-- Whether a token that waits in a link stalls node n, which sent it (R250). -/
def Region.stalled (r : Region) (n : Nat) : Bool := r.seats.any (fun e => e.2 == 2 && e.1.src == n)

/-! Ports. -/

/-- What stands at the head of a port for a frame: nothing, a datum (a word, or the groups of one digit number), or a control
token. -/
inductive Item where
  | none
  | data (ps : List Word)
  | ctl (p : Word)
  deriving DecidableEq, Repr

def Item.isData : Item → Bool
  | .data _ => true
  | _ => false
def Item.ctl? : Item → Option Word
  | .ctl p => some p
  | _ => Option.none
def Item.isCode (c : Nat) : Item → Bool
  | .ctl p => ctlCode p == c
  | _ => false

/-- The groups of the digit number that leads a list of tokens, once its LAST group has come (R99). -/
def groupRun : List Tok → Option (List Word)
  | [] => none
  | t :: r => if t.cls ≠ 1 then none else if digLast t.pay then some [t.pay] else (groupRun r).map (t.pay :: ·)

def State.atPort (s : State) (p : Nat) : List Tok :=
  s.reg.seated.filter (fun t => t.tag == s.tag && t.node.toNat == s.nodeIx && t.port.toNat == p)
/-- The head of a port whose data class is c. -/
def State.head (s : State) (p c : Nat) : Item :=
  match s.atPort p with
  | [] => .none
  | t :: r => if t.cls = 2 ∧ c ≠ 2 then .ctl t.pay
    else if c = 1 then (match groupRun (t :: r) with
      | some ps => .data ps
      | none => .none)
    else .data [t.pay]

/-- Consumes n tokens from the head of a port. -/
def State.pop (p n : Nat) (s : State) : State :=
  let me (t : Tok) : Bool := t.tag == s.tag && t.node.toNat == s.nodeIx && t.port.toNat == p
  s.onRegion s.rid (fun r => { r with toks := dropFirst me n r.toks })
/-- Consumes the head item of a port. -/
def State.popItem (p : Nat) (i : Item) (s : State) : State :=
  match i with
  | .none => s
  | .data ps => s.pop p ps.length
  | .ctl _ => s.pop p 1

/-- Whether some node of the image feeds a port (R252). -/
def Region.fed (r : Region) (node p : Nat) : Bool :=
  r.nodes.any (fun w => match nodeWordOf w with
    | some (opc, n) => (consumers opc n).any (fun c => c == (node, p) && !noConsumer c)
    | none => false)

/-! Node operations. -/

/-- A node as it runs: its opcode and word, and what its entry says of a firing. -/
structure NOp where
  opc : Nat
  n : NodeWord
  /-- Its entry pairs its own streams and treats END itself. -/
  own : Bool := false
  /-- Its entry treats every control token itself. -/
  raw : Bool := false
  /-- It commits its frame's buffered stores before it acts (R269, R281). -/
  commits : Bool := false
  /-- Continues a sequence that it is emitting, if it is (R260, R263). -/
  more : State → Option (State → Acc Unit) := fun _ => none
  /-- Emits and clears its state at a FLUSH (R252). -/
  flush : State → Acc Unit := fun s => .ok () s
  act : State → Acc Unit

def NOp.dsts (o : NOp) : List (Nat × Nat) := consumers o.opc o.n
def NOp.outs (o : NOp) : List Nat := upto (consumers o.opc o.n).length
/-- The data ports that its firings take tokens from. -/
def NOp.ports (o : NOp) : List (Nat × Nat) := (dataPorts o.opc o.n).filter (fun q => (reqPorts o.opc o.n).contains q.1)
def NOp.cls (o : NOp) (p : Nat) : Nat := ((o.ports.find? (fun q => q.1 == p)).map (·.2)).getD 0

def NOp.sendData (o : NOp) (cls : BitVec 2) (ps : List Word) (is : List Nat) (s : State) : Acc Unit := s.emit cls ps o.dsts is
/-- Emits a word to consumers A and B. -/
def NOp.word (o : NOp) (w : Word) (s : State) : Acc Unit := o.sendData 0 [w] [0, 1] s
def NOp.ctl (o : NOp) (p : Word) (s : State) : Acc Unit := s.emitCtl p o.dsts o.outs
def NOp.endTo (o : NOp) (level count : Nat) (mism : Bool) (is : List Nat) (s : State) : Acc Unit :=
  s.emitEnd o.n.strict level count mism o.dsts is

/-- The constant of port b (R246). -/
def NOp.const (o : NOp) : Word :=
  let c := o.n.imm.toNat % 2 ^ 24
  if 0x10 ≤ o.opc then BitVec.ofNat 64 (c * 256) else sextW 24 c

/-- Takes the head datum of every data port, the constant standing for port b: the data by port. -/
def NOp.take (o : NOp) (s : State) : List (List Word) × State :=
  let got := (upto 4).map (fun p =>
    if o.n.immb && p == 1 then [o.const]
    else if (reqPorts o.opc o.n).contains p then (match s.head p (o.cls p) with
      | .data ps => ps
      | _ => [])
    else [])
  (got, (reqPorts o.opc o.n).foldl (fun s p => s.pop p (got.getD p []).length) s)

/-- A firing that sends one word, a function of the words on its ports, to both consumers. -/
def wordNode (opc : Nat) (n : NodeWord) (f : Word → Word → Word → Word) : NOp :=
  let o : NOp := { opc := opc, n := n, act := fun s => .ok () s }
  { o with act := fun s =>
      let (v, s) := o.take s
      let w (p : Nat) : Word := (v.getD p []).getD 0 0
      o.word (f (w 0) (w 1) (w 2)) s }

/-- The frame's state at the node. -/
def State.nst (s : State) : List Word := s.frm.nst.getD [] s.nodeIx
def State.setNst (ws : List Word) (s : State) : State :=
  s.onFrm (fun f => { f with nst := if ws = [] then f.nst.del s.nodeIx else f.nst.put s.nodeIx ws })

/-- Forwards an END that reached the one data port (R252): COUNT is that of each edge. Log entry 33. -/
def NOp.endThrough (o : NOp) (p : Word) : List Nat → State → Acc Unit
  | [], s => .ok () s
  | i :: t, s => (s.emitCtl (endWord (endLevel p) (s.cnt (i + 1)) (endMism p)) o.dsts [i]).bind (fun _ s =>
      NOp.endThrough o p t (s.setCnt (i + 1) 0))

/-- A firing, which counts (R253); with stores of the frame to commit first, the commit is a turn of its own. Log entry 14. -/
def NOp.count (o : NOp) (s : State) : Acc Unit :=
  if o.commits && s.reg.buffered s.tag != [] then s.commit s.rid s.tag else o.act (s.setCnt 0 (s.cnt 0 + 1))
/-- The pairing of streams (R253). Log entry 33. -/
def NOp.pair (o : NOp) (s : State) : Acc Unit :=
  let hs := (reqPorts o.opc o.n).map (fun p => (p, s.head p (o.cls p)))
  let ends := hs.filterMap (fun h => if h.2.isCode 1 then h.2.ctl? else none)
  if hs.all (fun h => h.2.isData) then o.count s
  else if ends.length = hs.length then
    let l := endLevel (ends.getD 0 0)
    let m := ends.any endMism || ends.any (fun e => endLevel e != l) || s.cnt 5 == 1
    let c := s.cnt 0
    let s := hs.foldl (fun s h => s.pop h.1 1) ((s.setCnt 0 0).setCnt 5 0)
    o.endTo l c m o.outs s
  else
    let extra := hs.filter (fun h => h.2.isData)
    if ends ≠ [] ∧ extra ≠ [] then .ok () ((extra.foldl (fun s h => s.popItem h.1 h.2) s).setCnt 5 1)
    else .hold id

/-- A RESET at one of several data ports (R252): the tokens of the frame that came before it at the node, and its state, are
discarded, with what it has asked for; it waits for an atomic operation that the node has in course. Log entry 33. -/
def NOp.reset (o : NOp) (s : State) : Option (Acc Unit) :=
  let me (e : NodeFar) : Bool := e.node == s.nodeIx && e.tag == s.tag
  if s.reg.rmwOut s.tag me then none else
  let ps := (dataPorts o.opc o.n).map (·.1)
  let mine (e : Tok × Nat) : Bool :=
    e.2 != 2 && e.1.tag == s.tag && e.1.node.toNat == s.nodeIx && ps.contains e.1.port.toNat
  let isR (e : Tok × Nat) : Bool := mine e && e.1.cls == 2 && ctlCode e.1.pay == 4
  let l := s.reg.seats
  match l.find? isR with
  | none => none
  | some e =>
    let before := (l.takeWhile (fun e => !isR e)).filter (fun e => !mine e)
    let s := s.onRegion s.rid (fun r => { r with
      toks := (before ++ (l.dropWhile (fun e => !isR e)).drop 1).map (·.1)
      remote := r.remote.filter (fun e => e.commit.isSome || !me e) })
    some (o.ctl e.1.pay ((s.setNst []).onFrm (fun f => { f with
      counts := f.counts.del s.nodeIx, calls := f.calls.filter (fun c => c.node.toNat != s.nodeIx) })))

/-- A node with one data port (R252). -/
def NOp.single (o : NOp) (p c : Nat) (s : State) : Acc Unit :=
  match s.head p c with
  | .none => .hold id
  | .data _ => o.count s
  | .ctl v =>
    match ctlCode v with
    | 1 => if o.own then o.act s else NOp.endThrough o v o.outs (s.pop p 1)
    | 2 => o.ctl v (s.pop p 1)
    | 3 => (o.flush s).bind (fun _ s => o.ctl v (s.pop p 1))
    | 4 => o.ctl v ((s.setNst []).pop p 1)
    | _ => .ok () (s.pop p 1)

/-- A node with several data ports (R252, R253). A MARK or FLUSH acts when it is the head of every fed port, and waits behind unpaired
data: the model's choice, log entry 33. -/
def NOp.several (o : NOp) (s : State) : Acc Unit :=
  match o.reset s with
  | some r => r
  | none =>
    let hs := o.ports.map (fun (p, c) => (p, s.head p c))
    match hs.find? (fun h => h.2.isCode 5) with
    | some h => .ok () (s.pop h.1 1)
    | none =>
      let fed := hs.filter (fun h => s.reg.fed s.nodeIx h.1)
      let v := ((fed.getD 0 (0, .none)).2.ctl?).getD 0
      let drop (s : State) : State := fed.foldl (fun s h => s.pop h.1 1) s
      if fed ≠ [] ∧ fed.all (fun h => h.2.isCode 2) then o.ctl v (drop s)
      else if fed ≠ [] ∧ fed.all (fun h => h.2.isCode 3) then (o.flush s).bind (fun _ s => o.ctl v (drop s))
      else if o.own then o.act s else o.pair s

/-- The turn of a node for a frame. With CLASS control, control tokens are its data (R283). -/
def NOp.turn (o : NOp) (s : State) : Acc Unit :=
  match (if o.raw || decide (o.ports.length < 2) then none else o.reset s) with
  | some r => r
  | none => match o.more s with
  | some f => f s
  | none =>
    if o.raw then o.act s
    else match o.ports with
    | [(p, c)] => o.single p c s
    | _ => o.several s

/-! What follows a firing. -/

/-- The nodes of the image with an opcode. -/
def Region.nodesOf (r : Region) (opc : Nat) : List Nat :=
  (upto r.nodes.length).filter (fun i => (nodeWordOf (r.nodes.getD i 0)).map (·.1) == some opc)
/-- Whether an iter, ag or ldl is emitting for a frame (R277). -/
def Region.emitting (r : Region) (f : Frame) : Bool :=
  f.nst.any (fun (n, _) => match r.node n with
    | some (opc, _) => opc == 0x25 || opc == 0x30 || opc == 0x33
    | none => false)
/-- Whether every arg node of the current configuration has fired for a frame. -/
def Region.argsDone (r : Region) (f : Frame) : Bool :=
  ((r.nodesOf 0x40).filter r.here).all f.argsFired.contains
/-- Whether a frame ends (R277). -/
def Region.frameDone (r : Region) (k : Nat) : Bool :=
  let f := r.frame k
  match r.nodesOf 0x41 with
  | [] => !((r.toks ++ r.carry).any (fun t => t.tag == f.tag k)) && !r.emitting f && f.calls == [] && r.argsDone f
  | rs => rs.all f.rets.contains
/-- Whether every live token of a frame waits at a call node for a reply (R33). -/
def Region.frameQuiet (r : Region) (k : Nat) : Bool :=
  let f := r.frame k
  f.calls != [] && !r.emitting f && r.argsDone f &&
    (r.toks ++ r.carry).all (fun t => t.tag != f.tag k || f.calls.any (fun c => c.node == t.node))

/-- After a firing for frame k: it may have ended, or be quiescent. -/
def State.frameSettle (rid k : Nat) (tag : BitVec 16) (s : State) : Acc Unit :=
  let r := s.region rid
  if !r.runs tag then .ok () s
  else if r.frameDone k then s.frameEnd rid k
  else .ok () (s.onFrame rid k (fun f =>
    if r.frameQuiet k then (if f.st = .quiescent then f else { f with st := .quiescent, quietAt := s.cycle })
    else { f with st := .live }))

/-- A frame starts under a tag, and its arg nodes fire next; one with nothing to do ends (R33, R277). -/
def State.frameStart (rid k : Nat) (x : Start) (s : State) : Acc Unit :=
  let s := s.frameBegin rid k x
  s.frameSettle rid k (((s.region rid).frame k).tag k)

/-! Who may fire. -/

/-- When the last of the tokens came that a memory-edge node would perform an access on, if all are there (R267). -/
def Region.armed (r : Region) (n : Nat) (tag : BitVec 16) : Option Nat :=
  match r.node n with
  | none => none
  | some (opc, w) =>
    let ps := if opc = 0x33 then [if (r.frame (tagIdx tag)).nst.getD [] n = [] then 0 else 1] else reqPorts opc w
    let ix := ps.map (fun p => (upto r.toks.length).find? (fun i => match r.toks[i]? with
      | some t => t.node.toNat == n && t.tag == tag && t.port.toNat == p
      | none => false))
    if isMemEdge opc && ix.all (fun i => i.any (fun i => (r.toks[i]?).any (fun t => t.cls != 2))) then
      some ((ix.map (·.getD 0)).foldl max 0)
    else none
/-- Whether an access of the frame whose turn it is, at the port of the node whose turn it is, is to be performed before that
node's (R267). Log entry 14. -/
def State.portBehind (s : State) : Bool :=
  let r := s.reg
  match r.armed s.nodeIx s.tag with
  | none => false
  | some i => (upto r.nodes.length).any (fun n => r.here n && isMemEdge (fld (r.nodes.getD n 0) 63 56)
      && r.tileOf n == r.tileOf s.nodeIx && (r.armed n s.tag).any (fun j => decide (j < i)))
/-- Whether a commit of the frame whose turn it is waits for a store to be performed, or has failed at another node that has yet to
say so; or another node of it has an atomic operation in course, whose cut is to come: nodes of the frame do not fire then (R285,
R287). -/
def State.cutting (s : State) : Bool :=
  let r := s.reg
  let mine (e : NodeFar) : Bool := e.node == s.nodeIx && e.tag == s.tag
  r.remote.any (fun e => e.frame == s.tag && e.commit.isSome && (e.answer.isNone
    || (!mine e && r.runs e.tag && r.toks.any (fun t => t.tag == e.tag && t.node.toNat == e.node))))
  || r.rmwOut s.tag (fun e => !mine e)
/-- Whether the node whose turn it is may fire for its frame: it is placed, the frame runs, and its token is not withheld, nor
behind another at its port, nor does a token in a link stall it. -/
def State.nodeMay (s : State) : Bool :=
  s.reg.runs s.tag && s.reg.here s.nodeIx &&
  !(s.reg.withheld.any (fun w => w.node.toNat == s.nodeIx && w.tag == s.tag && !w.again)) &&
  !s.reg.stalled s.nodeIx && !s.cutting && !s.portBehind

/-- A firing with what follows it. -/
def NOp.fired (o : NOp) (s : State) : Acc Unit :=
  (o.turn s).bind (fun _ t =>
    let t := if t.reg.runs s.tag then t.onFrm (fun f => { f with started := true }) else t
    (t.onRegion s.rid (fun r => { r with
      busy := insertNat (s.reg.tileOf s.nodeIx) r.busy
      withheld := r.withheld.filter (fun w => !(w.node.toNat == s.nodeIx && w.tag == s.tag)) })).frameSettle
      s.rid (tagIdx s.tag) s.tag)

/-- A firing: it takes effect; or it waits; or a replayable failure withholds its token, and any other fault stops the frame
(R271, R288). -/
def NOp.fireNow (o : NOp) (s : State) : State :=
  match o.fired s with
  | .ok _ s' => s'
  | .hold f => f s
  | .trap c =>
    if c.replay then s.withhold c none false
    else match s.frameFault s.rid (tagIdx s.tag) (some s.nodeIx) c with
    | .ok _ s' => s'
    | .hold f => f s
    | .trap _ => s
/-- The turn of a node for the frame of its tag, on a tile that has not fired in the ac (R248). Log entry 14. -/
def NOp.fire (o : NOp) (s : State) : State :=
  if s.nodeMay && !s.reg.busy.contains (s.reg.tileOf s.nodeIx) then o.fireNow s else s

/-- Whether the node would make progress (R417). Log entry 14. -/
def NOp.ready (o : NOp) (s : State) : Bool :=
  s.nodeMay && (match o.fired s with
    | .ok _ _ => true
    | .hold _ => false
    | .trap c => !c.replay)

end Sys2Proof.Machine
end

