-- ==== Sys2Proof/Machine/Nodes.lean ====
section
/-! DEFINITION. Graph nodes that act on tokens alone: word, float and digit arithmetic, stream control, width conversion,
accumulators and control-token nodes (08, R254 to R261, R272 to R274, R283). -/

namespace Sys2Proof.Machine
open Sys2Proof

/-- A node with no effect yet, from which its entry is built. -/
def nodeBase (opc : Nat) (n : NodeWord) : NOp := { opc := opc, n := n, act := fun s => .ok () s }
/-- VAR of an arithmetic node (R246). -/
def nodeVar (n : NodeWord) : Nat := n.imm.toNat / 2 ^ 24

/-! Word arithmetic (R254). -/

/-- The condition of cmp (R254). -/
def cmpCond (v : Nat) (a b : Word) : Bool :=
  match v with
  | 0 => a == b
  | 1 => a != b
  | 2 => a.slt b
  | 3 => !a.slt b
  | 4 => a.ult b
  | _ => !a.ult b
/-- div by VAR: bit 0 unsigned, bit 1 remainder. -/
def divVar (v : Nat) (a b : Word) : Word :=
  match v with
  | 0 => quotS a b
  | 1 => quotU a b
  | 2 => remS a b
  | _ => remU a b
/-- mulh by VAR: signed by signed, signed by unsigned, unsigned by unsigned. -/
def mulhVar (v : Nat) (a b : Word) : Word :=
  match v with
  | 0 => highMul (a.toInt * b.toInt)
  | 1 => highMul (a.toInt * b.toNat)
  | _ => highMul ((a.toNat : Int) * b.toNat)

/-- add (R254). -/
def opNodeAdd (n : NodeWord) : NOp := wordNode 0x01 n (fun a b _ => a + b)
/-- add (R254). -/
def execNodeAdd (n : NodeWord) (s : State) : Host.Outcome State Fault Refusal := .next ((opNodeAdd n).fire s)
/-- sub (R254). -/
def opNodeSub (n : NodeWord) : NOp := wordNode 0x02 n (fun a b _ => a - b)
/-- sub (R254). -/
def execNodeSub (n : NodeWord) (s : State) : Host.Outcome State Fault Refusal := .next ((opNodeSub n).fire s)
/-- mul (R254). -/
def opNodeMul (n : NodeWord) : NOp := wordNode 0x03 n (fun a b _ => a * b)
/-- mul (R254). -/
def execNodeMul (n : NodeWord) (s : State) : Host.Outcome State Fault Refusal := .next ((opNodeMul n).fire s)
/-- mulh (R254). -/
def opNodeMulh (n : NodeWord) : NOp := wordNode 0x04 n (fun a b _ => mulhVar (nodeVar n) a b)
/-- mulh (R254). -/
def execNodeMulh (n : NodeWord) (s : State) : Host.Outcome State Fault Refusal := .next ((opNodeMulh n).fire s)
/-- div (R254). -/
def opNodeDiv (n : NodeWord) : NOp := wordNode 0x05 n (fun a b _ => divVar (nodeVar n) a b)
/-- div (R254). -/
def execNodeDiv (n : NodeWord) (s : State) : Host.Outcome State Fault Refusal := .next ((opNodeDiv n).fire s)
/-- and (R254). -/
def opNodeAnd (n : NodeWord) : NOp := wordNode 0x06 n (fun a b _ => a &&& b)
/-- and (R254). -/
def execNodeAnd (n : NodeWord) (s : State) : Host.Outcome State Fault Refusal := .next ((opNodeAnd n).fire s)
/-- or (R254). -/
def opNodeOr (n : NodeWord) : NOp := wordNode 0x07 n (fun a b _ => a ||| b)
/-- or (R254). -/
def execNodeOr (n : NodeWord) (s : State) : Host.Outcome State Fault Refusal := .next ((opNodeOr n).fire s)
/-- xor (R254). -/
def opNodeXor (n : NodeWord) : NOp := wordNode 0x08 n (fun a b _ => a ^^^ b)
/-- xor (R254). -/
def execNodeXor (n : NodeWord) (s : State) : Host.Outcome State Fault Refusal := .next ((opNodeXor n).fire s)
/-- shl (R254). -/
def opNodeShl (n : NodeWord) : NOp := wordNode 0x09 n (fun a b _ => a <<< cnt6 b)
/-- shl (R254). -/
def execNodeShl (n : NodeWord) (s : State) : Host.Outcome State Fault Refusal := .next ((opNodeShl n).fire s)
/-- shr (R254). -/
def opNodeShr (n : NodeWord) : NOp := wordNode 0x0A n (fun a b _ => a >>> cnt6 b)
/-- shr (R254). -/
def execNodeShr (n : NodeWord) (s : State) : Host.Outcome State Fault Refusal := .next ((opNodeShr n).fire s)
/-- sra (R254). -/
def opNodeSra (n : NodeWord) : NOp := wordNode 0x0B n (fun a b _ => a.sshiftRight (cnt6 b))
/-- sra (R254). -/
def execNodeSra (n : NodeWord) (s : State) : Host.Outcome State Fault Refusal := .next ((opNodeSra n).fire s)
/-- cmp (R254). -/
def opNodeCmp (n : NodeWord) : NOp := wordNode 0x0C n (fun a b _ => bit (cmpCond (nodeVar n) a b))
/-- cmp (R254). -/
def execNodeCmp (n : NodeWord) (s : State) : Host.Outcome State Fault Refusal := .next ((opNodeCmp n).fire s)
/-- sel (R254). -/
def opNodeSel (n : NodeWord) : NOp := wordNode 0x0D n (fun a b c => if a ≠ 0 then b else c)
/-- sel (R254). -/
def execNodeSel (n : NodeWord) (s : State) : Host.Outcome State Fault Refusal := .next ((opNodeSel n).fire s)
/-- min (R254). -/
def opNodeMin (n : NodeWord) : NOp := wordNode 0x0E n (fun a b _ => if nodeVar n = 1 then (if b.ult a then b else a) else if b.slt a then b else a)
/-- min (R254). -/
def execNodeMin (n : NodeWord) (s : State) : Host.Outcome State Fault Refusal := .next ((opNodeMin n).fire s)
/-- max (R254). -/
def opNodeMax (n : NodeWord) : NOp := wordNode 0x0F n (fun a b _ => if nodeVar n = 1 then (if a.ult b then b else a) else if a.slt b then b else a)
/-- max (R254). -/
def execNodeMax (n : NodeWord) (s : State) : Host.Outcome State Fault Refusal := .next ((opNodeMax n).fire s)

/-! Floating point (R255, R256). -/

/-- The f32 encoding on a port, and a result's word. -/
def f32Of (w : Word) : Nat := w.toNat % 2 ^ 32
def f32Word (r : FRes) : Word := BitVec.ofNat 64 r.bits

/-- fadd (R255). -/
def opNodeFadd (n : NodeWord) : NOp := wordNode 0x10 n (fun a b _ => f32Word (f32.fadd (nodeVar n % 8) 0 (f32Of a) (f32Of b)))
/-- fadd (R255). -/
def execNodeFadd (n : NodeWord) (s : State) : Host.Outcome State Fault Refusal := .next ((opNodeFadd n).fire s)
/-- fmul (R255). -/
def opNodeFmul (n : NodeWord) : NOp := wordNode 0x11 n (fun a b _ => f32Word (f32.fmul (nodeVar n % 8) 0 (f32Of a) (f32Of b)))
/-- fmul (R255). -/
def execNodeFmul (n : NodeWord) (s : State) : Host.Outcome State Fault Refusal := .next ((opNodeFmul n).fire s)
/-- ffma (R255). -/
def opNodeFfma (n : NodeWord) : NOp := wordNode 0x12 n (fun a b c => f32Word (f32.fma (nodeVar n % 8) 0 (f32Of a) (f32Of b) (f32Of c) false))
/-- ffma (R255). -/
def execNodeFfma (n : NodeWord) (s : State) : Host.Outcome State Fault Refusal := .next ((opNodeFfma n).fire s)

/-- The format of a type code of R256, if it is a floating-point type. -/
def typeFmt (t : Nat) : Option FFmt :=
  match t with
  | 8 => some f32
  | 9 => some bf16
  | 10 => some f16
  | 11 => some e4m3
  | 12 => some e5m2
  | _ => none
/-- Width and signedness of an integer type code of R256. -/
def typeInt (t : Nat) : Nat × Bool :=
  match t with
  | 2 => (32, true)
  | 3 => (64, true)
  | 6 => (32, false)
  | _ => (64, false)
/-- fcvt of a word (R67, R256). -/
def fcvtWord (dst src mode : Nat) (a : Word) : Word :=
  match typeFmt src, typeFmt dst with
  | some f, some g => BitVec.ofNat 64 (g.convert mode 0 (f.decode (a.toNat % 2 ^ f.w))).bits
  | some f, none =>
    let (w, sg) := typeInt dst
    let r := (toIntRes w sg mode 0 (f.decode (a.toNat % 2 ^ f.w))).bits
    if sg then sextW w r else zextW w r
  | none, some g =>
    let (w, sg) := typeInt src
    let i : Int := if sg then toSigned w a.toNat else ((a.toNat % 2 ^ w : Nat) : Int)
    BitVec.ofNat 64 (g.ofIntRes mode 0 i).bits
  | none, none => a

/-- fcvt (R256). -/
def opNodeFcvt (n : NodeWord) : NOp := wordNode 0x13 n (fun a _ _ => fcvtWord (n.imm.toNat / 2 ^ 28) (n.imm.toNat / 2 ^ 24 % 16) (n.imm.toNat / 2 ^ 21 % 8) a)
/-- fcvt (R256). -/
def execNodeFcvt (n : NodeWord) (s : State) : Host.Outcome State Fault Refusal := .next ((opNodeFcvt n).fire s)
/-- fmin (R255). -/
def opNodeFmin (n : NodeWord) : NOp := wordNode 0x14 n (fun a b _ => f32Word (f32.fminmax false (f32Of a) (f32Of b)))
/-- fmin (R255). -/
def execNodeFmin (n : NodeWord) (s : State) : Host.Outcome State Fault Refusal := .next ((opNodeFmin n).fire s)
/-- fmax (R255). -/
def opNodeFmax (n : NodeWord) : NOp := wordNode 0x15 n (fun a b _ => f32Word (f32.fminmax true (f32Of a) (f32Of b)))
/-- fmax (R255). -/
def execNodeFmax (n : NodeWord) (s : State) : Host.Outcome State Fault Refusal := .next ((opNodeFmax n).fire s)

/-! Digit-serial arithmetic (R59 to R62, R99, R257). -/

/-- A digit number: its leading exponent and its digits (R60). -/
structure DNum where
  e : Int
  ds : List Int
  deriving DecidableEq, Repr

/-- The number that its groups carry (R99). -/
def dnumOf (ps : List Word) : DNum :=
  { e := toSigned 8 (fld (ps.getD 0 0) 63 56),
    ds := ps.flatMap (fun p => (upto (digN p + 1)).map (fun k => match fld p (49 - 2 * k) (48 - 2 * k) with
      | 1 => (1 : Int)
      | 3 => -1
      | _ => 0)) }
/-- One group (R99). -/
def groupWord (e : Int) (last : Bool) (ds : List Int) : Word :=
  let code (d : Int) : Nat := if d = 0 then 0 else if d < 0 then 3 else 1
  BitVec.ofNat 64 (ofInt 8 e * 2 ^ 56 + (if last then 2 ^ 55 else 0) + (ds.length - 1) % 32 * 2 ^ 50 +
    ((upto ds.length).zip ds).foldl (fun n (k, d) => n + code d * 2 ^ (48 - 2 * k)) 0)
/-- The groups of a number, 25 digits each but the last. -/
def DNum.groups (d : DNum) : List Word :=
  let n := max 1 (cdiv d.ds.length 25)
  (upto n).map (fun g => groupWord d.e (g + 1 == n) ((d.ds.drop (25 * g)).take 25))
/-- The digits as an integer, the last digit's weight 1. -/
def digitSum (ds : List Int) : Int := ds.foldl (fun a d => 2 * a + d) 0
/-- Aligns two numbers by weight (R60): zero digits before the smaller exponent, and after the shorter. -/
def dalign (a b : DNum) : Int × List Int × List Int :=
  let e := max a.e b.e
  let pre (x : DNum) : List Int := List.replicate (e - x.e).toNat 0 ++ x.ds
  let n := max (pre a).length (pre b).length
  let fit (l : List Int) : List Int := l ++ List.replicate (n - l.length) 0
  (e, fit (pre a), fit (pre b))
/-- The non-redundant digits of v in n places. -/
def plainDigits (n : Nat) (v : Int) : List Int :=
  (upto n).map (fun j => if v.natAbs / 2 ^ (n - 1 - j) % 2 = 1 then (if v < 0 then -1 else 1) else 0)
/-- The n digits of an exact result v: R61 states its value and not which of its forms is sent, so the form is free
(log entry 2). -/
def resultDigits (draw n : Nat) (v : Int) : List Int :=
  let c := Config.digitForm draw
  if c.length = n ∧ c.all (fun d => d = 0 ∨ d = 1 ∨ d = -1) ∧ digitSum c = v then c else plainDigits n v

/-- Sends a digit result: above 64 digits it is cut to the first 64, with RSTAT.MISMATCH, and the fault of a strict node; an
exponent out of range faults the frame (R61). -/
def NOp.digits (o : NOp) (e : Int) (n : Nat) (v : Int) (s : State) : Acc Unit :=
  if e < -128 ∨ 127 < e then .trap ⟨0, 6, 0, false, 0⟩
  else
    let s := if 64 < n then s.onRegion s.rid (fun r => { r with mismatch := true }) else s
    if 64 < n ∧ o.n.strict then s.frameFault s.rid (tagIdx s.tag) (some s.nodeIx) ⟨8, 2, 0, false, 0⟩ else
    let (k, s) := s.draw
    o.sendData 1 (DNum.groups { e := e, ds := (resultDigits k n v).take 64 }) [0, 1] s
/-- A digit node of two operands. -/
def digitNode (opc : Nat) (n : NodeWord) (f : NOp → DNum → DNum → State → Acc Unit) : NOp :=
  let o := nodeBase opc n
  { o with
    act := fun s =>
      let (v, t) := o.take s
      f o (dnumOf (v.getD 0 [])) (dnumOf (v.getD 1 [])) t }

/-- dadd (R257, R61). -/
def opNodeDadd (n : NodeWord) : NOp := digitNode 0x18 n (fun o a b s =>
  let (e, x, y) := dalign a b
  o.digits (e + 1) (x.length + 1) (digitSum x + digitSum y) s)
/-- dadd (R257, R61). -/
def execNodeDadd (n : NodeWord) (s : State) : Host.Outcome State Fault Refusal := .next ((opNodeDadd n).fire s)
/-- dmul (R257, R61). -/
def opNodeDmul (n : NodeWord) : NOp := digitNode 0x19 n (fun o a b s =>
  o.digits (a.e + b.e + 1) (a.ds.length + b.ds.length) (digitSum a.ds * digitSum b.ds) s)
/-- dmul (R257, R61). -/
def execNodeDmul (n : NodeWord) (s : State) : Host.Outcome State Fault Refusal := .next ((opNodeDmul n).fire s)
/-- dcmp (R257, R61). -/
def opNodeDcmp (n : NodeWord) : NOp := digitNode 0x1A n (fun o a b s =>
  let (_, x, y) := dalign a b
  let d := digitSum x - digitSum y
  o.word (if d < 0 then BitVec.allOnes 64 else if d = 0 then 0 else 1) s)
/-- dcmp (R257, R61). -/
def execNodeDcmp (n : NodeWord) (s : State) : Host.Outcome State Fault Refusal := .next ((opNodeDcmp n).fire s)

/-- dtow of a number (R62): the floor, saturated; and whether it saturated. -/
def dtow (d : DNum) : Word × Bool :=
  let x : Int := d.e - d.ds.length + 1
  let v := digitSum d.ds
  let i : Int := if 0 ≤ x then v * (2 ^ x.toNat : Nat) else v / (2 ^ (-x).toNat : Nat)
  if i < -(2 ^ 63 : Nat) then (0x8000000000000000, true)
  else if (2 ^ 63 : Nat) ≤ i then (0x7FFFFFFFFFFFFFFF, true)
  else (BitVec.ofInt 64 i, false)
/-- The first n digits of a two's complement value of w bits, most significant first, of which the first weighs minus (R62). -/
def twosDigits (w n : Nat) (v : Nat) : List Int :=
  (upto n).map (fun j => let b : Int := ((v / 2 ^ (w - 1 - j) % 2 : Nat) : Int); if j = 0 then -b else b)

/-- dtow (R257, R62). -/
def opNodeDtow (n : NodeWord) : NOp := digitNode 0x1B n (fun o a _ s =>
  let (v, sat) := dtow a
  o.word v (if sat then s.onRegion s.rid (fun r => { r with mismatch := true }) else s))
/-- dtow (R257, R62). -/
def execNodeDtow (n : NodeWord) (s : State) : Host.Outcome State Fault Refusal := .next ((opNodeDtow n).fire s)
/-- wtod (R257, R62). -/
def opNodeWtod (n : NodeWord) : NOp := 
  let o := nodeBase 0x1C n
  { o with
    act := fun s =>
      let (v, s) := o.take s
      let w := (v.getD 0 []).getD 0 0
      o.sendData 1 (DNum.groups { e := 63, ds := twosDigits 64 (n.imm.toNat % 128) w.toNat }) [0, 1] s }
/-- wtod (R257, R62). -/
def execNodeWtod (n : NodeWord) (s : State) : Host.Outcome State Fault Refusal := .next ((opNodeWtod n).fire s)

/-! Stream control (R258 to R260). -/

/-- steer (R258). -/
def opNodeSteer (n : NodeWord) : NOp := 
  let o := nodeBase 0x20 n
  { o with
    act := fun s =>
      let (v, s) := o.take s
      o.sendData n.cls (v.getD 0 []) [if (v.getD 1 []).getD 0 0 ≠ 0 then 0 else 1] s }
/-- steer (R258). -/
def execNodeSteer (n : NodeWord) (s : State) : Host.Outcome State Fault Refusal := .next ((opNodeSteer n).fire s)

/-- The END step of merge (R259): data tokens before the ENDs of a and b are dropped, then END is sent. -/
def mergeEnd (o : NOp) (v : Word) (s : State) : Acc Unit :=
  let hs := [0, 1].map (fun p => (p, s.head p (o.cls p)))
  let extra := hs.filter (fun h => h.2.isData)
  if extra ≠ [] then .ok () ((extra.foldl (fun s h => s.popItem h.1 h.2) s).setCnt 5 (s.cnt 5 ||| 1))
  else if hs.all (fun h => h.2.isCode 1) then
    let m := s.cnt 5 % 2 == 1
    let c := s.cnt 0
    o.endTo (endLevel v) c m o.outs ((((((s.setCnt 0 0).setCnt 5 0).pop 0 1).pop 1 1)).pop 2 1)
  else .hold id

/-- merge (R259). A shortage drops the selectors that are left. -/
def opNodeMerge (n : NodeWord) : NOp := 
  let o := nodeBase 0x21 n
  { o with own := true, act := fun s =>
      match s.head 2 0 with
      | .data ps =>
        if 2 ≤ s.cnt 5 then .ok () ((s.pop 2 1).setCnt 5 3)
        else
          let p := if ps.getD 0 0 ≠ 0 then 0 else 1
          (match s.head p (o.cls p) with
          | .data qs => o.sendData n.cls qs [0, 1] (((s.pop p qs.length).pop 2 1).setCnt 0 (s.cnt 0 + 1))
          | .ctl v => if ctlCode v = 1 then .ok () (s.setCnt 5 (s.cnt 5 ||| 2)) else .hold id
          | .none => .hold id)
      | .ctl v => if ctlCode v = 1 then mergeEnd o v s else .hold id
      | .none => .hold id }
/-- merge (R259). A shortage drops the selectors that are left. -/
def execNodeMerge (n : NodeWord) (s : State) : Host.Outcome State Fault Refusal := .next ((opNodeMerge n).fire s)
/-- fan (R258). Log entry 33. -/
def opNodeFan (n : NodeWord) : NOp := 
  let o := nodeBase 0x22 n
  { o with
    act := fun s =>
      let (v, s) := o.take s
      o.sendData n.cls (v.getD 0 []) [0, 1, 2, 3] s }
/-- fan (R258). -/
def execNodeFan (n : NodeWord) (s : State) : Host.Outcome State Fault Refusal := .next ((opNodeFan n).fire s)
/-- gate (R258). -/
def opNodeGate (n : NodeWord) : NOp := 
  let o := nodeBase 0x23 n
  { o with
    act := fun s =>
      let (v, s) := o.take s
      o.sendData n.cls (v.getD 0 []) [0, 1] s }
/-- gate (R258). -/
def execNodeGate (n : NodeWord) (s : State) : Host.Outcome State Fault Refusal := .next ((opNodeGate n).fire s)
/-- join (R258). -/
def opNodeJoin (n : NodeWord) : NOp := 
  let o := nodeBase 0x24 n
  { o with
    act := fun s =>
      let (v, s) := o.take s
      o.sendData n.cls (v.getD 0 []) [0, 1] s }
/-- join (R258). -/
def execNodeJoin (n : NodeWord) (s : State) : Host.Outcome State Fault Refusal := .next ((opNodeJoin n).fire s)

/-- One step of an iter that emits (R260): its state is the next i, start and n. -/
def iterStep (o : NOp) (s : State) : Acc Unit :=
  let w (i : Nat) : Word := s.nst.getD i 0
  let step := sextW 24 (o.n.imm.toNat % 2 ^ 24)
  if w 0 = w 2 then s.setNst [] |> o.endTo (o.n.imm.toNat / 2 ^ 24) (w 2).toNat false o.outs
  else o.word (w 1 + w 0 * step) (s.setNst [w 0 + 1, w 1, w 2])

/-- iter (R260). -/
def opNodeIter (n : NodeWord) : NOp := 
  let o := nodeBase 0x25 n
  { o with
    more := fun s => if s.nst = [] then none else some (iterStep o),
    act := fun s =>
      let (v, s) := o.take s
      iterStep o (s.setNst [0, (v.getD 0 []).getD 0 0, (v.getD 1 []).getD 0 0]) }
/-- iter (R260). -/
def execNodeIter (n : NodeWord) (s : State) : Host.Outcome State Fault Refusal := .next ((opNodeIter n).fire s)
/-- drop (R258). -/
def opNodeDrop (n : NodeWord) : NOp := 
  let o := nodeBase 0x26 n
  { o with
    act := fun s => .ok () (o.take s).2 }
/-- drop (R258). -/
def execNodeDrop (n : NodeWord) (s : State) : Host.Outcome State Fault Refusal := .next ((opNodeDrop n).fire s)

/-! Width conversion (R261). -/

def pieceWidth (n : NodeWord) : Nat := 32 / 2 ^ (n.imm.toNat % 4)
/-- Sends words one after another as data of their own. -/
def NOp.wordsOut (o : NOp) : List Word → State → Acc Unit
  | [], s => .ok () s
  | w :: t, s => (o.word w s).bind (fun _ s => NOp.wordsOut o t s)

/-- wsplit (R261). -/
def opNodeWsplit (n : NodeWord) : NOp := 
  let o := nodeBase 0x28 n
  { o with
    act := fun s =>
      let (v, s) := o.take s
      let w := pieceWidth n
      o.wordsOut ((upto (64 / w)).map (fun i => BitVec.ofNat 64 (elem w ((v.getD 0 []).getD 0 0).toNat i))) s }
/-- wsplit (R261). -/
def execNodeWsplit (n : NodeWord) (s : State) : Host.Outcome State Fault Refusal := .next ((opNodeWsplit n).fire s)

/-- The word that the pieces collected so far make, the first lowest. -/
def joinWord (w : Nat) (ps : List Word) : Word := BitVec.ofNat 64 (ofElems w (ps.map BitVec.toNat))

/-- wjoin (R261). An END in mid-word takes COUNT from the tokens sent to consumer A. -/
def opNodeWjoin (n : NodeWord) : NOp := 
  let o := nodeBase 0x29 n
  let w := pieceWidth n
  { o with
    own := true
    flush := fun s => if s.nst = [] then .ok () s else o.word (joinWord w s.nst) (s.setNst [])
    act := fun s =>
      match s.head 0 0 with
      | .ctl v =>
        let s := s.pop 0 1
        if s.nst = [] then NOp.endThrough o v o.outs s
        else (o.word (joinWord w s.nst) (s.setNst [])).bind (fun _ s => o.endTo (endLevel v) (s.cnt 1) true o.outs s)
      | _ =>
        let (v, s) := o.take s
        let ps := s.nst ++ [BitVec.ofNat 64 (((v.getD 0 []).getD 0 0).toNat % 2 ^ w)]
        if ps.length * w = 64 then o.word (joinWord w ps) (s.setNst []) else .ok () (s.setNst ps) }
/-- wjoin (R261). An END in mid-word takes COUNT from the tokens sent to consumer A. -/
def execNodeWjoin (n : NodeWord) (s : State) : Host.Outcome State Fault Refusal := .next ((opNodeWjoin n).fire s)

/-! Accumulators (R272 to R274). -/

/-- Identity of an acc OP (R272). -/
def accId (op : Nat) : Word :=
  match op with
  | 1 => 0x80000000
  | 2 => 0x7FFFFFFFFFFFFFFF
  | 3 => 0x8000000000000000
  | 4 | 7 => BitVec.allOnes 64
  | _ => 0
/-- One fold of acc (R272). -/
def accFold (op : Nat) (s v : Word) : Word :=
  match op with
  | 0 => s + v
  | 1 => f32Word (f32.fadd 0 0 (f32Of s) (f32Of v))
  | 2 => if v.slt s then v else s
  | 3 => if s.slt v then v else s
  | 4 => if v.ult s then v else s
  | 5 => if s.ult v then v else s
  | 6 => s ||| v
  | 7 => s &&& v
  | _ => s ^^^ v

/-- The tail of an accumulator's state: values added, ENDs received, their COUNT total with its unknown mark in bit 63, and
the last LEVEL (R272). -/
structure AccTail where
  c : Nat
  e : Nat
  t : Nat
  unknown : Bool
  level : Nat
  deriving DecidableEq, Repr
def accTail (ws : List Word) : AccTail :=
  { c := (ws.getD 0 0).toNat, e := (ws.getD 1 0).toNat, t := fld (ws.getD 2 0) 62 0, unknown := tbit (ws.getD 2 0) 63,
    level := (ws.getD 3 0).toNat }
def AccTail.words (a : AccTail) : List Word :=
  [BitVec.ofNat 64 a.c, BitVec.ofNat 64 a.e, BitVec.ofNat 64 (a.t % 2 ^ 63 + (if a.unknown then 2 ^ 63 else 0)),
   BitVec.ofNat 64 a.level]

/-- An accumulator: its sum's words, its identity, its fold, and what a release emits with its COUNT. -/
structure AccKind where
  width : Nat
  start : List Word
  fold : List Word → Word → List Word
  out : List Word → List Word

/-- The state of an accumulator for the frame, its identity when it has none. -/
def AccKind.state (k : AccKind) (ws : List Word) : List Word × AccTail :=
  if ws = [] then (k.start, accTail []) else (ws.take k.width, accTail (ws.drop k.width))
/-- Releases the state (R273). -/
def AccKind.release (k : AccKind) (o : NOp) (sum : List Word) (a : AccTail) (s : State) : Acc Unit :=
  (o.wordsOut (k.out sum) (s.setNst [])).bind (fun _ s =>
    o.endTo a.level (k.out sum).length (!a.unknown && decide (a.t < a.c)) o.outs s)
/-- Keeps the state, or releases it when its ENDs and values have come (R273). -/
def AccKind.keep (k : AccKind) (o : NOp) (sum : List Word) (a : AccTail) (s : State) : Acc Unit :=
  if a.e = o.n.imm.toNat % 256 ∧ (a.unknown ∨ a.t ≤ a.c) then k.release o sum a s else .ok () (s.setNst (sum ++ a.words))
/-- An accumulating node (R272 to R274). A FLUSH where it has received nothing for the frame emits the FLUSH alone: the model's choice
beside R252, log entry 33. -/
def AccKind.node (k : AccKind) (opc : Nat) (n : NodeWord) : NOp :=
  let o := nodeBase opc n
  { o with
    own := true
    flush := fun s => if s.nst = [] then .ok () s else
      let (sum, a) := k.state s.nst
      k.release o sum a s
    act := fun s =>
      let (sum, a) := k.state s.nst
      match s.head 0 0 with
      | .ctl v =>
        let c := endCount v
        k.keep o sum { a with
          e := a.e + 1, t := a.t + c, unknown := a.unknown || c == 0xFFFFFFFF, level := endLevel v } (s.pop 0 1)
      | _ =>
        let (v, s) := o.take s
        k.keep o (k.fold sum ((v.getD 0 []).getD 0 0)) { a with c := a.c + 1 } s }

/-- acc (R272, R273). Log entry 33. -/
def opNodeAcc (n : NodeWord) : NOp := 
  let op := n.imm.toNat / 2 ^ 28
  AccKind.node { width := 1, start := [accId op], fold := fun ws v => [accFold op (ws.getD 0 0) v], out := id } 0x38 n
/-- acc (R272, R273). -/
def execNodeAcc (n : NodeWord) (s : State) : Host.Outcome State Fault Refusal := .next ((opNodeAcc n).fire s)

/-- The FSUMX fold of two payloads (R75). -/
def fsumx (a b : List Word) : List Word :=
  let w (l : List Word) (i : Nat) : Word := l.getD i 0
  let sv (l : List Word) : Int := toSigned 128 ((w l 0).toNat + 2 ^ 64 * (w l 1).toNat)
  let t := sv a + sv b
  let u := ofInt 128 t
  let range := t < -(2 ^ 127 : Nat) ∨ (2 ^ 127 : Nat) ≤ t
  [BitVec.ofNat 64 u, BitVec.ofNat 64 (u / 2 ^ 64), w a 2 + w b 2, w a 3 ||| w b 3 ||| (if range then 2 else 0)]
/-- The payload of one f32 value at window exponent w (R67, R274). -/
def fsumxOne (w : Int) (v : Word) : List Word :=
  let (u, inexact, range, _) := toFixed128 w 0 0 (f32.decode (f32Of v))
  [BitVec.ofNat 64 u, BitVec.ofNat 64 (u / 2 ^ 64), 1, BitVec.ofNat 64 ((if inexact then 1 else 0) + (if range then 2 else 0))]

/-- accx (R274). -/
def opNodeAccx (n : NodeWord) : NOp := 
  let w : Int := toSigned 8 (n.imm.toNat / 256)
  AccKind.node {
    width := 4, start := [0, 0, 0, 0], fold := fun ws v => fsumx ws (fsumxOne w v),
    out := fun ws => if n.imm.getLsbD 16 then ws
      else [f32Word (ofFixed128 w 0 0 ((ws.getD 0 0).toNat + 2 ^ 64 * (ws.getD 1 0).toNat))] } 0x39 n
/-- accx (R274). -/
def execNodeAccx (n : NodeWord) (s : State) : Host.Outcome State Fault Refusal := .next ((opNodeAccx n).fire s)

/-! Control-token nodes and const (R283). -/

/-- The head at port a of a node that fires on tokens of its class: its payloads, taken. -/
def NOp.takeAny (o : NOp) (s : State) : Option (List Word × State) :=
  match s.head 0 o.n.cls.toNat with
  | .data ps => some (ps, s.pop 0 ps.length)
  | _ => none
/-- A node that fires on a token of the class that CLASS names. -/
def anyNode (opc : Nat) (n : NodeWord) (f : NOp → List Word → State → Acc Unit) : NOp :=
  let o := nodeBase opc n
  { o with
    act := fun s => match o.takeAny s with
      | some (ps, s) => f o ps s
      | none => .hold id }

/-- mark (R283, R285): the cut records the token, which is then sent on. -/
def opNodeMark (n : NodeWord) : NOp := 
  let o := nodeBase 0x48 n
  { o with
    act := fun s => (s.cut s.rid (tagIdx s.tag)).bind (fun _ s =>
      match o.takeAny s with
      | some (ps, s) => (s.emit n.cls ps o.dsts [0]).bind (fun _ s =>
          s.emitCtl (BitVec.ofNat 64 (2 + s.frm.marks.toNat * 2 ^ 16)) o.dsts [1])
      | none => .ok () s) }
/-- mark (R283, R285): the cut records the token, which is then sent on. -/
def execNodeMark (n : NodeWord) (s : State) : Host.Outcome State Fault Refusal := .next ((opNodeMark n).fire s)
/-- end (R283). -/
def opNodeEnd (n : NodeWord) : NOp := anyNode 0x49 n (fun o ps s =>
  let c := if n.cls = 0 then (ps.getD 0 0).toNat % 2 ^ 32 else 0
  o.endTo (n.imm.toNat / 256 % 256) c false o.outs s)
/-- end (R283). -/
def execNodeEnd (n : NodeWord) (s : State) : Host.Outcome State Fault Refusal := .next ((opNodeEnd n).fire s)
/-- flush (R283). -/
def opNodeFlush (n : NodeWord) : NOp := anyNode 0x4A n (fun o _ s => o.ctl 3 s)
/-- flush (R283). -/
def execNodeFlush (n : NodeWord) (s : State) : Host.Outcome State Fault Refusal := .next ((opNodeFlush n).fire s)
/-- reset (R283). -/
def opNodeReset (n : NodeWord) : NOp := anyNode 0x4B n (fun o _ s => o.ctl 4 s)
/-- reset (R283). -/
def execNodeReset (n : NodeWord) (s : State) : Host.Outcome State Fault Refusal := .next ((opNodeReset n).fire s)
/-- The region's sequencer takes TARGET (R284). Where tiles have taken their nodes of another TARGET before, their tokens go to the
carry store. Log entry 36. -/
def Region.retarget (r : Region) (t : Nat) : Region :=
  let r := { r with target := some t }
  if r.taken = [] then r else { r with toks := r.toks.filter (fun x => r.here x.node.toNat), carry := r.carry ++ r.toks.filter (fun x => !r.here x.node.toNat) }
/-- switch (R283, R284): the region's sequencer takes TARGET. -/
def opNodeSwitch (n : NodeWord) : NOp := anyNode 0x4C n (fun _ _ s =>
  .ok () (s.onRegion s.rid (fun r => r.retarget (n.imm.toNat % 16))))
/-- switch (R283, R284): the region's sequencer takes TARGET. -/
def execNodeSwitch (n : NodeWord) (s : State) : Host.Outcome State Fault Refusal := .next ((opNodeSwitch n).fire s)
/-- const (R283). -/
def opNodeConst (n : NodeWord) : NOp := anyNode 0x50 n (fun o _ s => o.word (sextW 32 n.imm.toNat) s)
/-- const (R283). -/
def execNodeConst (n : NodeWord) (s : State) : Host.Outcome State Fault Refusal := .next ((opNodeConst n).fire s)

end Sys2Proof.Machine
end

