-- ==== Sys2Proof/Machine/MemNodes.lean ====
section
/-! DEFINITION. Memory-edge nodes: address generation, loads, buffered stores, pointer walks, atomics and fences (08, R262 to
R271). -/

namespace Sys2Proof.Machine
open Sys2Proof

/-- MPORT (R262). -/
def nodePort (n : NodeWord) : Nat := n.imm.toNat % 8

/-- Runs what follows once the frame's buffered stores are committed; with stores to commit, the commit is a turn of its own,
and its tokens wait (R276, R279). Log entry 14. -/
def NOp.committed (next : State → Acc Unit) (s : State) : Acc Unit :=
  if s.reg.buffered s.tag = [] then next s else s.commit s.rid s.tag
/-- Runs what a node does outside the region before it sends a word, once its consumers are known to take one: a consumer that
rejects it faults the frame before anything is performed (R287, R288). Log entry 14. -/
def NOp.accepted (o : NOp) (next : State → Acc Unit) (s : State) : Acc Unit :=
  (o.word 0 s).bind (fun _ u => if u.reg.runs u.tag then next s else .ok () u)

/-! ag (R263, R264). -/

/-- Whether a sequence at j and i stands at a yield point (R264). -/
def agYield (levels : Bool) (i : Nat) : Bool := if levels then i == 0 else i % 256 == 0

/-- Ends the sequence: the firing's tokens are consumed. -/
def agDone (o : NOp) (s : State) : State := (reqPorts o.opc o.n).foldl (fun s p => s.pop p 1) (s.setNst [])

/-- One emission of the sequence whose state words are j, i and base. Log entry 34. -/
def agStep (o : NOp) (s : State) : Acc Unit :=
  let levels := o.n.imm.getLsbD 8
  let w (p : Nat) : Word := match s.head p 0 with
    | .data ps => ps.getD 0 0
    | _ => 0
  let n0 := (w 1).toNat
  let n1 := if levels then fld (w 2) 63 32 else 1
  let ostride := if levels then sextW 32 (w 2).toNat else 0
  let j := (s.nst.getD 0 0).toNat
  let i := (s.nst.getD 1 0).toNat
  let base := s.nst.getD 2 0
  if s.reg.draining ∧ agYield levels i then .hold id
  else if n1 ≤ j then o.endTo 1 (n0 * n1) false o.outs (agDone o s)
  else if i < n0 then
    o.word (base + BitVec.ofNat 64 j * ostride + BitVec.ofNat 64 i * sextW 16 (o.n.imm.toNat / 2 ^ 16))
      (s.setNst [BitVec.ofNat 64 j, BitVec.ofNat 64 (i + 1), base])
  else o.endTo 0 n0 false o.outs (if levels then s.setNst [BitVec.ofNat 64 (j + 1), 0, base] else agDone o s)

/-- ag (R263, R264): its tokens wait at its ports until the firing's last END. Log entry 34. -/
def opNodeAg (n : NodeWord) : NOp :=
  let o := nodeBase 0x30 n
  { o with
    more := fun s => if s.nst = [] then none else some (agStep o)
    act := fun s => match s.head 0 0, s.head 1 0 with
      | .data a, .data b =>
        if 2 ^ 32 ≤ (b.getD 0 0).toNat then .trap ⟨0, 6, 0, false, 0⟩
        else if s.reg.draining then .hold id
        else agStep o (s.setNst [0, 0, a.getD 0 0])
      | _, _ => .hold id }
/-- ag (R263, R264): its tokens wait at its ports until the firing's last END. -/
def execNodeAg (n : NodeWord) (s : State) : Host.Outcome State Fault Refusal := .next ((opNodeAg n).fire s)

/-! Loads (R265, R266, R268). -/

/-- Bytes with those that a frame's own stores give in their places. -/
def overlay (own : List (Option Byte)) (bs : List Byte) : List Byte := (own.zip bs).map (fun (o, b) => o.getD b)
/-- The bytes at va as a frame's load at a port sees them: the youngest of its own buffered stores there, else memory
(R266). -/
def State.forward (p va : Nat) (bs : List Byte) (s : State) : List Byte :=
  overlay (s.ownBytes p va bs.length) bs
/-- What the frame's own stores gave a load of the node whose turn it is when it was sent to another device, if it was. -/
def State.sentOwn (q : Req) (s : State) : Option (List (Option Byte)) :=
  (s.reg.remote.find? (fun e => e.node == s.nodeIx && e.tag == s.tag && e.q == q && e.op == .read q.n)).map (·.own)
/-- A load of a frame at a port: it sees the frame's own stores that came before it there (R266, R320). -/
def State.portLoad (p va n al : Nat) (s : State) : Acc Nat :=
  (s.nodeRead (.port s.rid p) va n al).bind (fun v t => match s.sentOwn (loadReq va n al) with
    | none => .ok (ofBytes (t.forward p va (toBytes n v))) t
    | some own => .ok (ofBytes (overlay own (toBytes n v))) t)

/-- The digits of element e of the planes 0 to p − 1 at a block (R56, R62). -/
def planeDigits (bits : List Nat) (mid : Bool) : List Int :=
  (upto bits.length).map (fun j => let b : Int := (bits.getD j 0 : Nat); if j = 0 then -b else b)
    ++ (if mid ∧ bits.length < 8 then [1] else [])

/-- ldp (R265). -/
def opNodeLdp (n : NodeWord) : NOp :=
  let o := nodeBase 0x31 n
  let imm := n.imm.toNat
  let port := nodePort n
  { o with
    act := fun s =>
      let (v, t) := o.take s
      let a := ((v.getD 0 []).getD 0 0).toNat
      if n.cls = 0 then
        let w := 2 ^ (imm / 16 % 4)
        (t.portLoad port a w w).bind (fun d s =>
          o.word (if n.imm.getLsbD 6 then sextW (8 * w) d else zextW (8 * w) d) s)
      else
        let e := ((v.getD 1 []).getD 0 0).toNat
        let p := if imm / 4096 % 16 = 0 then 8 else imm / 4096 % 16
        if a % 64 ≠ 0 then .trap (tAlign (BitVec.ofNat 64 a))
        else if 511 < e then .trap ⟨0, 6, 0, false, 0⟩
        else (Acc.each (fun j s => s.portLoad port (a + 64 * j + e / 8) 1 1) (upto p) t).bind (fun ds s =>
          let bits := ds.map (fun d => d / 2 ^ (e % 8) % 2)
          o.sendData 1 (DNum.groups { e := 7, ds := planeDigits bits (n.imm.getLsbD 8) }) [0, 1] s) }
/-- ldp (R265). -/
def execNodeLdp (n : NodeWord) (s : State) : Host.Outcome State Fault Refusal := .next ((opNodeLdp n).fire s)

/-- One step of a walk (R268): its state is the active flag and the steps. Log entry 34. -/
def ldlStep (o : NOp) (x steps : Word) (s : State) : Acc Unit :=
  (s.portLoad (nodePort o.n) x.toNat 8 8).bind (fun d s =>
    if o.n.imm.getLsbD 8 ∧ d = 0 then o.endTo 0 steps.toNat false [0] (s.setNst [])
    else o.word (BitVec.ofNat 64 d) (s.setNst [1, steps + 1]))
/-- ldl (R268). An END at a outside a walk is forwarded; one at b outside a walk is dropped. Log entry 34. -/
def opNodeLdl (n : NodeWord) : NOp :=
  let o := nodeBase 0x33 n
  { o with
    own := true
    flush := fun s => if s.nst = [] then .ok () s else o.endTo 0 (s.nst.getD 1 0).toNat false [0] (s.setNst [])
    act := fun s =>
      if s.nst ≠ [] then
        let steps := s.nst.getD 1 0
        match s.head 1 0 with
        | .data ps => ldlStep o (ps.getD 0 0) steps (s.pop 1 1)
        | .ctl v => if ctlCode v = 1 then o.endTo 0 steps.toNat false [0] ((s.pop 1 1).setNst []) else .hold id
        | .none => .hold id
      else match s.head 0 0, s.head 1 0 with
        | .data ps, _ => ldlStep o (ps.getD 0 0) 0 (s.pop 0 1)
        | a, b =>
          if a.isCode 1 then NOp.endThrough o ((a.ctl?).getD 0) o.outs (s.pop 0 1)
          else if b.isCode 1 then .ok () (s.pop 1 1)
          else .hold id }
/-- ldl (R268). An END at a outside a walk is forwarded; one at b outside a walk is dropped. -/
def execNodeLdl (n : NodeWord) (s : State) : Host.Outcome State Fault Refusal := .next ((opNodeLdl n).fire s)

/-! Stores, atomics, fences (R266, R269, R270). -/

/-- The frame that owns the oldest store of a full port takes a cut; a failure faults that frame. -/
def State.cutOldest (p : Nat) (s : State) : Acc Unit :=
  match (s.reg.stores.getD [] p).head? with
  | none => .ok () s
  | some b =>
    let k := tagIdx b.tag
    match s.cut s.rid k with
    | .trap c => if c.replay ∨ b.tag = s.tag then .trap c else s.frameFault s.rid k none c
    | r => r

/-- stp (R266). -/
def opNodeStp (n : NodeWord) : NOp :=
  let o := nodeBase 0x32 n
  let port := nodePort n
  let w := 2 ^ (n.imm.toNat / 16 % 4)
  { o with
    act := fun s =>
      let a (v : List (List Word)) : Nat := ((v.getD 0 []).getD 0 0).toNat
      (s.nodeAt (.port s.rid port) { va := a (o.take s).1, n := w, al := w, k := .store, plain := decide (w = 8) }).bind
        (fun _ s => (if 64 ≤ (s.reg.stores.getD [] port).length then s.cutOldest port else .ok () s).bind (fun _ s =>
          if s.reg.stopped s.tag then .ok () s else
          let (v, t) := o.take s
          let b : BufStore := {
            node := BitVec.ofNat 8 s.nodeIx, tag := s.tag, addr := BitVec.ofNat 64 (a v),
            data := toBytes w ((v.getD 1 []).getD 0 0).toNat }
          o.word 0 (t.onRegion t.rid (fun r => { r with stores := r.stores.put port (r.stores.getD [] port ++ [b]) })))) }
/-- stp (R266). -/
def execNodeStp (n : NodeWord) (s : State) : Host.Outcome State Fault Refusal := .next ((opNodeStp n).fire s)

/-- The read-modify-write of atom: the old value (R197, R269). -/
def atomAccess (o : NOp) (a : Word) (v e : Word) (s : State) : Acc Word :=
  let imm := o.n.imm.toNat
  let z := o.n.imm.getLsbD 8
  let w := szBytes z
  let op := imm / 16 % 16
  let cut (x : Word) : Nat := x.toNat % 2 ^ (8 * w)
  let q : Req := { va := a.toNat, n := w, al := w, k := .rmw, plain := false }
  (s.nodeAt (.port s.rid (nodePort o.n)) q).bind (fun l s => match l with
    | .mem m =>
      let old := s.rd m w
      .ok (BitVec.ofNat 64 old) ((s.memStore m (toBytes w (amoNew op (8 * w) old (cut v) (cut e)))).homeTakes m)
    | .far p u =>
      (s.nodeFar s.tag p u (.amo op w (BitVec.ofNat 64 (cut v)) (BitVec.ofNat 64 (cut e))) q s.reg.ctxId).orTrap.bind
        (fun r s => .ok r.1 s)
    | _ => .trap (tPerm 0x21 (infoNoWalk 2) false a))

/-- atom (R269). -/
def opNodeAtom (n : NodeWord) : NOp :=
  let o := nodeBase 0x34 n
  { o with
    commits := true
    act := fun s =>
      let (v, t) := o.take s
      let w (p : Nat) : Word := (v.getD p []).getD 0 0
      o.accepted (fun t => (atomAccess o (w 0) (w 1) (w 2) t).bind (fun old s =>
        (o.word (szExt (n.imm.getLsbD 8) old) s).bind (fun _ s => s.cut s.rid (tagIdx s.tag)))) t }
/-- atom (R269). -/
def execNodeAtom (n : NodeWord) (s : State) : Host.Outcome State Fault Refusal := .next ((opNodeAtom n).fire s)

/-- fence (R270): the machine has one order, so its ordering is the commit (log entry 4). -/
def opNodeFence (n : NodeWord) : NOp := anyNode 0x35 n (fun o ps s =>
  (s.commit s.rid s.tag).bind (fun _ s => s.emit n.cls ps o.dsts [0, 1]))
/-- fence (R270): the machine has one order, so its ordering is the commit (log entry 4). -/
def execNodeFence (n : NodeWord) (s : State) : Host.Outcome State Fault Refusal := .next ((opNodeFence n).fire s)

end Sys2Proof.Machine
end

