-- ==== Sys2Proof/Machine/CallNodes.lean ====
section
/-! DEFINITION. Frame, call and Hamper nodes, and every node's operation by its constructor (08, R275 to R281). -/

namespace Sys2Proof.Machine
open Sys2Proof

/-! arg and ret (R275, R276). -/

/-- What arg J reads (R275, R369). -/
def argValue (j : Nat) (s : State) : Acc Word :=
  match s.frm.f with
  | some f => if j = 8 then .ok f s else s.nodeRead8 (f.toNat + 32 + 8 * j)
  | none => .ok (if j = 8 then 0 else s.frm.args.getD j 0) s

/-- arg (R275, R284, R288): before the frame's first cut the region keeps what it emits. Log entry 33. -/
def opNodeArg (n : NodeWord) : NOp :=
  let o := nodeBase 0x40 n
  { o with
    raw := true
    act := fun s =>
      let f := s.frm
      if f.argsFired.contains s.nodeIx ∨ (s.reg.target.isSome ∧ !f.started ∧ inCfg s.reg.header s.reg.rpc s.nodeIx) then .hold id
      else (argValue (n.imm.toNat % 16) s).bind (fun v s =>
        let toks := (o.dsts.filter (fun d => !noConsumer d)).map (fun (c, p) =>
          ({ pay := v, cls := 0, port := BitVec.ofNat 2 p, node := BitVec.ofNat 8 c, tag := s.tag } : Tok))
        o.word v (s.onFrm (fun f => { f with
          argsFired := f.argsFired ++ [s.nodeIx]
          startToks := if f.isCut then f.startToks else f.startToks ++ toks }))) }
/-- arg (R275, R284, R288): before the frame's first cut the region keeps what it emits. -/
def execNodeArg (n : NodeWord) (s : State) : Host.Outcome State Fault Refusal := .next ((opNodeArg n).fire s)

/-- A result J of value v returns to a frame's caller (R125, R276). -/
def retValue (j : Nat) (v : Word) (s : State) : Acc Unit :=
  let f := s.frm
  let status := f.status &&& ~~~(1#64 <<< j)
  let put (s : State) : Acc Unit :=
    match f.f with
    | none => .ok () s
    | some a =>
      (s.actWrite s.rid s.reg.ctxId a (a.toNat + 96 + 8 * j) v).bind (fun _ s =>
        (s.actWrite s.rid s.reg.ctxId a (a.toNat + 16) status).bind (fun _ s =>
          .ok () (s.onFrm (fun f => { f with status := status, results := f.results.set j v }))))
  match f.caller with
  | .thread op => (put s).bind (fun _ s => .ok () (s.fillResult op j v))
  | .node _ => put s
  | .record w7 =>
    if j = 0 ∧ recRvalid w7 then
      if 4 ≤ s.reg.inflight then .hold id
      else
        let me := regionSender s.rid
        .ok () ((s.onRegion s.rid (fun r => { r with inflight := r.inflight + 1 })).eventually
          (.event .replyDelivery (.reply w7 v s.reg.ctxId me)))
    else .ok () s
  | .unit _ => .ok () s

/-- ret (R276). Any token that comes first at a VOID ret counts as its firing; at another, a control token other than END is
dropped (R252). Log entry 33. -/
def opNodeRet (n : NodeWord) : NOp :=
  let o := nodeBase 0x41 n
  let j := n.imm.toNat % 4
  let void := n.imm.getLsbD 4
  let mark (s : State) : State := s.onFrm (fun f => { f with rets := f.rets ++ [s.nodeIx] })
  { o with
    raw := true
    act := fun s =>
      let fired := s.frm.rets.contains s.nodeIx
      match s.head 0 0 with
      | .none => .hold id
      | .ctl v =>
        if fired ∨ (ctlCode v ≠ 1 ∧ !void) then .ok () (s.pop 0 1)
        else (s.commit s.rid s.tag).bind (fun _ s => .ok () (mark (s.pop 0 1)))
      | .data ps =>
        if fired then
          if n.strict then .trap ⟨8, 2, 0, false, 0⟩
          else .ok () ((s.pop 0 1).onRegion s.rid (fun r => { r with mismatch := true }))
        else (s.commit s.rid s.tag).bind (fun _ s =>
          (if void then .ok () s else retValue j (ps.getD 0 0) s).bind (fun _ s => .ok () (mark (s.pop 0 1)))) }
/-- ret (R276). -/
def execNodeRet (n : NodeWord) (s : State) : Host.Outcome State Fault Refusal := .next ((opNodeRet n).fire s)

/-! call and tail (R279, R280). -/

/-- The checks of a resolved pointer (R118, R122): its tag and its address. -/
def pointerCheck (lvl : Level) (p : Word) : Option Cause :=
  let t := p &&& ~~~7
  match targetCheck lvl t with
  | some c => some c
  | none => if fld p 1 0 = 1 ∧ fld t 5 0 ≠ 0 then some (tTag p) else none

/-- Resolves a tagged pointer of a node (R122). The TVAL of a cell that holds no entry is the cell's address, as in R368. -/
def State.nodePointer (p : Word) (s : State) : Acc Word :=
  let done (p : Word) (s : State) : Acc Word :=
    (Acc.check (pointerCheck (ctxLevel s.reg.ctxId) p) s).bind (fun _ s => .ok p s)
  if tbit p 2 ∨ fld p 1 0 = 3 then .trap (tTag p)
  else if fld p 1 0 = 2 then (s.nodeRead8 (p &&& ~~~7).toNat).bind (fun q s =>
    if tbit q 2 ∨ 2 ≤ fld q 1 0 then .trap (tTag (p &&& ~~~7)) else done q s)
  else done p s

/-- The tokens of a call that are parked at a port of its node, those of another configuration in the carry store. -/
def State.parkedAt (s : State) (p : Nat) : List Tok :=
  s.atPort p ++ s.reg.carry.filter (fun t => t.tag == s.tag && t.node.toNat == s.nodeIx && t.port.toNat == p)
/-- Consumes n parked tokens of a port. -/
def State.takeParked (p n : Nat) (s : State) : State :=
  let me (t : Tok) : Bool := t.tag == s.tag && t.node.toNat == s.nodeIx && t.port.toNat == p
  let k := min n (s.atPort p).length
  (s.pop p k).onRegion s.rid (fun r => { r with carry := dropFirst me (n - k) r.carry })
/-- The argument stream that waits at port c: its words, when its END has come. -/
def State.argStream (s : State) : Option (List Word) :=
  let l := s.parkedAt 2
  match (l.dropWhile (fun t => t.cls != 2)).head? with
  | some e => if ctlCode e.pay = 1 then some ((l.takeWhile (fun t => t.cls != 2)).map (·.pay)) else none
  | none => none
/-- The consequence of more than 8 arguments (R253, R279). -/
def argExcess (n : NodeWord) (args : List Word) (s : State) : Acc Unit :=
  if args.length ≤ 8 then .ok () s
  else if n.strict then .trap ⟨8, 2, 0, false, 0⟩
  else .ok () (s.onRegion s.rid (fun r => { r with mismatch := true }))

/-- Places a callee of the current frame (R278, R279): on this region when it holds the G image and gives a tag, else a call
record to the Hamper of the cluster. `status` is what stands of the frame status. -/
def State.placeCallee (p f : Word) (caller : Caller) (status : Word) (me : Frame) (s : State) : Acc Unit :=
  let rid := s.rid
  let c := s.reg.ctxId
  let image := p &&& ~~~7
  let away (s : State) : State :=
    let (call, w7) := match caller with
      | .thread op => (1, match s.opThread op with
        | some (_, t) => replyTarget 0 (((t.callees.find? (fun q => q.1 == op)).map (fun q => q.2.2)).getD 0) 10 false
        | none => 0)
      | _ => (2, 0)
    s.sendRecord rid {
      words := s.callWords c f p me.cls call w7, fmt := me.fmt, sca := me.sca, sender := regionSender rid,
      fromRegion := true, counted := false, first := none, image := f }
  if fld p 1 0 = 1 ∧ s.reg.holds c image ∧ (s.cluster rid).reserved = none then
    (s.takeTag rid).bind (fun k s => match k with
      | none => .ok () (away s)
      | some k => s.frameStart rid k {
          f := some f, caller := caller, cls := me.cls, fmt := me.fmt, sca := me.sca, status := status })
  else .ok () (away s)

/-- Whether a call of the node whose turn it is is in course for its frame. -/
def State.calling (s : State) : Bool := s.frm.calls.any (fun c => c.node.toNat == s.nodeIx)

/-- A call's completion (R279): the tokens parked for it are consumed, and its results and status emitted. -/
def callEmit (o : NOp) (f : Word) (res : List Word) (status : Word) (s : State) : Acc Unit :=
  let nr := o.n.imm.toNat % 8
  let s := ((s.takeParked 0 1).takeParked 1 1).takeParked 2 ((s.argStream.getD []).length + 1)
  let s := s.onFrm (fun g => { g with calls := g.calls.filter (fun c => !(c.f == f && c.node.toNat == s.nodeIx)) })
  (Acc.each (fun v s => o.sendData 0 [v] [0] s) (res.take nr) s).bind (fun _ s =>
    (o.endTo 0 nr false [0] s).bind (fun _ s => o.sendData 0 [status] [1] s))
/-- A completion token at port d: results and status from the activation frame (R279). -/
def callToken (o : NOp) (t : Tok) (s : State) : Acc Unit :=
  let f := t.pay
  (s.nodeWords (f.toNat + 96) 4).bind (fun res s => (s.nodeRead8 (f.toNat + 16)).bind (fun st s =>
    callEmit o f res st (s.pop 3 1)))

/-- The call itself (R279): its tokens stay at the node's ports. -/
def callAct (o : NOp) (p f : Word) (args : List Word) (s : State) : Acc Unit :=
  (s.nodePointer p).bind (fun p s =>
    if fld f 5 0 ≠ 0 then .trap (tAlign f)
    else (argExcess o.n args s).bind (fun _ s =>
      let link : Word := BitVec.ofNat 64 (s.tag.toNat + s.rid * 2 ^ 16 + s.nodeIx * 2 ^ 23)
      let ws := [s.reg.image ||| 1, link, 0xF, 0] ++ (upto 8).map (fun i => (args.take 8).getD i 0) ++ [0, 0, 0, 0]
      (s.nodeWriteWords f.toNat ws).bind (fun _ s =>
        let ref : CallRef := { rid := s.rid, tag := s.tag, node := BitVec.ofNat 8 s.nodeIx, f := f }
        let s := s.onFrm (fun g => { g with calls := g.calls ++ [ref] })
        (s.cut s.rid (tagIdx s.tag)).bind (fun _ s =>
          s.placeCallee p f (.node ref) 0xF s.frm))))

/-- The END of ports a and b of call and of port a of tail (R253). -/
def callEnds (o : NOp) (ps : List Nat) (s : State) : Acc Unit :=
  let hs := ps.map (fun p => (p, s.head p 0))
  let ends := hs.filterMap (fun h => if h.2.isCode 1 then h.2.ctl? else none)
  let extra := hs.filter (fun h => h.2.isData)
  if ends.length = hs.length then
    let l := endLevel (ends.getD 0 0)
    let m := ends.any endMism || ends.any (fun e => endLevel e != l) || s.cnt 5 == 1
    let c := s.cnt 0
    o.endTo l c m o.outs (hs.foldl (fun s h => s.pop h.1 1) ((s.setCnt 0 0).setCnt 5 0))
  else if ends ≠ [] ∧ extra ≠ [] then .ok () ((extra.foldl (fun s h => s.popItem h.1 h.2) s).setCnt 5 1)
  else .hold id

/-- call (R279): one call of the node at a time for each frame. Log entry 37. -/
def opNodeCall (n : NodeWord) : NOp :=
  let o := nodeBase 0x42 n
  { o with
    own := true
    more := fun s => match (s.atPort 3).head? with
      | some t => some (callToken o t)
      | none => if s.calling then some (fun _ => .hold id) else none
    act := fun s => match s.head 0 0, s.head 1 0 with
      | .data a, .data b => match s.argStream with
        | some args => NOp.committed (fun s => callAct o (a.getD 0 0) (b.getD 0 0) args (s.setCnt 0 (s.cnt 0 + 1))) s
        | none => .hold id
      | _, _ => callEnds o [0, 1] s }
/-- call (R279): one call of the node at a time for each frame. -/
def execNodeCall (n : NodeWord) (s : State) : Host.Outcome State Fault Refusal := .next ((opNodeCall n).fire s)

/-- The tail call itself (R280): the frame ends without answering its caller, which the callee takes over. -/
def tailAct (o : NOp) (p : Word) (args : List Word) (s : State) : Acc Unit :=
  let me := s.frm
  match me.f with
  | none => .trap ⟨0, 6, 0, false, 0⟩
  | some f => (s.nodePointer p).bind (fun p s => (argExcess o.n args s).bind (fun _ s =>
      (s.nodeWriteWords (f.toNat + 32) (args.take 8)).bind (fun _ s =>
        (s.nodeWriteWords (f.toNat + 96) [0, 0, 0, 0]).bind (fun _ s =>
          (s.commit s.rid s.tag).bind (fun _ s =>
            (s.frameFree s.rid (tagIdx s.tag)).placeCallee p f me.caller me.status me)))))

/-- tail (R280). A frame without an activation frame has none to pass on: an operand outside the node's limit.
Log entry 37. -/
def opNodeTail (n : NodeWord) : NOp :=
  let o := nodeBase 0x43 n
  { o with
    own := true
    act := fun s => match s.head 0 0 with
      | .data a => match s.argStream with
        | some args => NOp.committed (tailAct o (a.getD 0 0) args) s
        | none => .hold id
      | _ => callEnds o [0] s }
/-- tail (R280). A frame without an activation frame has none to pass on: an operand outside the node's limit. -/
def execNodeTail (n : NodeWord) (s : State) : Host.Outcome State Fault Refusal := .next ((opNodeTail n).fire s)

/-! hsend (R281). -/

/-- The Hamper that hsend's MODE and port b name (R130, R281). -/
def hsendTarget (o : NOp) (b : Word) (s : State) : Acc Nat :=
  let die := dieOf s.rid
  match o.n.imm.toNat % 4 with
  | 0 => if fld b 63 7 ≠ 0 ∨ !s.present (fld b 6 0) then .trap (tIll (fld b 31 0)) else .ok (fld b 6 0) s
  | 1 => match s.nodeAt (.cluster s.rid) { va := b.toNat / 8 * 8, n := 8, al := 1, k := .load } with
    | .ok (.mem o) s => .ok (s.home o) s
    | .ok _ s => .ok (s.least die) s
    | .trap c => .trap { c with tval := b }
    | .hold f => .hold f
  | _ => .ok (s.least die) s

/-- hsend (R281). Log entry 37. -/
def opNodeHsend (n : NodeWord) : NOp :=
  let o := nodeBase 0x44 n
  { o with
    commits := true
    act := fun s =>
      if 4 ≤ s.reg.inflight then .hold id else
      let (v, t) := o.take s
      let a := (v.getD 0 []).getD 0 0
      if fld a 5 0 ≠ 0 then .trap (tAlign a)
      else (t.nodeWords a.toNat 8).bind (fun ws s => (Acc.check (recordCheck ws) s).bind (fun _ s =>
        (hsendTarget o ((v.getD 1 []).getD 0 0) s).bind (fun h s => o.accepted (fun s =>
          let f := s.frm
          let s := s.sendRecord h {
            words := s.recordWords s.reg.ctxId ws 0, fmt := f.fmt, sca := f.sca, sender := regionSender s.rid,
            fromRegion := true, counted := true, first := none, image := a }
          let s := s.onRegion s.rid (fun r => { r with inflight := r.inflight + 1 })
          (o.word 0 s).bind (fun _ s => s.cut s.rid (tagIdx s.tag))) s))) }
/-- hsend (R281). -/
def execNodeHsend (n : NodeWord) (s : State) : Host.Outcome State Fault Refusal := .next ((opNodeHsend n).fire s)

/-! Every node. -/

/-- The operation of a node's constructor. -/
def opNode (i : Instr) : Option NOp :=
  match i with
  | .nodeAdd n => some (opNodeAdd n)
  | .nodeSub n => some (opNodeSub n)
  | .nodeMul n => some (opNodeMul n)
  | .nodeMulh n => some (opNodeMulh n)
  | .nodeDiv n => some (opNodeDiv n)
  | .nodeAnd n => some (opNodeAnd n)
  | .nodeOr n => some (opNodeOr n)
  | .nodeXor n => some (opNodeXor n)
  | .nodeShl n => some (opNodeShl n)
  | .nodeShr n => some (opNodeShr n)
  | .nodeSra n => some (opNodeSra n)
  | .nodeCmp n => some (opNodeCmp n)
  | .nodeSel n => some (opNodeSel n)
  | .nodeMin n => some (opNodeMin n)
  | .nodeMax n => some (opNodeMax n)
  | .nodeFadd n => some (opNodeFadd n)
  | .nodeFmul n => some (opNodeFmul n)
  | .nodeFfma n => some (opNodeFfma n)
  | .nodeFcvt n => some (opNodeFcvt n)
  | .nodeFmin n => some (opNodeFmin n)
  | .nodeFmax n => some (opNodeFmax n)
  | .nodeDadd n => some (opNodeDadd n)
  | .nodeDmul n => some (opNodeDmul n)
  | .nodeDcmp n => some (opNodeDcmp n)
  | .nodeDtow n => some (opNodeDtow n)
  | .nodeWtod n => some (opNodeWtod n)
  | .nodeSteer n => some (opNodeSteer n)
  | .nodeMerge n => some (opNodeMerge n)
  | .nodeFan n => some (opNodeFan n)
  | .nodeGate n => some (opNodeGate n)
  | .nodeJoin n => some (opNodeJoin n)
  | .nodeIter n => some (opNodeIter n)
  | .nodeDrop n => some (opNodeDrop n)
  | .nodeWsplit n => some (opNodeWsplit n)
  | .nodeWjoin n => some (opNodeWjoin n)
  | .nodeAg n => some (opNodeAg n)
  | .nodeLdp n => some (opNodeLdp n)
  | .nodeStp n => some (opNodeStp n)
  | .nodeLdl n => some (opNodeLdl n)
  | .nodeAtom n => some (opNodeAtom n)
  | .nodeFence n => some (opNodeFence n)
  | .nodeAcc n => some (opNodeAcc n)
  | .nodeAccx n => some (opNodeAccx n)
  | .nodeArg n => some (opNodeArg n)
  | .nodeRet n => some (opNodeRet n)
  | .nodeCall n => some (opNodeCall n)
  | .nodeTail n => some (opNodeTail n)
  | .nodeHsend n => some (opNodeHsend n)
  | .nodeMark n => some (opNodeMark n)
  | .nodeEnd n => some (opNodeEnd n)
  | .nodeFlush n => some (opNodeFlush n)
  | .nodeReset n => some (opNodeReset n)
  | .nodeSwitch n => some (opNodeSwitch n)
  | .nodeConst n => some (opNodeConst n)
  | _ => none
/-- The operation of node i of a region's image. -/
def Region.nodeOp (r : Region) (i : Nat) : Option NOp := (r.nodes[i]?).bind (fun w => (decodeNode w).bind opNode)

end Sys2Proof.Machine
end

