-- ==== Sys2Proof/Machine/Drain.lean ====
section
/-! DEFINITION. Completions of calls, configuration switches, withheld tokens, and the drain, the image and the restore of a
region; reinjection and abandonment of a faulted frame (08, R279, R284, R288; 13, R412, R416 to R418). -/

namespace Sys2Proof.Machine
open Sys2Proof

/-! What may fire. -/

/-- The nodes and tags that have something to fire on: tokens of the current configuration, sequences being emitted, and arg
nodes that have not fired for a running frame. -/
def Region.firings (r : Region) : List (Nat × BitVec 16) :=
  let live := r.frames.filter (fun (k, f) => decide (k < 256) && (f.st == .live || f.st == .quiescent))
  let args := (r.nodesOf 0x40).filter r.here
  (r.toks.map (fun t => (t.node.toNat, t.tag))
    ++ live.flatMap (fun (k, f) =>
      (f.nst.map (·.1)).map (fun n => (n, f.tag k)) ++ (args.filter (fun n => !f.argsFired.contains n)).map (fun n => (n, f.tag k))
    )).eraseDups
/-- Whether some node of a region can fire (R417). -/
def State.canFire (rid : Nat) (s : State) : Bool :=
  let r := s.region rid
  r.firings.any (fun (n, tag) => match r.nodeOp n with
    | some o => o.ready { s with curNode := (rid, n, tag) }
    | none => false)

/-! The switch of configurations (R284). -/

/-- The nodes of the current configuration that a token of it stands at, save tokens of quiescent frames, that emit for a frame, or whose
arg has yet to fire for a frame that has started. -/
def Region.sources (r : Region) : List Nat :=
  let live := r.frames.filter (fun (k, f) => decide (k < 256) && f.st == .live)
  let old (n : Nat) : Bool := inCfg r.header r.rpc n && r.here n
  let args := r.nodesOf 0x40
  (((r.toks.filter (fun t => (r.frame (tagIdx t.tag)).st != .quiescent)).map (fun t => t.node.toNat)).filter old
    ++ live.flatMap (fun (_, f) => if r.emitting f then f.nst.map (·.1) else [])
    ++ live.flatMap (fun (_, f) => if f.started then (args.filter old).filter (fun n => !f.argsFired.contains n) else [])).eraseDups
/-- The nodes of the current configuration that tokens at the first given nodes can still reach, beside those already found. -/
def Region.reach (r : Region) : Nat → List Nat → List Nat → List Nat
  | 0, _, seen => seen
  | _, [], seen => seen
  | fuel + 1, i :: t, seen =>
    if seen.contains i then r.reach fuel t seen
    else
      let next := match r.node i with
        | some (opc, n) => ((consumers opc n).filter (fun c => !noConsumer c && inCfg r.header r.rpc c.1)).map (·.1)
        | none => []
      r.reach fuel (next ++ t) (i :: seen)
/-- The tiles that a token of the current configuration stands at or can still reach. -/
def Region.busyTiles (r : Region) : List Nat := (r.reach 2048 r.sources []).map r.tileOf
/-- Whether the current configuration has retired behind its last token, save frames that are quiescent. -/
def Region.retired (r : Region) : Bool := r.sources == []
/-- The tokens of the carry store whose configuration is placed reach their nodes; a configuration that the region leaves takes none. -/
def Region.uncarry (r : Region) : Region :=
  let home (t : Tok) : Bool := r.here t.node.toNat && (r.taken == [] || r.target == some (r.cfgOf t.node.toNat))
  { r with toks := r.toks ++ r.carry.filter home, carry := r.carry.filter (fun t => !home t) }
/-- Evicts every frame whose tokens are all parked at call nodes of the current configuration. -/
def State.evictQuiet (rid : Nat) (s : State) : Acc Unit :=
  let r := s.region rid
  let ks := (upto 256).filter (fun k => (r.frame k).st == .quiescent && r.toks.any (fun t => tagIdx t.tag == k))
  (Acc.each (fun k s => State.evict rid k s) ks s).bind (fun _ s => .ok () s)
/-- Each tile that the last token of the current configuration has left takes its node of configuration t; when all have, RPC holds
t (R284). -/
def Region.advance (r : Region) (t : Nat) : Region :=
  if r.retired then Region.uncarry { r with rpc := t, target := none, taken := [] }
  else Region.uncarry { r with taken := (upto 64).filter (fun i => r.taken.contains i || !r.busyTiles.contains i) }
/-- The sequencer's work on a SWITCH. Log entry 36. -/
def State.switchNow (rid : Nat) (s : State) : State :=
  match (s.region rid).target with
  | none => s
  | some t =>
    if (s.region rid).draining then s
    else match (s.sequencer rid).evictQuiet rid with
    | .ok _ s => s.onRegion rid (fun r => r.advance t)
    | .hold f => f s
    | .trap _ => s
/-- CONFIGURATION_SWITCH (R284). -/
def execConfigurationSwitch (s : State) : Host.Outcome State Fault Refusal :=
  match s.ev with
  | .unit rid => .next (s.switchNow rid)
  | _ => .next s

/-! Regions and images. -/

/-- Runs `f` with r standing as region rid, and gives what became of it; the region that stood there stands again. What it sends to
another device, the region that stands there sends. -/
def State.asRegion (rid : Nat) (r : Region) (f : State → Acc Unit) (s : State) : Acc Region :=
  let keep := s.region rid
  (f (s.onRegion rid (fun _ => { r with remote := keep.remote }))).bind (fun _ t =>
    .ok { (t.region rid) with remote := [] } (t.onRegion rid (fun x => { keep with remote := x.remote })))

/-- Delivers the tokens of a record or an image. -/
def State.deliverAll (rid : Nat) : List Tok → State → Acc Unit
  | [], s => .ok () s
  | t :: l, s => (s.deliver rid t).bind (fun _ s => State.deliverAll rid l s)

/-- An image that waits for a page is queued for placement when the page has come (R417). Log entry 36. -/
def State.imageQueue (b : Nat) (s : State) : State :=
  match Tab.find b s.images with
  | none => s
  | some m =>
    if m.queued then s
    else ({ s with images := s.images.put b { m with queued := true, page := none } }).enqueue m.rid (min 7 (s.prioCeil m.ctx))
      (.image b)


/-! Withheld tokens (R271, R361, R416). -/

/-- PORT_REWALK (R416, R422, R428): a withheld token walks again; a page whose Read failed fails each access that waited for
it, those of frames in an image once it is placed. -/
def State.rewalkPort (rid : Nat) (fail : Bool) (x : Nat) (s : State) : State :=
  let node := x % 256
  let tag := BitVec.ofNat 16 (x / 256)
  let entry := x / 2 ^ 24
  let miss (r : Region) : Region :=
    if r.runs tag then { r with failed := r.failed ++ [(entry, node, tag)] } else r
  let failing := fail && (node == 255 || (s.region rid).withheld.any (fun w => w.node.toNat == node && w.tag == tag))
  let s := if failing then s.onRegion rid (fun r => { r with failed := r.failed ++ [(entry, node, tag)] }) else s
  let s := if failing then s else s.images.foldl (fun s (b, m) =>
    if m.rid ≠ rid then s
    else
      let s := if fail then { s with images := s.images.put b { m with rest := miss m.rest } } else s
      if m.page = some entry then s.imageQueue b else s) s
  let here (w : Withheld) : Bool := w.node.toNat == node && w.tag == tag
  if (s.region rid).withheld.any here then
    (s.onRegion rid (fun r => { r with
      withheld := r.withheld.map (fun w => if here w then { w with again := true } else w) })).later (.fire rid node tag)
  else s
/-- PORT_REWALK (R416). -/
def execPortRewalk (s : State) : Host.Outcome State Fault Refusal :=
  match s.ev with
  | .pair a x => .next (s.rewalkPort (a / 2) (a % 2 == 1) x)
  | _ => .next s

/-! Drains (R417, R418). -/

/-- The end of a drain that no withheld token caused. -/
def noCause : Nat := 2 ^ 24

/-- A drain begins; `x` names the withheld token that caused it. -/
def State.drainStart (rid x : Nat) (s : State) : State :=
  if (s.region rid).draining then s
  else (s.onRegion rid (fun r => { r with draining := true, drain := true })).later
    (.event .regionDrain (.pair (2 * rid + 1) x))

/-- Cuts every running frame of a draining region (R417 step 3). A commit that fails faults its frame, at the node that withheld
its token for that when the drain has one. -/
def State.drainCuts (rid : Nat) (w : Option Withheld) (s : State) : Acc Unit :=
  let r := s.region rid
  let ks := (upto 256).filter (fun k => (r.frame k).st == .live || (r.frame k).st == .quiescent)
  (Acc.each (fun k s => match s.cut rid k with
    | .trap c => s.frameFault rid k ((w.filter (fun w => w.tag == (r.frame k).tag k)).map (fun w => w.node.toNat)) c
    | a => a) ks s).bind (fun _ s => .ok () s)

/-- The two bytes of a frame-table entry in an image (R418). -/
def Frame.entry (f : Frame) : Nat :=
  (match f.st with
    | .free => 0
    | .live => 1
    | .quiescent => 2
    | .evicted => 3
    | .faulted => 4) + f.gen.toNat * 256
def FrameSt.ofCode (n : Nat) : FrameSt :=
  match n with
  | 1 => .live
  | 2 => .quiescent
  | 3 => .evicted
  | 4 => .faulted
  | _ => .free

/-- RSTAT (R31). -/
def Region.rstat (r : Region) : Nat :=
  (if r.mismatch then 1 else 0) + (if r.stale then 2 else 0) + (if r.fault then 4 else 0) + (if r.drain then 8 else 0)

/-- Every token of a drained region, its state words as tokens of port d. -/
def Region.allToks (r : Region) : List Tok :=
  let live := r.frames.filter (fun (k, f) => decide (k < 256) && (f.st == .live || f.st == .quiescent))
  (r.toks ++ r.carry) ++ live.flatMap (fun (k, f) => f.nst.flatMap (fun (n, ws) => ws.map (fun w =>
    { pay := w, cls := 0, port := 3, node := BitVec.ofNat 8 n, tag := f.tag k })))

/-- Writes a region image into block b (R418). -/
def State.imageWrite (rid b : Nat) (s : State) : State :=
  let r := s.region rid
  let toks := r.allToks
  let table := (upto 64).map (fun i => BitVec.ofNat 64 (ofElems 16 ((upto 4).map (fun j => (r.frame (4 * i + j)).entry))))
  let s := s.pwrWords (b + 64) ((upto 16).map (fun j => r.rcfg.getD j 0))
  let s := s.pwrWords (b + 192) [BitVec.ofNat 64 (r.rpc + r.rstat * 256), BitVec.ofNat 64 toks.length]
  let s := s.pwrWords (b + 256) table
  let s := s.pwrWords (b + 768) ((upto 256).map (fun k => (r.frame k).cut))
  s.pwrWords (b + 4096) (toks.flatMap (fun t => [t.pay, t.route]))

/-- What the device keeps of a region beside its image, which goes into block b; the region becomes free (R417, R418). -/
def State.imageKeep (rid b : Nat) (page : Option Nat) (s : State) : State :=
  let r := s.region rid
  let m : Image := {
    rid := rid, ctx := r.ctxId, page := page
    rest := { r with
      toks := [], carry := [], draining := false, withheld := [], remote := [], busy := []
      frames := r.frames.map (fun (k, f) => (k, if k < 256 then { f with nst := [] } else f)) } }
  let s := s.imageWrite rid b
  State.regionFree rid true { s with images := s.images.put b m }
/-- Makes a free region ready for another configuration: one whose frames are all in memory leaves for its save block, where their
completions find them. Log entry 36. -/
def State.regionLeave (rid : Nat) (s : State) : State :=
  let r := s.region rid
  match r.area with
  | some b => if r.empty then s.regionFree rid false else s.imageKeep rid b none
  | none => s.regionFree rid false

/-- The last steps of a drain (R417 steps 3 to 5). When what caused the drain is over, or is a migration, the image is queued for
placement at once. Log entry 36. -/
def State.drainEnd (rid x : Nat) (s : State) : Acc Unit :=
  let cause := (s.region rid).withheld.find? (fun w => w.node.toNat + 256 * w.tag.toNat == x)
  (s.drainCuts rid cause).bind (fun _ s =>
    let stop : Acc Unit := match cause with
      | some w => if w.page.isNone ∧ (s.region rid).runs w.tag then s.frameFault rid (tagIdx w.tag) (some w.node.toNat) w.cause else .ok () s
      | none => .ok () s
    stop.bind (fun _ s =>
    let block : Acc Nat := match (s.region rid).area with
      | some b => .ok b s
      | none => (s.areaTake rid 0).bind (fun a s => .ok (a - 2 ^ 20) s)
    block.bind (fun b s =>
    let (pg, ended) : Option Nat × Bool := match cause with
      | some w => if w.moving then (none, true) else (w.page, false)
      | none => (none, x != noCause)
    let s := s.imageKeep rid b pg
    .ok () (if ended then s.imageQueue b else s))))

/-- REGION_DRAIN (R416, R417): the drain limit of a withheld token has passed; or the drain goes on. Log entry 36. -/
def State.drainTurn (rid : Nat) (going : Bool) (x : Nat) (s : State) : State :=
  let again (s : State) : State := s.after 1 (.event .regionDrain (.pair (2 * rid + 1) x))
  if going then
    if !(s.region rid).draining then s
    else if s.canFire rid ∨ (s.region rid).remote.any (fun e => e.node < 255 && e.answer.isNone) then again s
    else match State.drainEnd rid x (s.sequencer rid) with
      | .ok _ s => s
      | .hold f => again (f s)
      | .trap _ => again s
  else match (s.region rid).withheld.find? (fun w => w.node.toNat + 256 * w.tag.toNat == x) with
    | none => s
    | some w =>
      if w.moving then s
      else if s.cycle < w.since + s.drainAc then
        s.after (w.since + s.drainAc - s.cycle) (.event .regionDrain (.pair (2 * rid) x))
      else s.drainStart rid x
/-- REGION_DRAIN (R416, R417). -/
def execRegionDrain (s : State) : Host.Outcome State Fault Refusal :=
  match s.ev with
  | .pair a x => .next (s.drainTurn (a / 2) (a % 2 == 1) x)
  | _ => .next s

/-! Placement of images (R96, R262, R284, R390, R408, R410). -/

/-- Reads a word of an image for placement: it needs X on its page (R262). The platform blocks serve no such read (R410). -/
def State.imageWord (rid : Nat) (c : BitVec 12) (va : Nat) (s : State) : Acc Word :=
  let q : Req := { va := va, n := 8, al := 8, k := .place, plain := false }
  (s.landAt false (.cluster rid) c q).orTrap.bind (fun l s => (s.regionGet q l c).orTrap.bind (fun v s =>
    .ok (BitVec.ofNat 64 v) s))
def State.imageWords (rid : Nat) (c : BitVec 12) (va n : Nat) (s : State) : Acc (List Word) :=
  Acc.each (fun i s => s.imageWord rid c (va + 8 * i)) (upto n) s

/-- The ports of a region serve a context: one that served another clears its 16 ranges (R408). -/
def State.portsServe (rid : Nat) (c : BitVec 12) (s : State) : State :=
  s.onRegion rid (fun r => (upto 8).foldl (fun r p =>
    if Tab.find p r.lastCtx = some c then r else { r with ranges := r.ranges.del p, lastCtx := r.lastCtx.put p c }) r)
/-- Places an image on a region that is free (R96, R284, R390): RCTX, RCFG, RPC 0 and the nodes. A rejected image places
nothing; where the context lacks the graph feature the placement is refused (R311). -/
def State.placeImage (rid : Nat) (c : BitVec 12) (img : Word) (s : State) : Acc (Option Cause) :=
  if !s.feature c 0 then .trap (tFeature 0)
  else (s.imageWords rid c img.toNat 8).bind (fun h s =>
    if !headerOk h then .ok (imageCheck h []) s
    else (s.imageWords rid c (img.toNat + 64) (imgNnode h)).bind (fun ws s =>
      match imageCheck h ws with
      | some e => .ok (some e) s
      | none =>
        let s := if (s.region rid).nodes = [] ∧ (s.region rid).ctx = some c then s else s.regionLeave rid
        .ok none (((s.portsServe rid c).powerUp rid).onRegion rid (fun r => { r with
          ctx := some c, image := img, header := h, nodes := ws, rpc := 0,
          rcfg := List.replicate (imgNcfg h + 1) img }))))

/-- Places an image; a trap is a cause that rejects it (R302, R311). -/
def State.placeOr (rid : Nat) (c : BitVec 12) (img : Word) (s : State) : Acc (Option Cause) :=
  match s.placeImage rid c img with
  | .trap c => .ok (some c) s
  | y => y

/-! Completions (R33, R279). -/

/-- Reloads the evicted frame at key k of the frame table under a new tag (R33); none while no tag can be had. On a region that holds
no configuration its image is placed first, and where it cannot be placed any more the frame faults (R302, R311). -/
def State.reload (rid k : Nat) (s : State) : Acc (Option Nat) :=
  (if (s.region rid).nodes = [] then s.placeOr rid (s.region rid).ctxId (s.region rid).image else .ok none s).bind (fun bad s =>
  (s.takeTag rid).bind (fun j s => match j with
    | none => .ok none s
    | some j =>
      let r := s.region rid
      let f := r.frame k
      let old := r.frame (k % 256)
      let g := { f with st := .live, gen := (r.frame j).gen + 1, back := false }
      let fs := r.frames.del k
      let fs := if k % 256 ≠ j ∧ old.st = .evicted ∧ old.gen = f.gen then fs.put (k % 256) { gen := old.gen } else fs
      let s := (s.powerUp rid).onRegion rid (fun r => { r with frames := fs.put j g })
      let come : Acc Unit := match bad with
        | some c => s.frameFault rid j none c
        | none => s.deliverAll rid ((s.cutRead f.cut.toNat).map (fun t => { t with tag := g.tag j }))
      come.bind (fun _ s => .ok (some j) s)))

/-- Takes a call out of a frame's calls in course. -/
def Frame.uncall (f : Frame) (c : CallRef) : Frame :=
  { f with calls := f.calls.filter (· != c), cutCalls := f.cutCalls.filter (· != c) }

/-- Delivers a completion to the call node of running frame k. -/
def State.complete (rid k : Nat) (c : Completion) (s : State) : State :=
  let r := s.region rid
  match r.nodeOp c.node.toNat with
  | none => s
  | some o =>
    NOp.fireNow { o with raw := true, more := fun _ => none, act := callEmit o c.f c.res c.status }
      { s with curNode := (rid, c.node.toNat, (r.frame k).tag k) }

/-- Adds a completion token to the cut record of frame k of a region (R279). -/
def State.completeCut (rid k : Nat) (ref : CallRef) (s : State) : Acc Unit :=
  let f := (s.region rid).frame k
  (s.cutAdd rid k [ref.tok (f.tag k)]).bind (fun _ s => (s.cutPointer rid k f.cut).bind (fun _ s =>
    .ok () (s.onFrame rid k (fun f => { f.uncall ref with back := f.st == .evicted }))))

/-- CALL_COMPLETION (R279): to the calling frame where it stands; one that is faulted or in an image keeps it as a completion
token, and one that is evicted is reloaded (R33), from an image once that is placed again. -/
def State.callDone (c : Completion) (s : State) : State :=
  let ref : CallRef := { rid := c.rid, tag := c.tag, node := c.node, f := c.f }
  let again (s : State) : State := s.after 2 (.event .callCompletion (.completion c))
  let at? (r : Region) : Option Nat := (r.frames.find? (fun (_, f) => f.calls.contains ref)).map (·.1)
  match s.regions.findSome? (fun (rid, r) => (at? r).map (fun k => (rid, k))) with
  | some (rid, k) =>
    let s := s.sequencer rid
    let f := (s.region rid).frame k
    if f.st = .faulted then
      match s.completeCut rid k ref with
      | .ok _ s => s
      | .hold g => again (g s)
      | .trap _ => s
    else if (s.region rid).draining then again s
    else if f.st = .evicted then
      match s.reload rid k with
      | .ok (some j) s => again (s.complete rid j c)
      | .ok none s => again s
      | .hold g => again (g s)
      | .trap _ => again s
    else again (s.complete rid k c)
  | none => match s.images.findSome? (fun (b, m) => (at? m.rest).map (fun k => (b, m, k))) with
    | none => s
    | some (b, m, k) =>
      let s := s.sequencer m.rid
      let f := m.rest.frame k
      if f.st = .faulted ∨ f.st = .evicted then
        match s.asRegion m.rid m.rest (fun s => s.completeCut m.rid k ref) with
        | .ok r s =>
          let s := { s with images := s.images.put b { m with rest := r } }
          let x := s.ctx m.ctx
          if f.st = .evicted ∧ !x.saved ∧ !x.saving then s.imageQueue b else s
        | .hold g => again (g s)
        | .trap _ => s
      else
        let n := (s.prd8 (b + 200)).toNat
        let t := ref.tok (f.tag k)
        let s := (s.pwrWords (b + 4096 + 16 * n) [t.pay, t.route]).pwr8 (b + 200) (BitVec.ofNat 64 (n + 1))
        { s with images := s.images.put b { m with rest := { m.rest with frames := m.rest.frames.put k (f.uncall ref) } } }
/-- Evicted frames of a region whose completion has come are reloaded, as tags come free (R33). -/
def State.reloadBack (rid : Nat) (s : State) : State :=
  let s := s.sequencer rid
  let again (s : State) : State := s.after 2 (.event .callCompletion (.unit rid))
  match ((s.region rid).frames.find? (fun (_, f) => f.st == .evicted && f.back)).map (·.1) with
  | none => s
  | some k =>
    if (s.region rid).draining then again s
    else match s.reload rid k with
    | .ok _ s => again s
    | .hold g => again (g s)
    | .trap _ => again s
/-- CALL_COMPLETION (R279). -/
def execCallCompletion (s : State) : Host.Outcome State Fault Refusal :=
  match s.ev with
  | .completion c => .next (s.callDone c)
  | .unit rid => .next (s.reloadBack rid)
  | _ => .next s

/-! Restore (R418). -/

/-- The frame table of an image: states, generations and cut pointers as the block holds them, the rest as the device kept
it. -/
def State.imageFrames (s : State) (b : Nat) (fs : Tab Frame) : Tab Frame :=
  (upto 256).foldl (fun (t : Tab Frame) k =>
    let e := fld (s.prd8 (b + 256 + 8 * (k / 4))) (16 * (k % 4) + 15) (16 * (k % 4))
    let cut := s.prd8 (b + 768 + 8 * k)
    if e = 0 ∧ cut = 0 then t.del k
    else t.put k { (t.getD {} k) with st := FrameSt.ofCode (e % 8), gen := BitVec.ofNat 8 (e / 256), cut := cut }) fs

/-- The tokens of an image. -/
def State.imageToks (s : State) (b : Nat) : List Tok :=
  (upto (s.prd8 (b + 200)).toNat).map (fun i => tokOf (s.prd8 (b + 4096 + 16 * i)) (s.prd8 (b + 4104 + 16 * i)))

/-- What the device kept of a drained region stands again, with what the block holds of it. -/
def State.imageState (rid b : Nat) (m : Image) (nodes header : List Word) (s : State) : State :=
  let w := s.prd8 (b + 192)
  let fs := s.imageFrames b m.rest.frames
  let rcfg := ((upto 16).map (fun j => s.prd8 (b + 64 + 8 * j))).take m.rest.rcfg.length
  State.onRegion rid (fun r => { m.rest with
    ctx := some m.ctx, image := rcfg.headD 0, rcfg := rcfg, nodes := nodes, header := header, rpc := fld w 3 0
    mismatch := tbit w 8, stale := tbit w 9, fault := tbit w 10, drain := tbit w 11, frames := fs
    taken := [], inflight := r.inflight, ranges := r.ranges, lastCtx := r.lastCtx }) { s with images := s.images.del b }

/-- Restores a region image on its cluster's region, which is free (R418). An image whose configuration cannot be placed any
more comes back with its running frames faulted (R302, R311), and its evicted frames fault as their completions reload them; so does
one with a poisoned line, a fatal event (R403). Log entries 36, 59. -/
def State.imageRestore (b : Nat) (s : State) : Acc Unit :=
  match Tab.find b s.images with
  | none => .ok () s
  | some m =>
    let rid := m.rid
    let s := s.sequencer rid
    let toks := s.imageToks b
    let left := if (s.region rid).nodes = [] then s else s.regionLeave rid
    let placed : Acc (Option Cause) := left.placeImage rid m.ctx (s.prd8 (b + 64))
    let broken (kind : Nat) (c : Cause) (s : State) : Acc Unit :=
      let s := State.imageState rid b m [] [] s
      let s := if kind = 3 then s.trapRecord ((s.region rid).record rid 0 3 (rejectNode c) c)
        else if kind = 7 then s.trapRecord {
          kind := 7, cause := c, loc := BitVec.ofNat 64 b, unit := rid, level := (ctxLevel m.ctx).code, ctx := m.ctx }
        else s
      let ks := (upto 256).filter (fun k => ((s.region rid).frame k).st == .live || ((s.region rid).frame k).st == .quiescent)
      (Acc.each (fun k s => s.frameFault rid k none c) ks s).bind (fun _ s => .ok () (s.soonEv .callCompletion (.unit rid)))
    match (s.areaError b 2816).or (s.areaError (b + 4096) (16 * toks.length)), placed with
    | some c, _ => broken 7 c left
    | _, .hold f => .hold f
    | _, .trap c => broken 1 c left
    | _, .ok (some c) s => broken 3 c s
    | _, .ok none s =>
      let r := s.region rid
      ((State.imageState rid b m r.nodes r.header s).deliverAll rid toks).bind (fun _ s =>
        .ok () (s.soonEv .callCompletion (.unit rid)))

/-! Reinjection and abandonment (R101, R288, R412). -/

/-- Where a faulted frame of a context with its cut record at a stands: a region or an image, and its key. -/
def State.faultedAt (c : BitVec 12) (a : Word) (s : State) : Option (Sum Nat Nat × Nat) :=
  let at? (r : Region) : Option Nat := (r.frames.find? (fun (k, f) => decide (k < 256) && f.st == .faulted && f.cut == a)).map (·.1)
  match s.regions.findSome? (fun (rid, r) => if r.ctx = some c then (at? r).map (fun k => (Sum.inl rid, k)) else none) with
  | some w => some w
  | none => s.images.findSome? (fun (b, m) => if m.ctx = c then (at? m.rest).map (fun k => (Sum.inr b, k)) else none)

/-- Whether a token entry of a cut record is bad (R101). -/
def tokBad (r : Region) (tag : BitVec 16) (p w : Word) : Bool :=
  let t := tokOf p w
  t.cls == 3 || fld w 63 32 != 0 || fld w 15 12 != 0 || t.tag != tag || decide (r.nodes.length ≤ t.node.toNat)
    || (match r.node t.node.toNat with
      | none => true
      | some (opc, n) => !((dataPorts opc n).any (fun q => q.1 == t.port.toNat) || (t.port == 3 && (hasState opc || opc == 0x42))))

/-- Reinjects faulted frame k of a placed region (R288): a bad record leaves it faulted with T-ILL, SUB 0x04. -/
def State.reinjectAt (rid k : Nat) (s : State) : Acc Unit :=
  let r := s.region rid
  let f := r.frame k
  let cut := f.cut.toNat
  let n := fld (s.prd8 cut) 47 32
  if (upto n).any (fun i => tokBad r (f.tag k) (s.prd8 (cut + 32 + 16 * i)) (s.prd8 (cut + 40 + 16 * i))) then
    let c : Cause := ⟨0, 4, 0, false, 0⟩
    .ok () ((s.pwr8 (cut + 16) (faultWord none c)).trapRecord (r.record rid k 1 0 c))
  else (s.onFrame rid k (fun f => { f with st := .live, nst := [] })).deliverAll rid (s.cutRead cut)

/-- REINJECT of a frame (R412). On a region that holds no configuration its image is placed first. A frame of an image moves to
its cluster's region, under a new tag and with a record of its own there; it waits while that region serves another
configuration. -/
def State.reinject (w : Sum Nat Nat × Nat) (s : State) : Acc Unit :=
  match w with
  | (.inl rid, k) =>
    let s := s.sequencer rid
    let r := s.region rid
    if r.nodes ≠ [] then s.reinjectAt rid k
    else (s.placeOr rid r.ctxId r.image).bind (fun e s => match e with
      | none => s.reinjectAt rid k
      | some c => s.frameFault rid k none c)
  | (.inr b, k) => match Tab.find b s.images with
    | none => .ok () s
    | some m =>
      let rid := m.rid
      let s := s.sequencer rid
      let r := s.region rid
      let f := m.rest.frame k
      let fits := r.holds m.ctx m.rest.image
      if !fits ∧ !r.idle then .hold id else
      (if fits then .ok none s else s.placeOr rid m.ctx m.rest.image).bind (fun e s => match e with
        | some c => (s.asRegion rid m.rest (State.frameFault rid k none c)).bind (fun x s =>
            .ok () { s with images := s.images.put b { m with rest := x } })
        | none =>
          let n := fld (s.prd8 f.cut.toNat) 47 32
          if (upto n).any (fun i => tokBad (s.region rid) (f.tag k) (s.prd8 (f.cut.toNat + 32 + 16 * i))
              (s.prd8 (f.cut.toNat + 40 + 16 * i))) then
            let c : Cause := ⟨0, 4, 0, false, 0⟩
            .ok () ((s.pwr8 (f.cut.toNat + 16) (faultWord none c)).trapRecord (m.rest.record rid k 1 0 c))
          else (s.takeTag rid).bind (fun j s => match j with
            | none => .hold id
            | some j =>
              let g := { f with st := .live, gen := ((s.region rid).frame j).gen + 1, cut := 0, allot := 0, nst := [] }
              let toks := (s.cutRead f.cut.toNat).map (fun t => { t with tag := g.tag j })
              let s := s.onRegion rid (fun r => { r with frames := r.frames.put j g })
              let s := { s with images := s.images.put b { m with rest := { m.rest with
                frames := m.rest.frames.put k { gen := f.gen } } } }
              let s := s.pwr8 (b + 256 + 8 * (k / 4)) (setFld (s.prd8 (b + 256 + 8 * (k / 4))) (16 * (k % 4) + 15) (16 * (k % 4))
                (f.gen.toNat * 256))
              (s.writeCut rid j 0 toks).bind (fun _ s => (s.cutPointer rid j 0).bind (fun _ s => s.deliverAll rid toks))))

/-- The cause that a fault word records (R34). -/
def faultCause (w : Word) : Cause := ⟨fld w 11 8, fld w 31 24, fld w 63 32, false, 0⟩

/-- ABANDON of a frame (R288, R412). -/
def State.abandon (w : Sum Nat Nat × Nat) (s : State) : Acc Unit :=
  match w with
  | (.inl rid, k) =>
    let f := (s.region rid).frame k
    (s.sequencer rid).frameAbandon rid k (faultCause (s.prd8 (f.cut.toNat + 16)))
  | (.inr b, k) => match Tab.find b s.images with
    | none => .ok () s
    | some m =>
      let f := m.rest.frame k
      ((s.sequencer m.rid).asRegion m.rid m.rest (State.frameAbandon m.rid k
        (faultCause (s.prd8 (f.cut.toNat + 16))))).bind (fun r s =>
          if r.area.isNone then .ok () { s with images := s.images.del b }
          else
            let s := { s with images := s.images.put b { m with rest := r } }
            .ok () (s.pwr8 (b + 256 + 8 * (k / 4)) (setFld (s.prd8 (b + 256 + 8 * (k / 4))) (16 * (k % 4) + 15) (16 * (k % 4))
              (f.gen.toNat * 256))))

end Sys2Proof.Machine
end

