-- ==== Sys2Proof/Machine/Place.lean ====
section
/-! DEFINITION. Placement of parties, threads and frames (11, R345 to R347; 12, R367 to R369, R389, R390). -/

namespace Sys2Proof.Machine
open Sys2Proof

/-! Slots and contexts of a Spindle. -/

def State.freeSlots (s : State) (g : Nat) : List Nat := (upto 16).filter (fun i => (Tab.find (16 * g + i) s.threads).isNone)
/-- The contexts that a Spindle serves. -/
def State.serves (s : State) (g : Nat) : List (BitVec 12) :=
  ((s.threads.filter (fun (k, _) => gspOf k == g)).map (fun (_, t) => t.ctx)).eraseDups
/-- Whether a Spindle serves at most three other contexts. -/
def State.mayServe (s : State) (g : Nat) (c : BitVec 12) : Bool := decide (((s.serves g).filter (· != c)).length ≤ 3)

/-- A thread as its placement makes it (R367): the registers named, every other one 0, all full; its generator seeded (R65).
Log entry 3. -/
def State.newThread (s : State) (c : BitVec 12) (cls : Nat) (entry : Word) (xs : List (Nat × Word)) (fmt : Word)
    (sca : List Word) (serial : Word) (n : Nat) : Thread :=
  { x := xs.foldl (fun (t : Tab Word) (r, v) => t.put r v) [], fmt := fmt
    sca0 := sca.getD 0 0, sca1 := sca.getD 1 0, sca2 := sca.getD 2 0, sca3 := sca.getD 3 0
    pc := entry &&& ~~~7, level := if c = 0 then .supervisor else .user, ctx := c, cls := cls, launch := serial
    nidx := BitVec.ofNat 32 n, rng := (upto 16).map (rngSeed (s.desc c 5) serial n) }

/-- Puts a thread into the lowest free slot of a Spindle and into its ready queue: its key (R128, R134, R392). -/
def State.birth (g : Nat) (t : Thread) (s : State) : Nat × State :=
  let slot := (s.freeSlots g).headD 0
  let key := 16 * g + slot
  let (uid, s) := s.newId
  let t := { t with uid := uid, replygen := (s.spindle g).gens.getD 0 slot }
  (key, (({ s with threads := s.threads.put key t }).powerUp (g / 8)).makeReady key)

/-! Granules (R141, R346, R347). -/

def insertAll (l : List Nat) (m : List Nat) : List Nat := l.foldl (fun m a => insertNat a m) m
/-- The granules that a request of n takes, in the party's order, and those that turn to L1: retained ones that match come first,
others that are retained give way when the L1 role would keep fewer than four. -/
def Spindle.grant (p : Spindle) (n : Nat) (c : BitVec 12) (succ : Option (BitVec 16)) : Option (List Nat × List Nat) :=
  let role (i : Nat) : Role := (p.grans.getD i {}).role
  let mine := (upto 20).filter (fun i => match role i, succ with
    | .retained d k, some q => d == c && k == q
    | _, _ => false)
  let others := (upto 20).filter (fun i => match role i with
    | .retained _ _ => !mine.contains i
    | _ => false)
  let base := insertAll (mine.drop n) ((upto 20).filter (fun i => role i == .l1))
  let want := n - mine.length
  let lack := want + 4 - base.length
  if others.length < lack then none
  else some (mine.take n ++ (insertAll (others.take lack) base).take want, mine.drop n ++ others.take lack)

/-- Gives granules a role with their bytes cleared or kept (R347): what a granule held as L1 is written back and dropped first;
one that becomes L1 starts empty and powered down. -/
def State.setRole (g : Nat) (ns : List Nat) (r : Role) (clear : Bool) (s : State) : State :=
  let s := s.waysDrop g ns
  let mine (i : Nat) : Bool := i / 20 == g && ns.contains (i % 20)
  let off := s.gransOff.filter (fun i => !mine i)
  let s := { s with gransOff := if r = Role.l1 then ns.foldl (fun l n => insertNat (20 * g + n) l) off else off }
  s.onSpindle g (fun p => { p with
    grans := (upto 20).map (fun i => if ns.contains i then { role := r, stash := none } else p.grans.getD i {})
    ua := if clear then p.ua.filter (fun (a, _) => !ns.contains (a / 16384)) else p.ua })

/-- Takes a request's granules on a Spindle for a party (R346, R347): the list in the party's order. -/
def State.takeGrans (g n pid : Nat) (c : BitVec 12) (succ : Option (BitVec 16)) (s : State) : List Nat × State :=
  match (s.spindle g).grant n c succ with
  | none => ([], s)
  | some (got, freed) =>
    let kept := got.filter (fun i => match ((s.spindle g).grans.getD i {}).role with
      | .retained _ _ => !freed.contains i
      | _ => false)
    let s := s.setRole g freed .l1 true
    let s := s.setRole g (got.filter (fun i => !kept.contains i)) (.spad pid) true
    (got, s.setRole g kept (.spad pid) false)

/-! Plans (R389). -/

/-- Finds Spindles for one unit of `left` threads: those lowest in number that can take it. With `split` the unit may stand on
several. Log entry 6. -/
def State.planUnit (s : State) (rid : Nat) (c : BitVec 12) (spad : Nat) (split : Bool) (succ : Option (BitVec 16)) :
    List Nat → Nat → List (Nat × Nat) → Option (List (Nat × Nat))
  | _, 0, plan => some plan
  | [], _ + 1, _ => none
  | i :: t, left + 1, plan =>
    let g := 8 * rid + i
    let room := (s.freeSlots g).length
    if plan.any (fun q => q.1 == i) || room == 0 || (!split && decide (room < left + 1)) || !s.mayServe g c
        || ((s.spindle g).grant spad c succ).isNone then s.planUnit rid c spad split succ t (left + 1) plan
    else s.planUnit rid c spad split succ t (left + 1 - min room (left + 1)) (plan ++ [(i, min room (left + 1))])
/-- Finds Spindles for the units of a party: Spindle index and threads. Log entry 6. -/
def State.plan (s : State) (rid : Nat) (c : BitVec 12) (spad : Nat) (split : Bool) (succ : Option (BitVec 16)) :
    List Nat → List (Nat × Nat) → Option (List (Nat × Nat))
  | [], plan => some plan
  | u :: t, plan => (s.planUnit rid c spad split succ (upto 8) u plan).bind (fun plan =>
      s.plan rid c spad split succ t plan)

/-- The scratchpad-window address of a Spindle index (R367). -/
def thAddr (i : Nat) : Word := BitVec.ofNat 64 (0x00FFFFFFFFE00000 + i * 0x40000)

/-- Starts the threads of a party on one Spindle, from party index i. -/
def State.partyThreads (g pid : Nat) (mk : Nat → Nat → Thread) : Nat → Nat → State → State
  | 0, _, s => s
  | n + 1, i, s =>
    let (key, s) := s.birth g { mk (g % 8) i with party := pid, pidx := BitVec.ofNat 7 i }
    State.partyThreads g pid mk n (i + 1) (s.onParty pid (fun p => { p with keys := p.keys.put i key }))
/-- Starts a party as planned (R389): granules, then threads, in party order. -/
def State.partyOn (rid pid spad : Nat) (c : BitVec 12) (succ : Option (BitVec 16)) (mk : Nat → Nat → Thread) :
    List (Nat × Nat) → Nat → State → State
  | [], _, s => s
  | (i, n) :: t, from_, s =>
    let g := 8 * rid + i
    let (gs, s) := s.takeGrans g spad pid c succ
    let s := s.onParty pid (fun p => { p with grans := if gs = [] then p.grans else p.grans.put i gs })
    State.partyOn rid pid spad c succ mk t (from_ + n) (State.partyThreads g pid mk n from_ s)
/-- Places a party of the given size: `mk` gives the thread of a Spindle index and a party index. -/
def State.partyStart (p : Party) (spad : Nat) (succ : Option (BitVec 16)) (plan : List (Nat × Nat)) (mk : Nat → Nat → Thread)
    (s : State) : State :=
  let (pid, s) := s.newId
  let mk (i j : Nat) : Thread := { mk i j with psize := BitVec.ofNat 7 (p.size - 1) }
  State.partyOn p.rid pid spad p.ctx succ mk plan 0 { s with parties := s.parties.put pid { p with live := p.size } }

/-! Entry pointers and dispatch words (R302, R368, R389). -/

/-- Reads a word for a placement; none where it cannot be read. -/
def State.placeRead (rid : Nat) (c : BitVec 12) (va : Nat) (k : AKind) (s : State) : Acc (Option Word) :=
  let q : Req := { va := va % 2 ^ 64, n := 8, al := 8, k := k }
  ((s.sequencer rid).landAt false (.cluster rid) c q).bind (fun r s => match r with
    | .error _ => .ok none s
    | .ok l => (s.regionGet q l c).bind (fun r s => .ok (match r with
      | .ok v => some (BitVec.ofNat 64 v)
      | .error _ => none) s))

/-- The entry of a unit placed from a pointer (R368), or the T-TAG or T-CODE that discards it. A cell that no memory answers for
is a bad cell. Log entry 30. -/
def State.entryOf (rid : Nat) (c : BitVec 12) (p : Word) (s : State) : Acc Word :=
  let cell := p &&& ~~~7
  let retired (p : Word) (s : State) : Acc Word :=
    match (s.sequencer rid).regionAt (.cluster rid) c { va := (p &&& ~~~7).toNat, n := 8, al := 8, k := if fld p 1 0 = 1 then .place else .fetch } with
    | (.bad e, _) => if e.cls = 9 then .trap ⟨9, 0x04, 0, false, p⟩ else .ok p s
    | _ => .ok p s
  if fld p 1 0 = 2 then (s.placeRead rid c cell.toNat .load).bind (fun v s => match v with
    | none => .trap ⟨1, 0x01, 0, false, cell⟩
    | some q => if tbit q 2 ∨ 2 ≤ fld q 1 0 then .trap ⟨1, 0x01, 0, false, cell⟩ else retired q s)
  else retired p s

/-- Party size and granules that the dispatch word of a T entry gives (R389); none for a word that breaks its table. One that
cannot be read is no dispatch word. Log entry 30. -/
def dispatchSize (w : Option Word) : Option (Nat × Nat) :=
  match w with
  | none => some (1, 0)
  | some w =>
    if fld w 63 48 ≠ 0xA3D4 then some (1, 0)
    else if fld w 47 24 ≠ 0 ∨ fld w 15 9 ≠ 0 ∨ fld w 1 0 ≠ 0 ∨ 16 < fld w 23 16 then none
    else some (fld w 8 2 + 1, fld w 23 16)
def State.dispatchWord (rid : Nat) (c : BitVec 12) (entry : Word) (s : State) : Acc (Option Word) :=
  s.placeRead rid c ((entry &&& ~~~7) - 8).toNat .fetch

/-! Frames (R390). -/

/-- A caller whose callee never ran is answered as a frame abandoned with the cause (R96, R125). -/
def State.callAbandon (rid : Nat) (c : BitVec 12) (x : Start) (cause : Cause) (s : State) : Acc Unit :=
  let f : Frame := { st := .live, f := x.f, caller := x.caller }
  ((s.sequencer rid).asRegion rid { ctx := some c, frames := [(0, f)] } (State.frameAbandon rid 0 cause)).bind
    (fun _ s => .ok () s)

/-- Places a frame on a cluster's region (R390): on the image it holds, or as a new configuration; it waits when it can do
neither. A rejected image answers the caller (R96); any other failure faults the frame where it would stand (R302, R311). -/
def State.placeFrame (rid : Nat) (c : BitVec 12) (img : Word) (x : Start) (s : State) : Acc Unit :=
  let s := s.sequencer rid
  let start (s : State) : Acc Unit := (s.takeTag rid).bind (fun k s => match k with
    | none => .hold id
    | some k => s.frameStart rid k x)
  let stopped (e : Cause) (s : State) : Acc Unit :=
    let s := s.regionLeave rid
    let s := s.onRegion rid (fun r => { r with ctx := some c, image := img, rcfg := [img] })
    (s.frameBegin rid 0 x).frameFault rid 0 none e
  let r := s.region rid
  if r.draining then .hold id
  else if r.holds c img then start s
  else if !r.idle then .hold id
  else match s.placeImage rid c img with
    | .hold f => .hold f
    | .trap e => stopped e s
    | .ok none s => start s
    | .ok (some e) s =>
      let s := s.trapRecord {
        kind := 3, cause := e, loc := img + BitVec.ofNat 64 (rejectNode e), unit := rid, level := (ctxLevel c).code, ctx := c }
      s.callAbandon rid c x e

end Sys2Proof.Machine
end

