-- ==== Sys2Proof/Machine/Hamper.lean ====
section
/-! DEFINITION. The Hamper (12, R380 to R386) and donation (R387). -/

namespace Sys2Proof.Machine
open Sys2Proof

/-- The set of a record (R380). -/
def hamperSet (ws : List Word) : Nat :=
  let k := (ws.getD 0 0).toNat
  let c := (recCtx (ws.getD 6 0)).toNat
  ((upto 8).foldl (fun n i => n ^^^ (k / 256 ^ i % 256)) 0) ^^^ fld (ws.getD 1 0) 10 3 ^^^ (c % 256) ^^^ (c / 256)

/-- Whether a waiting record matches an arriving one (R381); a claimed record is no longer in the Hamper. -/
def recMatches (w a : List Word) : Bool :=
  let w6 := w.getD 6 0
  let a6 := a.getD 6 0
  recCtx w6 == recCtx a6 && w.getD 0 0 == a.getD 0 0 && w.getD 1 0 == a.getD 1 0
    && recOp w6 == recOp a6 && recOp w6 != 0 && (recOp w6 != 0x0E || recWexp w6 == recWexp a6)
    && !recRvalid (w.getD 7 0) && !recRvalid (a.getD 7 0)

/-- FADD on the two f32 halves of a word (R73). -/
def foldFadd (w a : Word) : Word :=
  let h (i : Nat) : Nat := (f32.fadd 0 0 (fld w (32 * i + 31) (32 * i)) (fld a (32 * i + 31) (32 * i))).bits
  BitVec.ofNat 64 (h 1 * 2 ^ 32 + h 0)
/-- ADDSAT: the saturated sum and whether it saturated. -/
def addSat (w a : Word) : Word × Bool :=
  let t := w.toInt + a.toInt
  if t < -(2 ^ 63 : Nat) then (0x8000000000000000, true)
  else if (2 ^ 63 : Nat) ≤ t then (0x7FFFFFFFFFFFFFFF, true) else (w + a, false)
/-- op(w, a) of one payload word (R382). -/
def foldWord (op : Nat) (w a : Word) : Word :=
  match op with
  | 0x02 => a
  | 0x03 => w + a
  | 0x04 => (addSat w a).1
  | 0x05 => if a.slt w then a else w
  | 0x06 => if w.slt a then a else w
  | 0x07 => if a.ult w then a else w
  | 0x08 => if w.ult a then a else w
  | 0x09 => w ||| a
  | 0x0A => w &&& a
  | 0x0B => w ^^^ a
  | 0x0D => foldFadd w a
  | _ => w

/-- A fold of an arriving record into a waiting one (R381 to R383): the waiting record's words. -/
def foldRecord (w a : List Word) : List Word :=
  let w6 := w.getD 6 0
  let op := recOp w6
  let m := recFmask w6
  let pay (i : Nat) : Word := w.getD (2 + i) 0
  let got (i : Nat) : Word := a.getD (2 + i) 0
  let on (i : Nat) : Bool := m / 2 ^ i % 2 == 1
  let ps : List Word :=
    if op = 0x0E then fsumx [pay 0, pay 1, pay 2, pay 3] [got 0, got 1, got 2, got 3]
    else if op = 0x0C then (upto 4).map (fun i => pay i + 1)
    else if op = 0x0F then ([pay 0, pay 1, pay 2, pay 3] : List Word).set (recNslot w6) (got 0)
    else (upto 4).map (fun i => if on i then foldWord op (pay i) (got i) else pay i)
  let sat := decide (op = 0x04) && (upto 4).any (fun i => on i && (addSat (pay i) (got i)).2)
  let w6 := setFld w6 41 39 (max (recCls w6) (recCls (a.getD 6 0)))
  let w6 := setFld w6 20 5 (min 0xFFFF (recNfold w6 + 1))
  let w6 := if sat then setFld w6 3 3 1 else w6
  let w6 := if op = 0x0F then setFld w6 2 0 (recNslot w6 + 1) else w6
  [w.getD 0 0, w.getD 1 0] ++ ps ++ [w6, w.getD 7 0]

/-- A record as it starts to wait: an APPEND record that has none takes its first slot (R382). Log entry 31. -/
def startRecord (a : List Word) : List Word :=
  let w6 := a.getD 6 0
  if recOp w6 = 0x0F ∧ recNslot w6 = 0 then
    [a.getD 0 0, a.getD 1 0, a.getD 2 0, 0, 0, 0, setFld w6 2 0 1, a.getD 7 0]
  else a

/-- Whether a record is claimed: the dispatcher's reservation is for it (R388). -/
def Cluster.claimed (r : Cluster) (num : Nat) : Bool :=
  r.reserved.any (fun n => r.entries.any (fun e => e.num == n && e.what == .record num))
/-- The newest waiting record of a cluster that an arriving record folds into (R381). -/
def Cluster.foldInto (r : Cluster) (a : List Word) : Option HEntry :=
  let fits (e : HEntry) : Bool := e.set == hamperSet a && !r.claimed e.num && recMatches e.record.words a &&
    !(recOp (a.getD 6 0) == 0x0F && 4 ≤ recNslot (e.record.words.getD 6 0))
  (r.records.filter fits).foldl (fun (b : Option HEntry) e => match b with
    | none => some e
    | some d => if d.arrival < e.arrival ∨ (d.arrival = e.arrival ∧ d.num < e.num) then some e else b) none
/-- The lowest free way of a set: that of a record which a reservation has claimed is free, as a claimed record waits no more
(log entry 31). -/
def Cluster.freeWay (r : Cluster) (set : Nat) : Option Nat :=
  (upto 8).find? (fun w => !r.records.any (fun e => e.set == set && e.way == w && !r.claimed e.num))

/-- A record comes in: it is accepted. -/
def State.accepted (r : HRecord) (s : State) : State := if r.counted then s.flightEnd r.sender else s

/-- Puts a record into a way of its set. Log entry 31. -/
def State.recordIn (rid way : Nat) (r : HRecord) (s : State) : State :=
  let (num, s) := s.newId
  let fc := r.first.getD (s.cycle / 2)
  s.onCluster rid (fun c => { c with records := c.records ++ [{
    set := hamperSet r.words, way := way, arrival := fc, num := num, cls := recCls (r.words.getD 6 0)
    record := { r with words := startRecord r.words, first := some fc } }] })

/-- Spills a record into the cluster's ring (R384), or refuses it for 256 fc. Log entry 31. -/
def State.spill (rid : Nat) (r : HRecord) (s : State) : State :=
  let c := recCtx (r.words.getD 6 0)
  let refuse : State := s.onCluster rid (fun k => { k with refused := k.refused ++ [(s.cycle + 512, { r with first := none })] })
  match s.spillCap c with
  | none => refuse
  | some cap =>
    let h := s.ringHead c rid cap
    let tail := s.prd8 (h + 8)
    if 2 ^ cap ≤ (tail - s.prd8 h).toNat then refuse
    else
      let w := startRecord r.words
      let w := w.set 6 (setFld (w.getD 6 0) 4 4 1)
      let s := s.pwrWords (ringEntry h cap tail) (w ++ [r.fmt] ++ (upto 4).map (fun i => r.sca.getD i 0))
      let fc := r.first.getD (s.cycle / 2)
      ((s.pwr8 (h + 8) (tail + 1)).onCluster rid (fun k => { k with firsts := k.firsts ++ [(c, tail, fc)] })).accepted r

/-- Raises the class of a record's dispatcher entry. -/
def DEntry.raiseTo (num cls : Nat) (d : DEntry) : DEntry :=
  if d.what = .record num then { d with cls := max d.cls cls } else d
/-- A waiting record after a fold. -/
def HEntry.foldIn (e : HEntry) (a : List Word) : HEntry :=
  let ws := foldRecord e.record.words a
  { e with record := { e.record with words := ws }, cls := max e.cls (recCls (ws.getD 6 0)) }
/-- A record arrives (R381): it folds, or takes a way, or spills. -/
def State.arrive (rid : Nat) (r : HRecord) (s : State) : State :=
  let k := s.cluster rid
  match k.foldInto r.words with
  | some e => (s.onCluster rid (fun k => { k with
      records := k.records.map (fun d => if d.num = e.num then d.foldIn r.words else d)
      entries := k.entries.map (DEntry.raiseTo e.num (recCls (r.words.getD 6 0))) })).accepted r
  | none => match k.freeWay (hamperSet r.words) with
    | some w => (s.recordIn rid w r).accepted r
    | none => s.spill rid r

/-- HAMPER_ARRIVAL (R381): the next record on its way to a cluster. -/
def execHamperArrival (s : State) : Host.Outcome State Fault Refusal :=
  match s.ev with
  | .record rid r => .next (State.arrive rid r (s.onCluster rid (fun k => { k with arrivals := k.arrivals.erase r })))
  | _ => .next s

/-- RECORD_RETRY (R384): a refused record is on its way again, before its sender's later records. -/
def execRecordRetry (s : State) : Host.Outcome State Fault Refusal :=
  match s.ev with
  | .record rid r => .next (s.onCluster rid (fun k =>
      if k.refused.any (fun q => q.2 == r) then
        { k with refused := k.refused.eraseP (fun q => q.2 == r), arrivals := r :: k.arrivals }
      else k))
  | _ => .next s

/-! Reloads (R385). -/

/-- The record and format block of a ring entry. -/
def State.spillRead (s : State) (a : Nat) (first : Option Nat) : HRecord :=
  { words := s.prdWords a 8, fmt := s.prd8 (a + 64), sca := s.prdWords (a + 72) 4, sender := 0, fromRegion := false
    counted := false, first := first, image := BitVec.ofNat 64 a }
/-- Whether the head of a context's ring of a cluster may reload (R385). -/
def State.reloadable (s : State) (rid : Nat) (c : BitVec 12) : Bool :=
  match s.spillCap c with
  | none => false
  | some cap =>
    let h := s.ringHead c rid cap
    let head := s.prd8 h
    s.prd8 (h + 8) != head && ((s.cluster rid).freeWay (hamperSet (s.prdWords (ringEntry h cap head) 8))).isSome
/-- The next context whose head reloads, in turn from the cluster's turn: only a context that has spilled here can have one.
Log entry 15. -/
def State.reloadNext (s : State) (rid : Nat) : Option (BitVec 12) :=
  let cs := (insertAll ((s.cluster rid).firsts.map (fun q => q.1.toNat)) []).map (BitVec.ofNat 12)
  let t := (s.cluster rid).reloadTurn
  (cs.filter (fun c => decide (t ≤ c.toNat)) ++ cs.filter (fun c => decide (c.toNat < t))).find? (s.reloadable rid)

/-- The class that a waiting thread lends to a record that carries its request (R387). -/
def State.lentClass (s : State) (w7 : Word) (c : BitVec 12) : Nat :=
  if !recRvalid w7 then 0 else
  match s.findThread (fun t => t.ctx == c &&
    Tab.find (replyReg w7).toNat t.awaits == some (.reply (replyKey w7) (replyGen w7))) with
  | some (.inl k) => match (s.thread k).run with
    | .parked r => if r = replyReg w7 then (s.thread k).cls else 0
    | _ => 0
  | _ => 0

/-- HAMPER_RELOAD (R385, R387): the record at the head of a context's ring arrives. Log entry 31. -/
def State.reloadFrom (rid : Nat) (c : BitVec 12) (s : State) : State :=
  match s.spillCap c with
  | none => s
  | some cap =>
    let h := s.ringHead c rid cap
    let head := s.prd8 h
    if s.prd8 (h + 8) = head then s else
    let first := ((s.cluster rid).firsts.find? (fun q => q.1 == c && q.2.1 == head)).map (fun q => q.2.2)
    let r := s.spillRead (ringEntry h cap head) first
    let w6 := r.words.getD 6 0
    let w6 := setFld w6 41 39 (min (s.prioCeil c) (max (recCls w6) (s.lentClass (r.words.getD 7 0) c)))
    let s := s.pwr8 h (head + 1)
    let s := s.onCluster rid (fun k => { k with
      firsts := k.firsts.filter (fun q => !(q.1 == c && q.2.1 == head)), reloadTurn := (c.toNat + 1) % 4096 })
    s.arrive rid { r with words := r.words.set 6 w6 }
/-- HAMPER_RELOAD (R385). -/
def execHamperReload (s : State) : Host.Outcome State Fault Refusal :=
  match s.ev with
  | .pair rid c => .next (s.reloadFrom rid (BitVec.ofNat 12 c))
  | _ => .next s

/-! Due records (R386). -/

/-- Whether a record's linger has passed. -/
def HEntry.ripe (e : HEntry) (fc : Nat) : Bool := decide (e.arrival + 256 * recLinger (e.record.words.getD 6 0) ≤ fc)
/-- Takes a record out of the Hamper and the dispatcher. -/
def State.recordOut (rid num : Nat) (s : State) : State :=
  s.onCluster rid (fun k => { k with
    records := k.records.filter (fun e => e.num != num)
    entries := k.entries.filter (fun e => e.what != .record num) })
/-- RECORD_DUE (R386): a record whose linger has passed becomes dispatchable; where its context is not active it is discarded.
Log entry 31. -/
def State.recordDue (rid num : Nat) (s : State) : State :=
  match (s.cluster rid).records.find? (fun e => e.num == num) with
  | none => s
  | some e =>
    if !s.ctxActive (recCtx (e.record.words.getD 6 0)) ∧ !(s.cluster rid).claimed num then s.recordOut rid num
    else if e.due then s
    else s.onCluster rid (fun k => { k with
      records := k.records.map (fun d => if d.num = num then { d with due := true } else d)
      entries := k.entries ++ [{ num := num, arrival := e.arrival, cls := e.cls, what := .record num }] })
/-- Whether a record of a cluster becomes due, or falls to be discarded, now. -/
def State.ripeNow (s : State) (e : HEntry) : Bool :=
  e.ripe (s.cycle / 2) && (!e.due || !s.ctxActive (recCtx (e.record.words.getD 6 0)))
/-- RECORD_DUE (R386): one record of a cluster, or, in the fc of an arrival, every record whose linger has passed. -/
def execRecordDue (s : State) : Host.Outcome State Fault Refusal :=
  match s.ev with
  | .pair rid num => .next (if ((s.cluster rid).records.any (fun e => e.num == num && e.ripe (s.cycle / 2))) then s.recordDue rid num
      else s)
  | .unit rid => .next (((s.cluster rid).records.filter s.ripeNow).foldl (fun s e => s.recordDue rid e.num) s)
  | _ => .next s

/-! Donation (R387). -/

/-- Raises the record of a cluster that carries a request. -/
def Cluster.raiseTo (w7 : Word) (cls : Nat) (k : Cluster) : Cluster :=
  k.records.foldl (fun (k : Cluster) e =>
    if e.record.words.getD 7 0 = w7 then { k with
      records := k.records.map (fun d => if d.num = e.num then { d with cls := max d.cls cls } else d)
      entries := k.entries.map (DEntry.raiseTo e.num cls) }
    else k) k
/-- Raises the class of what carries a request: the record, or the running task. -/
def State.raise (w7 : Word) (c : BitVec 12) (cls : Nat) (s : State) : State :=
  let cls := min cls (s.prioCeil c)
  let serves (t : Thread) : Bool := t.ctx == c && (s.party? t.party).any (fun p => p.target == w7)
  let frame (f : Frame) : Frame := if f.caller = .record w7 then { f with cls := max f.cls cls } else f
  { s with
    clusters := s.clusters.map (fun (i, k) => (i, k.raiseTo w7 cls))
    threads := s.threads.map (fun (i, t) => (i, if serves t then { t with cls := max t.cls cls } else t))
    regions := s.regions.map (fun (i, r) =>
      (i, if r.ctx = some c then { r with frames := r.frames.map (fun (j, f) => (j, frame f)) } else r)) }
/-- Every parked thread lends its class to what it waits on. Log entry 15. -/
def State.donate (s : State) : State :=
  s.threads.foldl (fun s (_, t) => match t.run with
    | .parked r => match Tab.find r.toNat t.awaits with
      | some (.reply key gen) => s.raise (replyTarget gen key r true) t.ctx t.cls
      | _ => s
    | _ => s) s

end Sys2Proof.Machine
end

