-- ==== Sys2Proof/Machine/LaunchQueue.lean ====
section
/-! DEFINITION. Launch records: their checks, the die queues, party requests, and the end of a launch (12, R363 to R372). -/

namespace Sys2Proof.Machine
open Sys2Proof

/-! The words of a record (R363, R364). -/

def lItin (ws : List Word) : Word := ws.getD 1 0
def lCtx (ws : List Word) : BitVec 12 := BitVec.ofNat 12 (fld (ws.getD 2 0) 63 52)
def lClass (ws : List Word) : Nat := fld (ws.getD 2 0) 47 45
def lLevels (ws : List Word) : Nat := fld (ws.getD 2 0) 39 36
def lSucc (ws : List Word) : BitVec 16 := BitVec.ofNat 16 (fld (ws.getD 2 0) 31 16)
def lDsize (ws : List Word) : Nat := fld (ws.getD 25 0) 31 16
def lDrank (ws : List Word) : Nat := fld (ws.getD 25 0) 15 0
def lArgs (ws : List Word) : List Word := (ws.drop 9).take 8
def lSca (ws : List Word) : List Word := (ws.drop 5).take 4
def levCount (ws : List Word) (k : Nat) : Nat := fld (ws.getD (17 + k) 0) 63 32
def levDom (ws : List Word) (k : Nat) : Nat := fld (ws.getD (17 + k) 0) 31 28
def levScope (ws : List Word) (k : Nat) : Nat := fld (ws.getD (17 + k) 0) 27 24
def levSpad (ws : List Word) (k : Nat) : Nat := fld (ws.getD (17 + k) 0) 15 0
/-- Level-0 units in a unit of level k. -/
def levUnits (ws : List Word) (k : Nat) : Nat := (upto k).foldl (fun n j => n * levCount ws j) 1
/-- The level whose unit is the party (R364). -/
def partyLevel (ws : List Word) : Nat := ((upto (lLevels ws)).filter (fun k => decide (levDom ws k ≤ 2))).getLastD 0
def partySize (ws : List Word) : Nat := levUnits ws (partyLevel ws)
/-- The level whose domain is the Spindle, if any. -/
def spindleLevel (ws : List Word) : Option Nat := (upto (lLevels ws)).find? (fun k => levDom ws k == 1)
def domainLevel (ws : List Word) : Bool := levDom ws (lLevels ws - 1) == 6
/-- Granules that each Spindle of a party gives (R365). -/
def partyGrans (ws : List Word) : Nat := match spindleLevel ws with
  | some k => cdiv (levSpad ws k) 16
  | none => 0
/-- The units of a party, each of which stands on one Spindle; without a Spindle level the party may stand on several. -/
def partyUnits (ws : List Word) : List Nat × Bool := match spindleLevel ws with
  | some k => (List.replicate (partySize ws / max 1 (levUnits ws k)) (levUnits ws k), false)
  | none => ([partySize ws], true)

/-- Top-level units that this device places (R366). -/
def topHere (ws : List Word) : Nat :=
  let c := levCount ws (lLevels ws - 1)
  if domainLevel ws then (c + lDsize ws - 1 - lDrank ws) / lDsize ws else c
/-- Level-0 units, and parties, that this device places. -/
def unitsHere (ws : List Word) : Nat := topHere ws * levUnits ws (lLevels ws - 1)
def partiesHere (ws : List Word) : Nat := unitsHere ws / max 1 (partySize ws)
/-- The party index of the i-th party that this device places (R366, R370). -/
def partyIndex (ws : List Word) (i : Nat) : Nat :=
  if domainLevel ws then
    let per := max 1 (levUnits ws (lLevels ws - 1) / max 1 (partySize ws))
    (i / per * lDsize ws + lDrank ws) * per + i % per
  else i

/-! Checks (R136, R365, R369). -/

/-- Instances of domain a that one instance of domain b holds (R365), in a device of n clusters: it has four dies and 16 quads,
whatever the number of its clusters (R1). -/
def domFits (n a b : Nat) : Nat :=
  let size (d : Nat) : Nat := match d with
    | 0 => 1
    | 1 => 16
    | 2 => 128
    | 3 => 768
    | _ => 3072
  let device : Nat := match a with
    | 3 => 16
    | 4 => 4
    | 5 => 1
    | _ => 128 * n / size a
  match b with
  | 5 => device
  | 6 => 576 * device
  | _ => size b / size a
/-- The least scope of a domain (R365). -/
def domScope (d : Nat) : Nat := if d = 6 then 7 else d

/-- Whether a hierarchy keeps R365, its party size and scratchpad limits apart. Log entry 29. -/
def levelsOk (n : Nat) (ws : List Word) : Bool :=
  let l := lLevels ws
  decide (1 ≤ l ∧ l ≤ 8) && (upto 8).all (fun k =>
    if l ≤ k then ws.getD (17 + k) 0 == 0
    else decide (1 ≤ levCount ws k) && decide (levDom ws k ≤ 6) && fld (ws.getD (17 + k) 0) 23 16 == 0
      && (if k = 0 then levDom ws 0 == 0 else decide (levDom ws (k - 1) < levDom ws k))
      && decide (domScope (levDom ws k) ≤ levScope ws k) && decide (levScope ws k ≤ 8)
      && (levSpad ws k == 0 || levDom ws k == 1)
      && (levDom ws k != 6 || k + 1 == l)
      && (decide (l ≤ k + 1) || (levDom ws k == 0 && levDom ws (k + 1) == 2)
          || decide (levCount ws k ≤ domFits n (levDom ws k) (levDom ws (k + 1)))))
  && (if domainLevel ws then decide (1 ≤ lDsize ws ∧ lDsize ws ≤ 576 ∧ lDrank ws < lDsize ws)
      else lDsize ws == 0 && lDrank ws == 0)
  && decide (levUnits ws l ≤ 2 ^ 32 - 1)
/-- Whether every reserved field of a record is 0 (R363). DONE, ITIN and STKSIZE keep their alignment as such fields do.
Log entry 29. -/
def launchReserved (ws : List Word) : Bool :=
  ws.getD 2 0 &&& 0x000F1F000000FFFF == 0 && fld (ws.getD 25 0) 63 32 == 0 && fld (ws.getD 27 0) 63 32 == 0
    && [29, 30, 31].all (fun i => ws.getD i 0 == 0) && fld (ws.getD 3 0) 2 0 == 0 && fld (ws.getD 27 0) 5 0 == 0
    && decide (fld (ws.getD 2 0) 35 32 ≤ 8)
/-- An Itinerary launch has no entry and no hierarchy (R363). -/
def itinFields (ws : List Word) : Bool :=
  ws.getD 0 0 == 0 && lLevels ws == 0 && (upto 8).all (fun k => ws.getD (17 + k) 0 == 0) && fld (lItin ws) 5 0 == 0
    && lDsize ws == 0 && lDrank ws == 0

/-- Whether the resolved entry of a launch is a G entry (R369); a cell that cannot be read now counts as a T entry.
Log entry 30. -/
def State.launchIsG (s : State) (die : Nat) (ws : List Word) : Bool :=
  let p := ws.getD 0 0
  if fld p 1 0 = 2 then match s.placeRead (24 * die) (lCtx ws) (p &&& ~~~7).toNat .load with
    | .ok (some q) _ => fld q 2 0 == 1
    | _ => false
  else fld p 1 0 == 1

/-- The status of a record (R136): the lowest code that applies. Log entry 29. -/
def State.launchStatus (s : State) (die : Nat) (ws : List Word) : Nat :=
  let p := ws.getD 0 0
  let itin := lItin ws != 0
  let tag := tbit p 2 || fld p 1 0 == 3
  let n := ((upto 4).map (fun d => (s.clustersOf d).length)).foldl (· + ·) 0
  let spads := (upto (lLevels ws)).map (levSpad ws)
  if !s.admits (lCtx ws) then 0x01
  else if !launchReserved ws || !(if itin then itinFields ws else levelsOk n ws)
      || (!itin && !tag && s.launchIsG die ws && ((spindleLevel ws).isSome || spads.any (· != 0))) then 0x02
  else if itin then 0x00
  else if spads.any (fun k => decide (256 < k)) then 0x03
  else if 128 < partySize ws then 0x04
  else if tag then 0x05 else 0x00

/-- A die's queue takes a record (R136, R372): the result word; none while the queue is full. -/
def State.launchTake (die : Nat) (image : Word) (ws : List Word) (s : State) : Option (Word × State) :=
  if 64 ≤ (s.die die).launchQ.length then none
  else
    let st := s.launchStatus die ws
    if st ≠ 0 then some (BitVec.ofNat 64 st, s)
    else
      let n := s.nextSerial
      let itin := lItin ws != 0
      let l : Launch := {
        serial := n, words := ws, image := image, ctx := lCtx ws, cls := min (lClass ws) (s.prioCeil (lCtx ws)), die := die
        isG := !itin && s.launchIsG die ws, parties := if itin then 0 else partiesHere ws
        left := if itin then 0 else unitsHere ws
        remoteLeft := if !itin && domainLevel ws && lDrank ws == 0 then lDsize ws - 1 else 0 }
      let s := { s with nextSerial := n + 1, launches := s.launches.put n l }
      some (BitVec.ofNat 64 (n * 256), s.onDie die (fun d => { d with launchQ := d.launchQ ++ [n] }))

/-- LAUNCH_ACCEPT (R136, R372): the record of a launch instruction that waits for its answer, at its die's queue. -/
def execLaunchAccept (s : State) : Host.Outcome State Fault Refusal :=
  match s.ev with
  | .record die r =>
    if (s.thread r.sender).run ≠ .launching then .next s
    else match s.launchTake die r.image r.words with
    | some (v, s) => .next (s.answer r.sender (.done v 0))
    | none => .next (s.after 1 (.event .launchAccept (.record die r)))
  | _ => .next s

/-! Party requests (R372). -/

/-- The cluster that a party's request goes to: the least loaded of those that keep its units within one quad and one die.
Log entry 6. -/
def State.launchCluster (l : Launch) (p : Nat) (s : State) : Nat :=
  let ws := l.words
  let unit (k : Nat) : Nat := p * partySize ws / max 1 (levUnits ws k)
  let lev (d : Nat) : Option Nat := (upto (lLevels ws)).find? (fun k => levDom ws k == d)
  let dies := match lev 4 with
    | some k => [(l.die + unit k) % 4]
    | none => if (upto (lLevels ws)).any (fun k => decide (5 ≤ levDom ws k)) then
        (match lev 3 with
          | some k => [(l.die + unit k / 4) % 4]
          | none => [0, 1, 2, 3])
      else [l.die]
  let cs := (dies.flatMap s.clustersOf).filter (fun r => match lev 3 with
    | some k => r % 24 / 6 == unit k % 4
    | none => true)
  (leastBy s.busyOf cs).getD (24 * l.die)

/-- Drops n level-0 units of a launch that will not start (R368, R372). -/
def State.unitDrop (serial n : Nat) (s : State) : State :=
  match Tab.find serial s.launches with
  | none => s
  | some l => { s with launches := s.launches.put serial { l with
      left := l.left - n, status := if l.status = 0 then 0x01 else l.status } }

/-- One turn of a die's queue (R372, R375): a party request of the head launch, or the start of its Itinerary. -/
def State.launchStep (d : Nat) (s : State) : State :=
  match (s.die d).launchQ with
  | [] => s
  | n :: _ =>
    let pop (s : State) : State := (s.onDie d (fun r => { r with launchQ := r.launchQ.drop 1 })).wakeRoom .launchQueue
    match Tab.find n s.launches with
    | none => pop s
    | some l =>
      if lItin l.words ≠ 0 then
        if s.dies.any (fun (_, r) => r.itins.any (fun i => i.header == lItin l.words && i.ctx == l.ctx)) then s
        else pop (State.onDie d (fun r => { r with
            itins := r.itins ++ [{ serial := n, header := lItin l.words, ctx := l.ctx }] })
          { s with launches := s.launches.put n { l with sent := true } })
      else if l.next < l.parties then
        let p := partyIndex l.words l.next
        let s := s.enqueue (s.launchCluster l p) l.cls (.launch n p)
        let last := decide (l.parties ≤ l.next + 1)
        let s := { s with launches := s.launches.put n { l with next := l.next + 1, sent := last } }
        if last then pop s else s
      else pop { s with launches := s.launches.put n { l with sent := true } }

/-! The end of a launch (R371). -/

/-- Fills a launch's DONE word, where it has one; a word that no translation reaches takes no fill (log entry 9). -/
def State.doneFill (l : Launch) (status : Nat) (s : State) : Acc Unit :=
  let a := l.words.getD 3 0
  let v := BitVec.ofNat 64 status
  if a = 0 ∨ (domainLevel l.words ∧ lDrank l.words ≠ 0 ∧ lItin l.words = 0) then .ok () s
  else
    let q : Req := { va := a.toNat, n := 8, al := 8, k := .store }
    ((s.sequencer (24 * l.die)).landAt false (.cluster (24 * l.die)) l.ctx q).bind (fun r s => match r with
      | .ok (.mem o) => .ok () ((s.fillWord o v).homeTakes o)
      | .ok (.far p u) => (s.nodeFar s.tag p u (.feStore false v) q l.ctx).bind (fun _ s => .ok () s)
      | _ => .ok () s)

/-- A launch whose units have all ended fills DONE and is over. Log entry 44. -/
def State.launchEnd (n : Nat) (s : State) : State :=
  match Tab.find n s.launches with
  | none => s
  | some l =>
    if lItin l.words ≠ 0 ∨ !l.sent ∨ l.left ≠ 0 ∨ l.remoteLeft ≠ 0 then s
    else match s.doneFill l l.status with
    | .ok _ s => { s with
        launches := s.launches.del n
        sharesEnded := if domainLevel l.words ∧ lDrank l.words ≠ 0 then s.sharesEnded ++ [n] else s.sharesEnded }
    | .hold f => f s
    | .trap _ => s

end Sys2Proof.Machine
end

