-- ==== Sys2Proof/Machine/Itinerary.lean ====
section
/-! DEFINITION. Itineraries (12, R374 to R379). -/

namespace Sys2Proof.Machine
open Sys2Proof

/-! The structures in memory (R374). -/

/-- A node with its successors, its ranges rounded to 256 bytes (R378), and its counter read through GEN (R375). -/
structure INode where
  ix : Nat
  entry : Word
  arg : Word
  npred : Nat
  fixed : Bool
  cls : Nat
  fpred : Nat
  rin : Nat
  rout : Nat
  /-- Successor entries as read, reserved bits among them. -/
  succs : List Nat
  ranges : List (Nat × Nat × Bool)
  /-- STATE, LEFT, INFL and AVAIL. -/
  st : Nat
  left : Nat
  infl : Nat
  avail : Nat
  deriving DecidableEq, Repr

/-- Reads n bytes of an Itinerary. -/
def State.itRead (d : Nat) (c : BitVec 12) (n va : Nat) (s : State) : Acc Nat :=
  let q : Req := { va := va % 2 ^ 64, n := n, al := n, k := .load }
  (((s.sequencer (24 * d)).landAt false (.cluster (24 * d)) c q).orTrap).bind (fun l s => (s.regionGet q l c).orTrap)
/-- Writes a word of a counter. -/
def State.itWrite (d : Nat) (c : BitVec 12) (va v : Nat) (s : State) : Acc Unit :=
  let q : Req := { va := va % 2 ^ 64, n := 8, al := 8, k := .store }
  (((s.sequencer (24 * d)).landAt false (.cluster (24 * d)) c q).orTrap).bind (fun l s =>
    (s.regionPut s.tag q l c (toBytes 8 v)).orTrap)

def headGen (h : List Word) : Nat := fld (h.getD 0 0) 63 48
def headN (h : List Word) : Nat := fld (h.getD 0 0) 15 0 + 1
def headNodes (h : List Word) : Nat := (h.getD 1 0).toNat
def headSuccs (h : List Word) : Nat := (h.getD 2 0).toNat
def headCntrs (h : List Word) : Nat := (h.getD 3 0).toNat
def headRanges (h : List Word) : Nat := (h.getD 4 0).toNat

/-- Reads node j of an Itinerary. Log entry 32. -/
def State.itNode (d : Nat) (c : BitVec 12) (h : List Word) (j : Nat) (s : State) : Acc INode :=
  let a := headNodes h + 32 * j
  let k := headCntrs h + 16 * j
  (Acc.each (State.itRead d c 8) [a, a + 8, a + 16, a + 24, k, k + 8] s).bind (fun ws s =>
    let w (i : Nat) : Word := BitVec.ofNat 64 (ws.getD i 0)
    (Acc.each (fun i s => s.itRead d c 4 (headSuccs h + 4 * (fld (w 2) 31 0 + i))) (upto (fld (w 2) 47 32)) s).bind
      (fun sx s =>
    (Acc.each (fun i s => (s.itRead d c 8 (headRanges h + 16 * (fld (w 3) 23 0 + i))).bind (fun b s =>
        (s.itRead d c 8 (headRanges h + 16 * (fld (w 3) 23 0 + i) + 8)).bind (fun m s => .ok (b, m) s)))
      (upto (fld (w 3) 31 24)) s).bind (fun rs s =>
    let mine := fld (w 4) 63 48 == headGen h
    let fixed := tbit (w 3) 63
    let fpred := fld (w 3) 59 48
    let npred := fld (w 2) 63 48
    let range (r : Nat × Nat) : Option (Nat × Nat × Bool) :=
      let len := field r.2 31 0
      if len = 0 then none else some (r.1 / 256 * 256, cdiv (r.1 + len) 256 * 256, decide (2 ^ 63 ≤ r.2))
    .ok {
      ix := j, entry := w 0, arg := w 1, npred := npred, fixed := fixed, cls := fld (w 3) 62 60, fpred := fpred
      rin := fld (w 3) 47 40, rout := fld (w 3) 39 32, succs := sx, ranges := rs.filterMap range
      st := if mine then fld (w 4) 17 16 else 0
      left := if mine then fld (w 4) 15 0 else if fixed then fpred else npred
      infl := if mine then fld (w 5) 63 32 else 0, avail := if mine then fld (w 5) 31 0 else 0 } s)))
/-- Every node of an Itinerary. -/
def State.itNodes (d : Nat) (c : BitVec 12) (h : List Word) (s : State) : Acc (List INode) :=
  Acc.each (State.itNode d c h) (upto (headN h)) s

/-- Writes a node's counter; it takes GEN (R375). Log entry 32. -/
def State.itPut (d : Nat) (c : BitVec 12) (h : List Word) (n : INode) (s : State) : Acc Unit :=
  let a := headCntrs h + 16 * n.ix
  (s.itWrite d c a (headGen h * 2 ^ 48 + n.st * 2 ^ 16 + n.left % 65536)).bind (fun _ s =>
    s.itWrite d c (a + 8) (n.infl % 2 ^ 32 * 2 ^ 32 + n.avail % 2 ^ 32))

/-- Whether a structure keeps R374 and the rule of R377 on capacities. Log entry 32. -/
def itinOk (h : List Word) (ns : List INode) : Bool :=
  let preds (j : Nat) : Nat := (ns.map (fun n => n.succs.count j)).foldl (· + ·) 0
  h.getD 0 0 &&& 0x0000FFFFFFFF0000 == 0 && headNodes h % 32 == 0 && headSuccs h % 4 == 0 && headCntrs h % 16 == 0
    && headRanges h % 16 == 0
    && ns.all (fun n => n.succs.all (fun j => decide (j < ns.length)) && !tbit n.entry 2 && fld n.entry 1 0 != 3
        && (if n.fixed then decide (1 ≤ n.rin ∧ 1 ≤ n.rout) && n.fpred == preds n.ix
              && (n.fpred == 0 || (decide (n.rin ≤ n.npred) && ns.all (fun p =>
                    !p.fixed || !p.succs.contains n.ix || decide (p.rout ≤ n.npred))))
            else n.fpred == 0 && n.npred == preds n.ix))

/-! The instances of the device. -/

/-- The die and the instance of a serial. -/
def State.itin? (n : Nat) (s : State) : Option (Nat × Itin) :=
  s.dies.findSome? (fun (d, r) => (r.itins.find? (fun i => i.serial == n)).map (fun i => (d, i)))
def State.onItin (d n : Nat) (f : Itin → Itin) (s : State) : State :=
  s.onDie d (fun r => { r with itins := r.itins.map (fun i => if i.serial = n then f i else i) })

/-- An instance ends: DONE fills, and the launch is over (R371, R379). -/
def State.itinEnd (d n status : Nat) (s : State) : State :=
  match Tab.find n s.launches with
  | none => s.onDie d (fun r => { r with itins := r.itins.filter (fun i => i.serial != n) })
  | some l => match s.doneFill l status with
    | .ok _ s =>
      let s := s.onDie d (fun r => { r with itins := r.itins.filter (fun i => i.serial != n) })
      { s with launches := s.launches.del n
               clusters := s.clusters.map (fun (r, k) => (r, { k with entries := k.entries.filter (fun e => match e.what with
                 | .itin m _ _ => m != n
                 | _ => true) })) }
    | .hold f => f s
    | .trap _ => s

/-! What may run (R376 to R378). -/

/-- Whether a fixed-rate stage may fire (R377); a parked one does not (R379). A successor that SUCCS lists twice takes ROUT twice: no
rule says (log entry 32). -/
def INode.canFire (n : INode) (ns : List INode) : Bool :=
  n.fixed && n.st != 2 && n.st != 3
    && (if n.fpred = 0 then decide (n.avail < n.npred) else decide (n.rin ≤ n.avail))
    && n.succs.all (fun j => match ns[j]? with
      | some m => !m.fixed || decide (n.rout * n.succs.count j + m.avail + m.infl ≤ m.npred)
      | none => true)
/-- Whether a node that is not fixed-rate is ready (R376). -/
def INode.ready (n : INode) : Bool := !n.fixed && n.st == 0 && n.left == 0
/-- Whether the declared ranges of two nodes conflict (R378). -/
def INode.conflicts (a b : INode) : Bool :=
  a.ranges.any (fun x => b.ranges.any (fun y => (x.2.2 || y.2.2) && decide (x.1 < y.2.1) && decide (y.1 < x.2.1)))
/-- The next node to dispatch or fire: the lowest that conflicts with no running node, a fixed-rate stage between its firings among
them, and with no lower one that waits. Log entry 32. -/
def Itin.next (i : Itin) (ns : List INode) : Option INode :=
  let want := ns.filter (fun n => n.ready || n.canFire ns)
  let runs := ns.filter (fun n => n.st == 1 || i.running.any (fun q => q.1 == n.ix))
  want.find? (fun n => !runs.any (fun r => r.ix != n.ix && n.conflicts r)
    && !want.any (fun m => decide (m.ix < n.ix) && n.conflicts m))
/-- The nodes reached from a list through nodes that are not done. -/
def reachNodes (ns : List INode) : Nat → List Nat → List Nat
  | 0, l => l
  | k + 1, l =>
    let more := (l.flatMap (fun j => match ns[j]? with
      | some n => n.succs
      | none => [])).filter (fun j => (ns[j]?).any (fun n => n.st != 2))
    reachNodes ns k (l ++ more).eraseDups
/-- The class of a node's request (R387): its own, or that of a node that waits on it. -/
def nodeClass (ns : List INode) (j : Nat) : Nat :=
  ((reachNodes ns ns.length [j]).map (fun i => ((ns[i]?).map INode.cls).getD 0)).foldl max 0
/-- Whether a fixed-rate stage that is not done is over (R377). -/
def INode.hasEnded (n : INode) (i : Itin) : Bool :=
  n.fixed && n.st != 2 && !i.running.any (fun q => q.1 == n.ix)
    && (if n.fpred = 0 then n.avail == n.npred else n.left == 0 && decide (n.avail < n.rin))

/-! Changes of counters. -/

/-- Rewrites node j's counter. -/
def State.itChange (d : Nat) (c : BitVec 12) (h : List Word) (j : Nat) (f : INode → INode) (s : State) : Acc Unit :=
  (s.itNode d c h j).bind (fun n s => s.itPut d c h (f n))
/-- Rewrites the counters of a list of nodes, in order. -/
def State.itChanges (d : Nat) (c : BitVec 12) (h : List Word) (f : INode → INode) (js : List Nat) (s : State) : Acc Unit :=
  (Acc.each (fun j s => s.itChange d c h j f) js s).bind (fun _ s => .ok () s)
/-- A node is done: its STATE, then LEFT of each successor in order (R376, R377). -/
def State.itDone (d : Nat) (c : BitVec 12) (h : List Word) (n : INode) (s : State) : Acc Unit :=
  (s.itChange d c h n.ix (fun m => { m with st := 2 })).bind (fun _ s =>
    s.itChanges d c h (fun m => { m with left := m.left - 1 }) n.succs)
/-- The fixed-rate successors of a node. -/
def INode.fixedSuccs (n : INode) (ns : List INode) : List Nat :=
  n.succs.filter (fun j => (ns[j]?).any (fun m => m.fixed))

/-! Events. -/

/-- Runs a change of an instance whose context may run; an engine that waits for a page tries again at its next turn, and a
structure that cannot be read ends the instance. -/
def State.itRun (d n : Nat) (r : Acc Unit) (s : State) : State :=
  match r with
  | .ok _ s => s
  | .hold f => f s
  | .trap _ => s.itinEnd d n 0x01

/-- Sends a firing of a node to the dispatcher of the least-loaded cluster of its die (R376). -/
def State.itSend (d : Nat) (i : Itin) (ns : List INode) (n : INode) (firing : Nat) (s : State) : State :=
  let s := s.onItin d i.serial (fun i => { i with running := i.running ++ [(n.ix, firing)] })
  s.enqueue (s.least d) (min (nodeClass ns n.ix) (s.prioCeil i.ctx)) (.itin i.serial n.ix firing)

/-- ITIN_NODE_DISPATCH (R376, R378): a ready node goes to a dispatcher. -/
def State.itinDispatch (n j : Nat) (s : State) : State :=
  match s.itin? n with
  | none => s
  | some (d, i) => s.itRun d n ((s.itNodes d i.ctx i.head).bind (fun ns s =>
      match i.next ns with
      | some m => if m.ix ≠ j ∨ m.fixed then .ok () s
        else (s.itPut d i.ctx i.head { m with st := 1 }).bind (fun _ s => .ok () (s.itSend d i ns m 0))
      | none => .ok () s))
/-- ITIN_NODE_DISPATCH (R376). -/
def execItinNodeDispatch (s : State) : Host.Outcome State Fault Refusal :=
  match s.ev with
  | .pair n j => .next (s.itinDispatch n j)
  | _ => .next s

/-- ITIN_FIXED_FIRING (R377): a fixed-rate stage fires. -/
def State.itinFire (n j : Nat) (s : State) : State :=
  match s.itin? n with
  | none => s
  | some (d, i) => s.itRun d n ((s.itNodes d i.ctx i.head).bind (fun ns s =>
      match i.next ns with
      | some m => if m.ix ≠ j ∨ !m.fixed then .ok () s
        else
          let firing := i.fired.getD 0 j
          let m1 := { m with st := 1, avail := if m.fpred = 0 then m.avail + 1 else m.avail - m.rin }
          (s.itPut d i.ctx i.head m1).bind (fun _ s =>
          (s.itChanges d i.ctx i.head (fun x => { x with infl := x.infl + m.rout }) (m.fixedSuccs ns)).bind (fun _ s =>
            .ok () ((s.itSend d i ns m firing).onItin d n (fun i => { i with fired := i.fired.put j (firing + 1) }))))
      | none => .ok () s))
/-- ITIN_FIXED_FIRING (R377). -/
def execItinFixedFiring (s : State) : Host.Outcome State Fault Refusal :=
  match s.ev with
  | .pair n j => .next (s.itinFire n j)
  | _ => .next s

/-- ITIN_NODE_DONE (R376, R377): a firing's party or frame has ended. -/
def State.itinDone (n j firing : Nat) (s : State) : State :=
  match s.itin? n with
  | none => s
  | some (d, i) =>
    if !i.running.contains (j, firing) then s else
    let away (s : State) : State := s.onItin d n (fun i => { i with
      running := i.running.filter (· != (j, firing)), parked := i.parked.filter (· != (j, firing))
      parking := i.parking.filter (fun q => q.1 != j || q.2.1 != firing) })
    match (s.itNodes d i.ctx i.head).bind (fun ns s =>
        match ns[j]? with
        | none => .ok () s
        | some m =>
          if m.fixed then
            let back : Acc Unit := if m.st = 3 ∧ !i.parked.any (fun q => q.1 == j && q.2 != firing) then
              s.itChange d i.ctx i.head j (fun x => { x with st := 1 }) else .ok () s
            back.bind (fun _ s => s.itChanges d i.ctx i.head (fun x => { x with infl := x.infl - m.rout, avail := x.avail + m.rout })
              (m.fixedSuccs ns))
          else s.itDone d i.ctx i.head m) with
    | .ok _ s => away s
    | .hold f => (f s).after 2 (.event .itinNodeDone (.pair n (j * 2 ^ 32 + firing)))
    | .trap _ => s.itinEnd d n 0x01
/-- ITIN_NODE_DONE (R376, R377). -/
def execItinNodeDone (s : State) : Host.Outcome State Fault Refusal :=
  match s.ev with
  | .pair n x => .next (s.itinDone n (x / 2 ^ 32) (x % 2 ^ 32))
  | _ => .next s

/-- Parks a firing (R379): STATE, and a KIND 5 record, whose UNIT no rule gives: the model makes it 24 times the die. Log entry 42. -/
def State.itinPark (d : Nat) (i : Itin) (j firing : Nat) (c : Cause) (s : State) : Acc Unit :=
  (s.itChange d i.ctx i.head j (fun m => { m with st := 3 })).bind (fun _ s =>
    let a := BitVec.ofNat 64 (headNodes i.head + 32 * j)
    let s := s.onItin d i.serial (fun i => { i with
      parked := i.parked ++ [(j, firing)], parking := i.parking.filter (fun q => q.1 != j || q.2.1 != firing) })
    .ok () (s.trapRecord {
      kind := 5, cause := c, loc := a, unit := 24 * d, level := (ctxLevel i.ctx).code, ctx := i.ctx, aux := a }))

/-- One turn of the engine for an instance: it begins it, parks a node, ends a stage or the instance, or sends a node.
Log entry 32. -/
def State.itinTurn (d n : Nat) (s : State) : State :=
  match s.itin? n with
  | none => s
  | some (_, i) =>
    if (s.ctx i.ctx).saved ∨ (s.ctx i.ctx).saving then s
    else if i.head = [] then
      s.itRun d n ((Acc.each (State.itRead d i.ctx 8) ((upto 5).map (fun k => i.header.toNat + 8 * k)) s).bind (fun ws s =>
        let h := ws.map (BitVec.ofNat 64)
        (s.itNodes d i.ctx h).bind (fun ns s =>
          if itinOk h ns then .ok () (s.onItin d n (fun i => { i with head := h })) else .trap (tIll 0))))
    else match i.parking with
    | (j, firing, c) :: _ => s.itRun d n (s.itinPark d i j firing c)
    | [] =>
      if i.ending then
        let st := ((Tab.find n s.launches).map Launch.status).getD 0
        if i.running.all i.parked.contains then s.itinEnd d n (max 1 st) else s
      else match s.itNodes d i.ctx i.head with
      | .trap _ => s.itinEnd d n 0x01
      | .hold f => f s
      | .ok ns s => match ns.find? (fun m => m.hasEnded i) with
        | some m => s.itRun d n (s.itDone d i.ctx i.head m)
        | none =>
          if ns.all (fun m => m.st == 2) then s.itinEnd d n 0x00
          else match i.next ns with
          | some m => if m.fixed then s.later (.event .itinFixedFiring (.pair n m.ix))
              else s.later (.event .itinNodeDispatch (.pair n m.ix))
          | none => s
/-- Whether an instance is idle (R379): what has not ended is parked, or waits behind what is. Log entry 32. -/
def State.itinIdle (d : Nat) (i : Itin) (s : State) : Bool :=
  i.parked != [] && i.parking.isEmpty && i.running.all i.parked.contains && (match s.itNodes d i.ctx i.head with
    | .ok ns _ => (i.next ns).isNone && !ns.any (fun m => m.hasEnded i)
    | _ => false)
/-- An instance that is given up ends with STATUS 0x07, at a later turn where its DONE word must wait. -/
def State.itinGiveUp (d n : Nat) (s : State) : State :=
  State.onItin d n (fun i => { i with ending := true }) { s with launches := match Tab.find n s.launches with
    | some l => s.launches.put n { l with status := 0x07 }
    | none => s.launches }
/-- ITINERARY_INSTANCE_ABANDON (R379): the supervisor gives up an idle instance. -/
def execItineraryInstanceAbandon (s : State) : Host.Outcome State Fault Refusal :=
  match s.ev with
  | .unit n => .next (match s.itin? n with
      | some (d, i) => if s.itinIdle d i then (s.itinGiveUp d n).itinEnd d n 0x07 else s
      | none => s)
  | _ => .next s

end Sys2Proof.Machine
end

