-- ==== Sys2Proof/Machine/Saves.lean ====
section
/-! DEFINITION. Saves and restores of parties, and the swap of a party for a storage fault (13, R412 to R414, R423 to R425). -/

namespace Sys2Proof.Machine
open Sys2Proof

/-! Group boundaries (R80, R45, R192). -/

/-- Whether a thread's next issue begins a group. -/
def Thread.fresh (t : Thread) : Bool := t.grants.isEmpty && !t.flight.on
/-- Whether a thread stands at a group boundary with nothing of it on the way (R45, R80, R215). Log entry 38. -/
def Thread.quiet (t : Thread) : Bool :=
  t.sfu.isEmpty && (match t.run with
    | .access | .remote _ | .launching => false
    | .page _ => !t.flying
    | .feWait _ | .barrier _ => t.grants.isEmpty
    | _ => t.grants.isEmpty && !t.flight.on)
/-- Whether a thread is to issue no further group: its context is being saved, or its party is not running (R412, R423). It
leaves monitor level first. Log entry 38. -/
def State.mustStop (s : State) (t : Thread) : Bool :=
  t.level != .monitor && ((s.ctx t.ctx).saving || (s.party? t.party).any (fun p => p.swap != .running))

/-- Keeps of the dispatcher entries those that satisfy a test. -/
def State.keepEntries (f : DWhat → Bool) (s : State) : State :=
  { s with clusters := s.clusters.map (fun (r, (k : Cluster)) => (r, { k with entries := k.entries.filter (fun e => f e.what) })) }
/-- Takes a thread off the wait lists of the slices (R192). -/
def State.withdraw (key : Nat) (s : State) : State :=
  { s with clusters := s.clusters.map (fun (r, k) => (r, { k with waits := k.waits.filter (fun w => w.key != some key) })) }
/-- Whether a request may wait at another device's slice. -/
def mayWait : RemoteOp → Bool
  | .feLoad _ | .feStore true _ | .pop => true
  | _ => false
/-- Asks another device to withdraw the operation of a thread that may wait on a list there, once (R192); the answer says whether it
was served before. Log entry 38. -/
def State.withdrawFar (key : Nat) (s : State) : State :=
  match (s.thread key).run with
  | .remote id => match s.remotes.find? (fun r => r.id == id) with
    | some r =>
      if !mayWait r.op || s.remotes.any (fun x => x.op == .withdraw id) then s
      else
        let (n, s) := s.newId
        { s with remotes := s.remotes ++ [{ r with id := n, op := .withdraw id }] }
    | none => s
  | _ => s
/-- Asks so for the threads of a party that is to be saved. -/
def State.withdrawParty (a : Party) (s : State) : State := a.keys.foldl (fun s (_, k) => s.withdrawFar k) s

/-! Party images (R413). -/

/-- Granules that a party holds on a Spindle by their role. -/
def Spindle.held (p : Spindle) (pid : Nat) : List Nat := (upto 20).filter (fun i => (p.grans.getD i {}).role == .spad pid)
/-- A party's granules on a Spindle pass to L1 (R347); its stash lines there go back (R213). Log entry 25. -/
def State.gransFree (g pid : Nat) (s : State) : State :=
  let ns := (s.spindle g).held pid
  if ns = [] then s else
  let ended (s : State) : State := match s.party? pid with
    | some a => s.stashEnd g a.ctx ns
    | none => s
  (ended s).setRole g ns .l1 true

/-- The words of a granule. -/
def Spindle.granWords (p : Spindle) (n : Nat) : List Word :=
  (upto 2048).map (fun i => BitVec.ofNat 64 (ofBytes ((upto 8).map (fun b => p.ua.getD 0 (16384 * n + 8 * i + b)))))
/-- Fills a granule from words. -/
def Spindle.granFill (n : Nat) (ws : List Word) (p : Spindle) : Spindle :=
  { p with ua := ((upto ws.length).zip ws).foldl (fun ua (i, w) =>
      if w = 0 then ua else ((upto 8).zip (toBytes 8 w.toNat)).foldl (fun (ua : Tab Byte) (b, v) =>
        if v = 0 then ua else ua.put (16384 * n + 8 * i + b) v) ua) p.ua }

/-- Writes a party's header, stash mappings and scratchpad images into its block (R413). -/
def State.partyImage (a : Party) (b : Nat) (s : State) : State :=
  let s := s.writePartyHeader a b
  (upto 8).foldl (fun s i =>
    let p := s.spindle (8 * a.rid + i)
    let gs := a.grans.getD [] i
    let s := s.pwrWords (b + 64 + 128 * i) ((upto 16).map (fun j => match gs[j]? with
      | some n => (p.grans.getD n {}).stash.getD 0
      | none => 0))
    ((upto gs.length).zip gs).foldl (fun s (k, n) => s.pwrWords (b + 524288 + 262144 * i + 16384 * k) (p.granWords n)) s) s

/-- Saves a party into a block (R413, R414): its image, then each of its threads; its slots and granules go.
Log entry 38. -/
def State.partySave (pid b : Nat) (s : State) : State :=
  let s := s.onParty pid (fun p => { p with block := some b })
  match s.party? pid with
  | none => s
  | some a =>
    let s := s.partyImage a b
    let s := a.keys.foldl (fun s (_, k) => (s.withdraw k).saveThread k b ((s.thread k).run == .stopped)) s
    (upto 8).foldl (fun s i => s.gransFree (8 * a.rid + i) pid) s

/-- Whether a copy or a command of a party has yet to fill (R203, R242). -/
def State.partyBusy (s : State) (pid : Nat) (a : Party) : Bool :=
  (s.cluster a.rid).copies.any (fun c => c.party == pid)
    || (upto 8).any (fun i => (s.spindle (8 * a.rid + i)).queue.any (fun (_, q) => q.any (fun c => c.party == pid)))
    || (s.ctx a.ctx).plyKeep.any (fun c => c.party == pid)
/-- Whether a party may be saved now. -/
def State.partySavable (s : State) (pid : Nat) (a : Party) : Bool :=
  a.keys.all (fun (_, k) => ((s.thread k).run == .stopped && (s.thread k).sfu.isEmpty)
      || ((s.thread k).quiet && (s.thread k).level != .monitor))
    && !s.partyBusy pid a

/-! The swap (R423, R425). -/

/-- Whether a page that a party awaits has a slot (R425). Log entry 39. -/
def State.awaitsSlot (s : State) (a : Party) : Bool :=
  (upto 4).any (fun d => (s.die d).reqs.any (fun q => q.slot.isSome && a.pend.contains q.entry))
/-- PARTY_SWAP_OUT (R423, R425): a drained party goes into a block, or stays when the pool is empty. Log entry 39. -/
def State.swapOut (pid : Nat) (s : State) : State :=
  match s.party? pid with
  | none => s
  | some a =>
    if a.swap ≠ .draining ∨ (s.ctx a.ctx).saving then s
    else if !s.partySavable pid a then s.withdrawParty a
    else
    let out (b : Nat) (s : State) : State :=
      let s := State.partySave pid b (s.onParty pid (fun p => { p with swap := .saving }))
      let s := (s.onParty pid (fun p => { p with swap := .out })).swapWrite pid
      if a.pend = [] then s.pendZero pid else s
    match a.block, s.takeBlock a.ctx with
    | none, none =>
      let s := (s.onParty pid (fun p => { p with swap := .staying })).poolMet a.ctx (8 * a.rid)
      if a.pend = [] then s.pendZero pid else s
    | some b, _ => if s.awaitsSlot a then s else out b s
    | none, some (b, t) => if s.awaitsSlot a then s else out b t
/-- PARTY_SWAP_OUT (R423). -/
def execPartySwapOut (s : State) : Host.Outcome State Fault Refusal :=
  match s.ev with
  | .unit p => .next (s.swapOut p)
  | _ => .next s

/-! Restores (R412, R413, R423). -/

/-- Whether a saved thread's area still has STOPPED set. -/
def State.stillStopped (s : State) (e : SavedThread) : Bool := tbit (s.prd8 (e.area + 2432)) 3
/-- Whether its own Spindles can take a saved party: slots for its threads, room for its context, its granules. -/
def State.partyFits (s : State) (a : Party) : Bool :=
  (upto 8).all (fun i =>
    let g := 8 * a.rid + i
    let n := (a.saved.filter (fun e => gspOf e.key == g && !s.stillStopped e)).length
    let k := (a.grans.getD [] i).length
    (n == 0 || (decide (n ≤ (s.freeSlots g).length) && s.mayServe g a.ctx)) && ((s.spindle g).grant k a.ctx none).isSome)

/-- Places a saved thread in a free slot of its Spindle, to issue its group again (R412, R423). -/
def State.threadIn (pid : Nat) (e : SavedThread) (s : State) : State :=
  let g := gspOf e.key
  let key := 16 * g + (s.freeSlots g).headD 0
  let t := e.rest.ofArea (s.prdWords e.area 348)
  let s := { s with threads := s.threads.put key { t with resumed := true } }
  let s := s.powerUp (g / 8)
  let s := s.onParty pid (fun p => { p with keys := p.keys.put t.pidx.toNat key })
  match t.run with
  | .barrier _ => s
  | _ => s.makeReady key

/-- The first poisoned line of a party's block outside its thread areas (R403, R413). -/
def State.partyError (s : State) (b : Nat) (a : Party) : Option Cause :=
  (s.areaError b 1088).or ((upto 8).findSome? (fun i => s.areaError (b + 524288 + 262144 * i) (16384 * (a.grans.getD [] i).length)))
/-- An uncorrectable error met while restoring a saved thread (R403): a KIND 7 record, and the thread stays in its area, STOPPED.
An error in the rest of the block concerns every thread of the party. Log entry 59. -/
def State.restoreCheck (b : Nat) (a : Party) (s : State) : State :=
  let all := s.partyError b a
  a.saved.foldl (fun s e =>
    if s.stillStopped e then s else
    match all.or (s.areaError e.area 3072) with
    | none => s
    | some c =>
      let s := s.trapRecord {
        kind := 7, cause := c, loc := BitVec.ofNat 64 e.area, unit := gspOf e.key, slot := slotOf e.key
        level := e.rest.level.code, ctx := a.ctx }
      (s.pwr8 (e.area + 2432) (s.prd8 (e.area + 2432) ||| 8)).parkUnit a.owner c) s

/-- Reloads a party's granules on Spindle index i from its block: the bytes and the stash mappings. -/
def State.gransIn (pid b i : Nat) (a : Party) (s : State) : State :=
  let n := (a.grans.getD [] i).length
  if n = 0 then s else
  let g := 8 * a.rid + i
  let (gs, s) := s.takeGrans g n pid a.ctx none
  let s := s.onParty pid (fun p => { p with grans := p.grans.put i gs })
  ((upto n).zip gs).foldl (fun s (k, m) =>
    let base := s.prd8 (b + 64 + 128 * i + 8 * k)
    let ws := s.prdWords (b + 524288 + 262144 * i + 16384 * k) 2048
    s.onSpindle g (fun p => Spindle.granFill m ws { p with
      grans := p.grans.set m { (p.grans.getD m {}) with stash := if base = 0 then none else some base } })) s

/-- PARTY_SWAP_IN (R412, R423): a queued party comes back when its Spindles can take it; its block goes to the pool unless a
stopped thread keeps it. Log entry 39. -/
def State.swapIn (pid : Nat) (s : State) : State :=
  match s.party? pid with
  | none => s
  | some a => match a.block with
    | none => s
    | some b =>
      if a.swap ≠ .queued ∨ !s.partyFits a then s else
      let s := ((s.onParty pid (fun p => { p with swap := .restoring })).swapWrite pid).restoreCheck b a
      let s := (upto 8).foldl (fun s i => s.gransIn pid b i a) s
      let bars := (upto 16).map (fun i => (i, fld (s.prd8 (b + 32 + i / 8 * 8)) (8 * (i % 8) + 7) (8 * (i % 8))))
      let stay := a.saved.filter s.stillStopped
      let come := a.saved.filter (fun e => !s.stillStopped e)
      let s := s.onParty pid (fun p => { p with
        arrived := bars.filter (fun q => q.2 != 0), saved := stay.map (fun e => { e with stopped := true })
        pend := [], swap := .running, block := if stay = [] then none else some b })
      let s := come.foldl (fun s e => s.threadIn pid e) s
      if stay = [] then s.returnBlock a.ctx b else s.swapWrite pid
/-- PARTY_SWAP_IN (R423). -/
def execPartySwapIn (s : State) : Host.Outcome State Fault Refusal :=
  match s.ev with
  | .unit p => .next (s.swapIn p)
  | _ => .next s

/-- A thread stopped by a fatal event that waits for a block takes one when the pool has one (R403). -/
def State.stoppedTurn (key : Nat) (s : State) : State :=
  if (s.thread key).run = .stopped then (s.withdraw key).stopThread key else s

end Sys2Proof.Machine
end

