-- ==== Sys2Proof/Machine/Contexts.lean ====
section
/-! DEFINITION. The context commands SAVE, RESUME, REINJECT and ABANDON (13, R411, R412). -/

namespace Sys2Proof.Machine
open Sys2Proof

/-! SAVE. -/

/-- The parties, and the regions, of a context. -/
def State.partiesOf (s : State) (c : BitVec 12) : List (Nat × Party) := s.parties.filter (fun (_, p) => p.ctx == c)
def State.regionsOf (s : State) (c : BitVec 12) : List Nat := (s.regions.filter (fun (_, r) => r.ctx == some c)).map (·.1)

/-- CTXCMD_SAVE (R412): dispatch stops, and the save runs until every unit is saved. -/
def execCtxcmdSave (s : State) : Host.Outcome State Fault Refusal :=
  match s.ev with
  | .ctx c => .next ((s.onCtx c (fun x => { x with saving := true })).later (.event .saveComplete (.ctx c)))
  | _ => .next s

/-- Saves a party for SAVE when it can be: one that is out for storage counts as saved (R423). Log entry 38. -/
def State.saveParty (pid : Nat) (s : State) : State :=
  match s.party? pid with
  | none => s
  | some a =>
    if a.held then s
    else match a.swap with
    | .out | .queued =>
      let s := s.onCluster a.rid (fun k => { k with entries := k.entries.filter (fun e => e.what != .resume pid) })
      s.onParty pid (fun p => { p with held := true })
    | _ =>
      if !s.partySavable pid a then s.withdrawParty a else
      let save (b : Nat) (s : State) : State :=
        (State.partySave pid b (s.onParty pid (fun p => { p with swap := .running, pend := [] }))).onParty pid
          (fun p => { p with held := true })
      match a.block with
      | some b => save b s
      | none => match s.takeBlock a.ctx with
        | some (b, s) => save b s
        | none => s.poolMet a.ctx (8 * a.rid)

/-- One turn of a SAVE: each party and region that can be is saved; then the Ply state of each Spindle; then it is done.
Log entry 38. -/
def State.saveTurn (c : BitVec 12) (s : State) : State :=
  if !(s.ctx c).saving then s else
  let s := (s.partiesOf c).foldl (fun s (p, _) => s.saveParty p) s
  let s := (s.regionsOf c).foldl (fun s r => if (s.region r).idle then s.regionLeave r else s.drainStart r noCause) s
  if (s.partiesOf c).any (fun (_, p) => !p.held) || s.regionsOf c != [] then s else
  let ply (s : State) : List Nat := (s.spindles.filter (fun (_, p) => p.hasPly c)).map (·.1)
  let s := (ply s).foldl (fun s g => s.plySave g c) s
  if ply s ≠ [] then s
  else (s.onCtx c (fun x => { x with saving := false, saved := true })).ctxcmdEnd 0x00
/-- SAVE_COMPLETE (R412): a turn of the save, until every unit is saved and BUSY clears. -/
def execSaveComplete (s : State) : Host.Outcome State Fault Refusal :=
  match s.ev with
  | .ctx c => .next (s.saveTurn c)
  | _ => .next s

/-! RESUME. -/

/-- A region image goes to its dispatcher, unless it waits for a page. -/
def State.imageResume (b : Nat) (m : Image) (s : State) : State :=
  if m.page.isSome ∨ m.queued then s
  else
    let cls := (m.rest.frames.map (fun (_, f) => f.cls)).foldl max 0
    State.enqueue m.rid (min cls (s.prioCeil m.ctx)) (.image b) { s with images := s.images.put b { m with queued := true } }
/-- A saved party goes to its dispatcher, unless it still awaits pages. -/
def State.partyResume (pid : Nat) (a : Party) (s : State) : State :=
  if !a.held then s else
  let s := s.onParty pid (fun p => { p with held := false })
  match a.swap with
  | .out => if a.pend = [] then s.pendZero pid else s
  | .queued => s.enqueue a.rid (min 7 (s.prioCeil a.ctx)) (.resume pid)
  | _ => (s.onParty pid (fun p => { p with swap := .queued })).enqueue a.rid (min a.cls (s.prioCeil a.ctx)) (.resume pid)
/-- CTXCMD_RESUME (R412). -/
def State.resumeCtx (c : BitVec 12) (s : State) : State :=
  let s := s.onCtx c (fun x => { x with saved := false })
  let s := (s.partiesOf c).foldl (fun s (p, a) => s.partyResume p a) s
  let s := (s.images.filter (fun (_, m) => m.ctx == c)).foldl (fun s (b, m) => s.imageResume b m) s
  let s := (s.spindles.map (·.1)).foldl (fun s g => if (s.spindle g).inTable c.toNat then s.plySettle g else s) s
  s.ctxcmdEnd 0x00
/-- CTXCMD_RESUME (R412). -/
def execCtxcmdResume (s : State) : Host.Outcome State Fault Refusal :=
  match s.ev with
  | .ctx c => .next (s.resumeCtx c)
  | _ => .next s

/-! REINJECT and ABANDON (R288, R412). -/

/-- A frame command: the frame whose cut record is at CTXARG, or RESULT 0x02; one that must wait tries again.
Log entry 15. -/
def State.frameCmd (i : Instr) (c : BitVec 12) (f : Sum Nat Nat × Nat → State → Acc Unit) (s : State) : State :=
  match s.faultedAt c s.ctxarg with
  | none => s.ctxcmdEnd 0x02
  | some w => match f w s with
    | .ok _ s => s.ctxcmdEnd 0x00
    | .hold g => (g s).after 2 (.event i (.ctx c))
    | .trap _ => s.ctxcmdEnd 0x00
/-- CTXCMD_REINJECT (R288, R412). -/
def execCtxcmdReinject (s : State) : Host.Outcome State Fault Refusal :=
  match s.ev with
  | .ctx c => .next (s.frameCmd .ctxcmdReinject c State.reinject)
  | _ => .next s
/-- CTXCMD_ABANDON (R288, R412). -/
def execCtxcmdAbandon (s : State) : Host.Outcome State Fault Refusal :=
  match s.ev with
  | .ctx c => .next (s.frameCmd .ctxcmdAbandon c State.abandon)
  | _ => .next s

end Sys2Proof.Machine
end

