-- ==== Sys2Proof/Machine/Dispatcher.lean ====
section
/-! DEFINITION. The dispatcher of a cluster: its decisions and the placement of what its entries ask for (12, R368, R369, R376,
R388 to R390; 08, R279; 09, R302). -/

namespace Sys2Proof.Machine
open Sys2Proof

/-! Discards (R302, R368, R389, R400). -/

/-- The KIND 4 record of a discarded unit: WHERE is the address of its record, launch record or Itinerary node (R396).
Log entry 30. -/
def State.discardRecord (rid : Nat) (c : BitVec 12) (at_ : Word) (e : Cause) (s : State) : State :=
  s.trapRecord { kind := 4, cause := e, loc := at_, unit := rid, level := (ctxLevel c).code, ctx := c }
/-- T-ILL, SUB 0x50: a dispatch word that breaks its table (R389). -/
def badDispatch : Cause := ⟨0, 0x50, 0, false, 0⟩

/-! Call records (R123, R279, R280). -/

/-- The operation of the callx that a call record of activation frame f stands for, whose word 7 names the caller (R123). -/
def State.calleeOp (c : BitVec 12) (f w7 : Word) (s : State) : Option Nat :=
  let op? (t : Thread) : Option Nat :=
    (t.callees.find? (fun q => q.2 == (f, replyKey w7) && t.ops.contains q.1)).map (·.1)
  match s.findThread (fun t => t.ctx == c && (op? t).isSome) with
  | some (.inl k) => op? (s.thread k)
  | some (.inr (_, e)) => op? e.rest
  | none => none
/-- The caller that a call record names: the thread of a callx, or the call node of word 1 of the activation frame. -/
def State.callerOf (rid : Nat) (c : BitVec 12) (ws : List Word) (s : State) : Acc Caller :=
  let f := ws.getD 0 0
  if recCall (ws.getD 6 0) = 1 then .ok (match s.calleeOp c f (ws.getD 7 0) with
    | some op => .thread op
    | none => .unit .none) s
  else (s.placeRead rid c (f.toNat + 8) .load).bind (fun w s =>
    let w := w.getD 0
    .ok (.node { rid := fld w 22 16, tag := BitVec.ofNat 16 (fld w 15 0), node := BitVec.ofNat 8 (fld w 30 23), f := f }) s)

/-- The thread of a T callee (R279). Log entry 31. -/
def State.calleeThread (c : BitVec 12) (cls : Nat) (entry f : Word) (args : List Word) (r : HRecord) (i : Nat) (s : State) :
    Thread :=
  s.newThread c cls entry (((upto 8).map (fun j => (10 + j, args.getD j 0))) ++ [(2, f), (4, thAddr i)]) r.fmt r.sca 0 0

/-- A call record whose entry lies in a retired page is discarded (R302), and its caller answered as of a frame abandoned.
Log entry 30. -/
def State.callGone (rid : Nat) (r : HRecord) (e : Cause) (s : State) : Acc Unit :=
  let c := recCtx (r.words.getD 6 0)
  (s.callerOf rid c r.words).bind (fun caller s =>
    (s.discardRecord rid c r.image e).callAbandon rid c
      { f := some (r.words.getD 0 0), caller := caller, cls := 0, fmt := r.fmt, sca := r.sca } e)
/-- Places a call record (R123, R279, R390). -/
def State.placeCall (rid : Nat) (e : DEntry) (h : HEntry) (p : Word) (s : State) : Acc Unit :=
  let r := h.record
  let ws := r.words
  let c := recCtx (ws.getD 6 0)
  let f := ws.getD 0 0
  let cls := min e.cls (s.prioCeil c)
  (s.callerOf rid c ws).bind (fun caller s =>
    let x : Start := { f := some f, caller := caller, cls := cls, fmt := r.fmt, sca := r.sca }
    if fld p 1 0 = 1 then s.placeFrame rid c (p &&& ~~~7) x
    else (Acc.each (fun j s => s.placeRead rid c (f.toNat + 32 + 8 * j) .load) (upto 8) s).bind (fun as s =>
      if as.any Option.isNone then
        let e : Cause := tPage 0x01 0 false (f + 32)
        (s.discardRecord rid c r.image e).callAbandon rid c x e
      else match s.plan rid c 0 false none [1] [] with
      | none => .hold id
      | some plan =>
        let args := as.map (fun a => a.getD 0)
        .ok () (s.partyStart { ctx := c, rid := rid, size := 1, live := 1, cls := cls } 0 none plan (fun i _ =>
          { s.calleeThread c cls p f args r i with answers := some (caller, f) }))))

/-! Records (R389, R390). -/

/-- The thread of a Hamper task (R389). Log entry 31. -/
def State.taskThread (c : BitVec 12) (cls : Nat) (entry : Word) (r : HRecord) (i : Nat) (s : State) : Thread :=
  let w (k : Nat) : Word := r.words.getD k 0
  s.newThread c cls entry [(4, thAddr i), (10, w 2), (11, w 3), (12, w 4), (13, w 5), (14, w 0), (15, w 7), (16, w 6)]
    r.fmt r.sca 0 0

/-- Places a due record. -/
def State.placeRecord (rid : Nat) (e : DEntry) (h : HEntry) (s : State) : Acc Unit :=
  let r := h.record
  let w (k : Nat) : Word := r.words.getD k 0
  let c := recCtx (w 6)
  let cls := min e.cls (s.prioCeil c)
  let gone (s : State) : State := s.recordOut rid h.num
  if !s.admits c then .ok () (gone s)
  else
    let placed : Acc Unit :=
      match s.entryOf rid c (w 1) with
      | .hold f => .hold f
      | .trap x => if recCall (w 6) ≠ 0 then s.callGone rid r x else .ok () (s.discardRecord rid c r.image x)
      | .ok p s =>
        if recCall (w 6) ≠ 0 then s.placeCall rid e h p
        else if fld p 1 0 = 1 then s.placeFrame rid c (p &&& ~~~7) {
          f := none, args := [w 2, w 3, w 4, w 5, w 0, w 7], caller := .record (w 7), cls := cls, fmt := r.fmt, sca := r.sca }
        else (s.dispatchWord rid c p).bind (fun d s => match dispatchSize d with
          | none => .ok () (s.discardRecord rid c r.image badDispatch)
          | some (size, spad) => match s.plan rid c spad true none [size] [] with
            | none => .hold id
            | some plan => .ok () (s.partyStart { ctx := c, rid := rid, size := size, live := size, cls := cls, target := w 7 }
                spad none plan (fun i _ => s.taskThread c cls p r i)))
    placed.bind (fun _ s => .ok () (gone s))

/-! Parties of a launch (R366 to R369). -/

/-- The thread of linear index n of a launch (R367). -/
def State.launchThread (l : Launch) (cls : Nat) (entry : Word) (i n : Nat) (s : State) : Thread :=
  let ws := l.words
  let base := ws.getD 26 0
  let sp := if base = 0 then 0 else base + BitVec.ofNat 64 ((n + 1) * fld (ws.getD 27 0) 31 0)
  s.newThread l.ctx cls entry (((upto 8).map (fun j => (10 + j, (lArgs ws).getD j 0)))
    ++ [(2, sp), (3, ws.getD 28 0), (4, thAddr i)]) (ws.getD 4 0) (lSca ws) (BitVec.ofNat 64 l.serial) n
/-- Starts n more frames of a party of a launch (R369): each takes a tag, or waits for one with those after it. -/
def State.launchFrames (rid : Nat) (l : Launch) (cls : Nat) (img : Word) (num : Nat) : Nat → State → Acc Unit
  | 0, s => .ok () s
  | n + 1, s => match s.placeFrame rid l.ctx img {
      f := none, args := lArgs l.words, caller := .unit (.launch l.serial), cls := cls, fmt := l.words.getD 4 0
      sca := lSca l.words } with
    | .ok _ s => State.launchFrames rid l cls img num n s
    | .hold f => .hold (fun _ => (f s).onCluster rid (fun k => { k with entries := k.entries.map (fun e =>
        if e.num = num then { e with begun := partySize l.words - (n + 1) } else e) }))
    | .trap c => .trap c

/-- Places a party of a launch; one that is discarded drops the units that have not started (R368, R372). -/
def State.placeLaunch (rid serial p : Nat) (e : DEntry) (s : State) : Acc Unit :=
  match Tab.find serial s.launches with
  | none => .ok () s
  | some l =>
    let ws := l.words
    let size := partySize ws
    let cls := min e.cls (s.prioCeil l.ctx)
    if !s.admits l.ctx then .ok () (s.unitDrop serial (size - e.begun))
    else match s.entryOf rid l.ctx (ws.getD 0 0) with
    | .hold f => .hold f
    | .trap x => .ok () ((s.discardRecord rid l.ctx l.image x).unitDrop serial (size - e.begun))
    | .ok entry s =>
      if fld entry 1 0 = 1 then s.launchFrames rid l cls (entry &&& ~~~7) e.num (size - e.begun)
      else
        let (units, split) := partyUnits ws
        let spad := partyGrans ws
        let succ := some (lSucc ws)
        match s.plan rid l.ctx spad split succ units [] with
        | none => .hold id
        | some plan => .ok () (s.partyStart {
            ctx := l.ctx, rid := rid, size := size, live := size, cls := cls, owner := .launch serial, succ := lSucc ws }
            spad succ plan (fun i j => s.launchThread l cls entry i (p * size + j)))

/-! Firings of Itinerary nodes (R369, R376). -/

/-- What a node's task reads: ARG, the firing index, GEN, the node index, and ARG0 to ARG3. -/
def nodeArgs (l : Launch) (i : Itin) (n : INode) (firing : Nat) : List Word :=
  [n.arg, BitVec.ofNat 64 firing, BitVec.ofNat 64 (headGen i.head), BitVec.ofNat 64 n.ix] ++ (lArgs l.words).take 4
/-- Places a firing. A discarded one parks its node (R368). Log entry 32. -/
def State.placeNode (rid serial j firing : Nat) (e : DEntry) (s : State) : Acc Unit :=
  match s.itin? serial, Tab.find serial s.launches with
  | some (d, i), some l =>
    let c := i.ctx
    let cls := min e.cls (s.prioCeil c)
    let u : UnitRef := .itin serial j firing
    let at_ : Word := BitVec.ofNat 64 (headNodes i.head + 32 * j)
    let park (x : Cause) (s : State) : Acc Unit := .ok () ((s.discardRecord rid c at_ x).parkUnit u x)
    if !s.admits c then .ok () (s.onItin d serial (fun i => { i with
      running := i.running.filter (· != (j, firing)), ending := true }))
    else match s.itNode d c i.head j with
    | .hold f => .hold f
    | .trap _ => .ok () (s.itinEnd d serial 0x01)
    | .ok n s => match s.entryOf rid c n.entry with
      | .hold f => .hold f
      | .trap x => park x s
      | .ok p s =>
        let args := nodeArgs l i n firing
        let fmt := l.words.getD 4 0
        if fld p 1 0 = 1 then s.placeFrame rid c (p &&& ~~~7) {
          f := none, args := args, caller := .unit u, cls := cls, fmt := fmt, sca := lSca l.words }
        else (s.dispatchWord rid c p).bind (fun w s => match dispatchSize w with
          | none => park badDispatch s
          | some (size, spad) => match s.plan rid c spad true (some (lSucc l.words)) [size] [] with
            | none => .hold id
            | some plan => .ok () (s.partyStart {
                ctx := c, rid := rid, size := size, live := size, cls := cls, owner := u, succ := lSucc l.words }
                spad (some (lSucc l.words)) plan (fun k _ =>
                  s.newThread c cls p (((upto 8).map (fun a => (10 + a, args.getD a 0)))
                    ++ [(3, l.words.getD 28 0), (4, thAddr k)]) fmt (lSca l.words) (BitVec.ofNat 64 serial) firing)))
  | _, _ => .ok () s

/-! Decisions (R388). -/

/-- The context of an entry. -/
def State.entryCtx (s : State) (rid : Nat) (e : DEntry) : BitVec 12 :=
  match e.what with
  | .record num => ((((s.cluster rid).records.find? (fun h => h.num == num)).map (fun h => recCtx (h.record.words.getD 6 0)))).getD 0
  | .launch n _ | .itin n _ _ => ((Tab.find n s.launches).map Launch.ctx).getD 0
  | .resume p => ((s.party? p).map Party.ctx).getD 0
  | .image b => ((Tab.find b s.images).map Image.ctx).getD 0
/-- An entry's place among those of its arrival: a record's way, a request's number. -/
def State.entryTie (s : State) (rid : Nat) (e : DEntry) : Nat :=
  match e.what with
  | .record num => (((s.cluster rid).records.find? (fun h => h.num == num)).map HEntry.way).getD 0
  | _ => e.num
/-- Whether entry a is older than b. -/
def State.older (s : State) (rid : Nat) (a b : DEntry) : Bool :=
  decide (a.arrival < b.arrival) || (a.arrival == b.arrival && decide (s.entryTie rid a < s.entryTie rid b))
/-- Inserts into a list ordered by a relation. -/
def insertBy {α : Type} (before : α → α → Bool) (a : α) : List α → List α
  | [] => [a]
  | b :: t => if before a b then a :: b :: t else b :: insertBy before a t
/-- The entries of a cluster that may be served, oldest first: dispatch of a context being saved or saved stands still (R412). -/
def State.byAge (s : State) (rid : Nat) : List DEntry :=
  ((s.cluster rid).entries.filter (fun e => let x := s.ctx (s.entryCtx rid e); !x.saved && !x.saving)).foldl
    (fun l e => insertBy (s.older rid) e l) []

/-- Claims an entry and places what it asks for, or waits. -/
def State.tryPlace (rid : Nat) (e : DEntry) (s : State) : Acc Unit :=
  let placed : Acc Unit := match e.what with
    | .record num => match (s.cluster rid).records.find? (fun h => h.num == num) with
      | some h => s.placeRecord rid e h
      | none => .ok () s
    | .launch n p => s.placeLaunch rid n p e
    | .itin n j f => s.placeNode rid n j f e
    | .resume p => match s.party? p with
      | some a => if a.swap = .queued ∧ !s.partyFits a then .hold id else .ok () (s.soonEv .partySwapIn (.unit p))
      | none => .ok () s
    | .image b => if (s.region rid).idle then s.imageRestore b else .hold id
  placed.bind (fun _ s => .ok () (s.onCluster rid (fun k => { k with entries := k.entries.filter (fun x => x.num != e.num) })))

/-- The first of a list that can be placed now is placed: whether one was. -/
def State.placeFirst (rid : Nat) : List DEntry → State → Bool × State
  | [], s => (false, s)
  | e :: t, s => match s.tryPlace rid e with
    | .ok _ s => (true, s)
    | .hold f => State.placeFirst rid t (f s)
    | .trap _ => State.placeFirst rid t s

/-- Due records whose context is not active any more are discarded before a decision could claim them (R386). -/
def State.inactiveOut (rid : Nat) (s : State) : State :=
  ((s.cluster rid).records.filter (fun e => e.due && !s.ctxActive (recCtx (e.record.words.getD 6 0)))).foldl
    (fun s e => s.recordDue rid e.num) s
/-- DISPATCH_DECISION (R388): a decision falls in each fc in which the dispatcher holds entries; while a reservation stands, its
entry is claimed, and only it is served; every sixteenth decision serves the oldest entry, or reserves for it; the others serve the highest
class. Log entry 15. -/
def State.decision (rid : Nat) (s : State) : State :=
  let s := s.inactiveOut rid
  let k := s.cluster rid
  let es := s.byAge rid
  let count (s : State) : State := s.onCluster rid (fun k => { k with decisions := k.decisions + 1 })
  match k.reserved.bind (fun n => k.entries.find? (fun e => e.num == n)) with
  | some e =>
    let (done, s) := State.placeFirst rid (es.filter (fun x => x.num == e.num)) s
    if done || es.all (fun x => x.num != e.num) then s.onCluster rid (fun k => { k with reserved := none }) else s
  | none =>
    let s := s.onCluster rid (fun k => { k with reserved := none })
    if es = [] then s
    else if k.decisions % 16 = 15 then match es with
      | [] => s
      | e :: _ =>
        let (done, s) := State.placeFirst rid [e] s
        let s := count s
        if done then s else s.onCluster rid (fun k => { k with reserved := some e.num })
    else
      let by_ := ([7, 6, 5, 4, 3, 2, 1, 0] : List Nat).flatMap (fun c => es.filter (fun e => e.cls == c))
      count (State.placeFirst rid by_ s).2
/-- DISPATCH_DECISION (R388). -/
def execDispatchDecision (s : State) : Host.Outcome State Fault Refusal :=
  match s.ev with
  | .unit rid => .next (s.decision rid)
  | _ => .next s

end Sys2Proof.Machine
end

