-- ==== Sys2Proof/Machine/Work.lean ====
section
/-! DEFINITION. WORK instructions: callx, spawn, callat, reply, launch, bar and halt, and the delivery of a reply (04, R121 to
R141). -/

namespace Sys2Proof.Machine
open Sys2Proof

/-! callx (R121 to R123). -/

/-- Resolves the pointer of callx: its tag, through a linkage cell (R36, R122). The TVAL of a cell that holds no entry is the
cell's address, as in R368. A cell in the scratchpad window or in a command window is read as a plain load reads there, which
the model chooses: no rule says whether R187's T-PERM 0x10 takes in the load8_acquire of R122. Log entry 28. -/
def State.callPointer (p : Word) (s : State) : Acc Word :=
  if tbit p 2 ∨ fld p 1 0 = 3 then .trap (tTag p)
  else if fld p 1 0 = 2 then (s.look (p &&& ~~~7).toNat).bind (fun q s =>
    if tbit q 2 ∨ 2 ≤ fld q 1 0 then .trap (tTag (p &&& ~~~7)) else .ok q s)
  else .ok p s

/-- Stores words at rising addresses. -/
def State.storeWords (a : Nat) : List Word → State → Acc Unit
  | [], s => .ok () s
  | w :: t, s => (s.once (fun s => (s.store (a % 2 ^ 64) 8 w.toNat).bind (fun _ s => .ok 0 s))).bind (fun _ s =>
      State.storeWords (a + 8) t s)
/-- The write access to an activation frame that callx checks before it writes (R122), on another device too. -/
def State.frameMay (f : Nat) (s : State) : Acc Unit :=
  (Acc.each (fun i s =>
    let q : Req := { va := (f + 64 * i) % 2 ^ 64, n := 8, al := 8, k := .store }
    (s.resolve q).bind (fun l s => s.farMay { q with n := 64 } l)) [0, 1] s).bind (fun _ s => .ok () s)

/-- Places a cross-encoding call (R123): on the cluster's region, or as a call record to its Hamper.
Log entries 6, 37. -/
def State.callSubmit (f p : Word) (op : Nat) (s : State) : State :=
  let t := s.thr
  let rid := ridOf s.cur
  let x : Start := { f := some f, caller := .thread op, cls := t.cls, fmt := t.fmt, sca := [t.sca0, t.sca1, t.sca2, t.sca3] }
  let away : State := s.sendRecord rid {
    words := s.callWords t.ctx f p t.cls 1 (replyTarget 0 s.cur 10 false), fmt := t.fmt, sca := x.sca
    sender := threadSender t, fromRegion := false, counted := false, first := none, image := f }
  if (s.region rid).holds t.ctx (p &&& ~~~7) ∧ (s.cluster rid).reserved = none then
    match (s.sequencer rid).takeTag rid with
    | .ok (some k) s => match s.frameStart rid k x with
      | .ok _ s => s
      | _ => away
    | _ => away
  else away

/-- callx across to G (R122): the activation frame, the empty registers, the call. Log entry 28. -/
def State.callAcross (p next : Word) (args : List Word) (s : State) : Acc Unit :=
  let f := s.thr.rx 2
  if !s.feature s.thr.ctx 0 then .trap (tFeature 0)
  else match s.thr.emptyOf [2, 8] with
  | some r => .hold (fun s => s.onThr (fun t => { t with run := .parked r }))
  | none =>
    if fld f 5 0 ≠ 0 then .trap (tAlign f)
    else ((s.frameMay f.toNat).bind (fun _ s => s.storeWords f.toNat ([next, s.thr.rx 8, 0xF, 0] ++ args ++ [0, 0, 0, 0]))).bind (fun _ s =>
      let (op, s) := s.newId
      let s := s.onThr (fun t => { t with
        ops := t.ops ++ [op], callees := (t.callees.filter (fun q => t.ops.contains q.1)) ++ [(op, f, s.cur)] })
      let s := [10, 11, 12, 13].foldl (fun s r => s.onThr (fun t => t.setEmpty r (.op op))) s
      .ok () (s.callSubmit f p op))

/-- callx (R121, R122). -/
def opCallx (rd rs1 : Reg) : TOp :=
  { xs := [rs1, 10, 11, 12, 13, 14, 15, 16, 17], xd := [rd], wf := (Instr.callx rd rs1).wf,
    run := fun ws s =>
      let next := s.thr.pc + s.thr.len
      (s.callPointer (ws.getD 0 0)).bind (fun p s => (Acc.check (pointerCheck s.thr.level p) s).bind (fun _ s =>
        if fld p 1 0 = 0 then .ok { ws := [(rd, next)], target := some (p &&& ~~~7) } s
        else (s.callAcross p next (ws.drop 1)).bind (fun _ s => .ok { ws := [(rd, next)] } s))) }
/-- callx (R121, R122). -/
def execCallx (rd rs1 : Reg) (s : State) : Host.Outcome State Fault Refusal := issueOp (opCallx rd rs1) s

/-! spawn (R127 to R129). -/

/-- The Spindles that a spawn may use. Log entry 6. -/
def State.spawnCand (s : State) (w : Word) : List Nat :=
  if tbit w 10 then (upto 8).map (fun i => 8 * ridOf s.cur + i) else [fld w 9 0]
/-- The child of a spawn (R128). Log entry 28. -/
def State.child (s : State) (p : Word) (xs : List Word) (gp : Word) : Thread :=
  let t := s.thr
  let n := s.newThread t.ctx t.cls p [(10, xs.getD 0 0), (11, xs.getD 1 0), (12, xs.getD 2 0), (13, xs.getD 3 0), (3, gp)]
    t.fmt [t.sca0, t.sca1, t.sca2, t.sca3] t.launch t.nidx.toNat
  { n with level := t.level }

/-- spawn (R127 to R129). It reads a0 to a3 and gp, which it hands to the child. That the T-ILL of x[rs2] comes after the checks
of the target and of its tag is the model's choice: R80 orders no conditions within a parcel. Log entry 28. -/
def opSpawn (rd rs1 rs2 : Reg) : TOp :=
  { xs := [rs1, rs2, 10, 11, 12, 13, 3], xd := [rd], wf := (Instr.spawn rd rs1 rs2).wf,
    run := fun ws s =>
      let p := ws.getD 0 0
      let w := ws.getD 1 0
      (Acc.check (targetCheck s.thr.level p) s).bind (fun _ s =>
        if fld p 2 0 ≠ 0 then .trap (tTag p)
        else if fld w 63 11 ≠ 0 then .trap (tIll 0)
        else
          let ok (g : Nat) : Bool := s.present (g / 8) && s.freeSlots g != [] && s.mayServe g s.thr.ctx
          match (s.spawnCand w).find? ok with
          | some g =>
            let t := s.thr
            let (pid, s) := s.newId
            let party : Party := { ctx := t.ctx, rid := g / 8, size := 1, live := 1, cls := t.cls }
            let child := { s.child p ((ws.drop 2).take 4) (ws.getD 6 0) with party := pid }
            let (key, s) := s.birth g child
            .ok { ws := [(rd, 1)] } { s with parties := s.parties.put pid { party with keys := [(0, key)] } }
          | none => match s.thr.emptyOf [1] with
            | some r => .hold (fun s => s.onThr (fun t => { t with run := .parked r }))
            | none => .ok { ws := [(rd, 0), (1, s.thr.pc + s.thr.len)], target := some p } s) }
/-- spawn (R127 to R129). -/
def execSpawn (rd rs1 rs2 : Reg) (s : State) : Host.Outcome State Fault Refusal := issueOp (opSpawn rd rs1 rs2) s

/-! callat and callat.nb (R130 to R134). -/

/-- The cluster that homes an address, translated as a load would be (R130). Log entry 24. -/
def State.affTarget (v : Word) (s : State) : Acc Nat :=
  let t := s.thr
  match canonCheck t.level v.toNat 0 with
  | some c => .trap c
  | none =>
    if t.level ≠ .monitor ∧ inWindow v.toNat then .trap (tPerm 0x10 (infoNoWalk 0) false v)
    else (s.reach v.toNat 1 .load).bind (fun r s => .ok (s.affine (dieOf (ridOf s.cur)) r.1) s)
/-- The target Hamper: 0 .cl, 1 .aff, 2 .least (R130). -/
def State.callatTarget (mm : Nat) (v : Word) (s : State) : Acc Nat :=
  if mm = 0 then (if fld v 63 7 ≠ 0 ∨ !s.present v.toNat then .trap (tIll (fld v 31 0)) else .ok v.toNat s)
  else if mm = 1 then s.affTarget v
  else .ok (s.least (dieOf (ridOf s.cur))) s

/-- Reads n words of an image (R130, R136). -/
def State.loadWords (a n : Nat) (s : State) : Acc (List Word) :=
  Acc.each (fun i s => s.look ((a + 8 * i) % 2 ^ 64)) (upto n) s

/-- Sends a record (R133): with a reply requested into rd, or none. -/
def State.callatSend (h : Nat) (a : Word) (ws : List Word) (rd : Option Reg) (s : State) : State :=
  let t := s.thr
  let (w7, s) := match rd with
    | some r =>
      let g := t.replygen + 1
      (replyTarget g s.cur r true, s.onThr (fun t => { (t.setEmpty r (.reply s.cur g)) with replygen := g }))
    | none => (0, s)
  (s.sendRecord h {
    words := s.recordWords t.ctx ws w7, fmt := t.fmt, sca := [t.sca0, t.sca1, t.sca2, t.sca3], sender := threadSender t
    fromRegion := false, counted := true, first := none, image := a }).onThr (fun t => { t with inflight := t.inflight + 1 })

/-- callat and callat.nb (R130 to R134). The T-STRAND of a bound rd comes after the traps of the record and of the target, which
the model chooses: no rule orders them. Log entry 8. -/
def callatOp (rd rs1 : Reg) (rs2 : Option Reg) (mm : Nat) (nb : Bool) : TOp :=
  { xs := rs1 :: rs2.toList, xd := [rd],
    run := fun ws s =>
      let a := ws.getD 0 0
      if fld a 5 0 ≠ 0 then .trap (tAlign a)
      else (s.loadWords a.toNat 8).bind (fun w s => (Acc.check (recordCheck w) s).bind (fun _ s =>
        (s.callatTarget mm (ws.getD 1 0)).bind (fun h s =>
          let t := if nb then .ok () s else s.tokenCheck rd
          t.bind (fun _ s =>
            if 2 ≤ s.thr.inflight then (if nb then .ok { ws := [(rd, 1)] } s else .hold (State.roomHold .records))
            else
              let s := s.callatSend h a w (if nb ∨ rd = 0 then none else some rd)
              .ok { ws := if nb then [(rd, 0)] else [] } s)))) }

/-- callat.cl (R130). -/
def opCallatCl (rd rs1 rs2 : Reg) : TOp := callatOp rd rs1 (some rs2) 0 false
/-- callat.cl (R130). -/
def execCallatCl (rd rs1 rs2 : Reg) (s : State) : Host.Outcome State Fault Refusal := issueOp (opCallatCl rd rs1 rs2) s
/-- callat.aff (R130). -/
def opCallatAff (rd rs1 rs2 : Reg) : TOp := callatOp rd rs1 (some rs2) 1 false
/-- callat.aff (R130). -/
def execCallatAff (rd rs1 rs2 : Reg) (s : State) : Host.Outcome State Fault Refusal := issueOp (opCallatAff rd rs1 rs2) s
/-- callat.least (R130). -/
def opCallatLeast (rd rs1 : Reg) : TOp := callatOp rd rs1 none 2 false
/-- callat.least (R130). -/
def execCallatLeast (rd rs1 : Reg) (s : State) : Host.Outcome State Fault Refusal := issueOp (opCallatLeast rd rs1) s
/-- callat.nb.cl (R130). -/
def opCallatNbCl (rd rs1 rs2 : Reg) : TOp := callatOp rd rs1 (some rs2) 0 true
/-- callat.nb.cl (R130). -/
def execCallatNbCl (rd rs1 rs2 : Reg) (s : State) : Host.Outcome State Fault Refusal := issueOp (opCallatNbCl rd rs1 rs2) s
/-- callat.nb.aff (R130). -/
def opCallatNbAff (rd rs1 rs2 : Reg) : TOp := callatOp rd rs1 (some rs2) 1 true
/-- callat.nb.aff (R130). -/
def execCallatNbAff (rd rs1 rs2 : Reg) (s : State) : Host.Outcome State Fault Refusal := issueOp (opCallatNbAff rd rs1 rs2) s
/-- callat.nb.least (R130). -/
def opCallatNbLeast (rd rs1 : Reg) : TOp := callatOp rd rs1 none 2 true
/-- callat.nb.least (R130). -/
def execCallatNbLeast (rd rs1 : Reg) (s : State) : Host.Outcome State Fault Refusal := issueOp (opCallatNbLeast rd rs1) s

/-! reply (R135). -/

/-- reply (R135). -/
def opReply (rs1 rs2 : Reg) : TOp :=
  { xs := [rs1, rs2],
    run := fun ws s =>
      let w := ws.getD 0 0
      if fld w 47 40 ≠ 0 ∨ fld w 20 1 ≠ 0 then .trap (tIll 0)
      else if !tbit w 0 then .ok {} s
      else if 2 ≤ s.thr.inflight then .hold (State.roomHold .records)
      else
        let t := s.thr
        let s := s.onThr (fun t => { t with inflight := t.inflight + 1 })
        .ok {} (s.eventually (.event .replyDelivery (.reply w (ws.getD 1 0) t.ctx (threadSender t)))) }
/-- reply (R135). -/
def execReply (rs1 rs2 : Reg) (s : State) : Host.Outcome State Fault Refusal := issueOp (opReply rs1 rs2) s

/-- Fills the register that awaits a reply in the context, wherever its thread is; no other (R20, R135). -/
def State.replyFill (w v : Word) (c : BitVec 12) (s : State) : State :=
  let r := replyReg w
  let waits (t : Thread) : Bool := t.ctx == c && t.isEmpty r
    && Tab.find r.toNat t.awaits == some (.reply (replyKey w) (replyGen w))
  match s.findThread waits with
  | some at_ => s.fillAt at_ r v
  | none => s
/-- REPLY_DELIVERY (R135). -/
def execReplyDelivery (s : State) : Host.Outcome State Fault Refusal :=
  match s.ev with
  | .reply w v c sender => .next ((s.flightEnd sender).replyFill w v c)
  | _ => .next s

/-! launch (R136, R137). -/

/-- launch (R136, R137): it leaves the rotation for the answer of the die's queue; the record that the die was given is the one
that was read and checked then. SUB, INFO and TVAL of the T-PERM of a user launch of another context are the model's choice: no
subcause of R399 names it. Log entry 29. -/
def opLaunch (rd rs1 : Reg) : TOp :=
  { xs := [rs1], xd := [rd],
    run := fun ws s =>
      let a := ws.getD 0 0
      let die := dieOf (ridOf s.cur)
      if fld a 7 0 ≠ 0 then .trap (tAlign a)
      else (s.loadWords a.toNat 32).bind (fun w s =>
        if s.thr.level = .user ∧ lCtx w ≠ s.thr.ctx then .trap (tPerm 0 0 false a)
        else if s.thr.grants = [] ∧ 64 ≤ (s.die die).launchQ.length then .hold (State.roomHold .launchQueue)
        else (s.ask false (fun s =>
            let r : HRecord := { words := w, fmt := 0, sca := [], sender := s.cur, fromRegion := false, counted := false, first := none, image := a }
            (s.onThr (fun t => { t with run := .launching })).eventually (.event .launchAccept (.record die r)))).bind
          (fun a s => .ok { ws := [(rd, match a with
            | .done v _ => v
            | _ => 0)] } s)) }
/-- launch (R136, R137). -/
def execLaunch (rd rs1 : Reg) (s : State) : Host.Outcome State Fault Refusal := issueOp (opLaunch rd rs1) s

/-! bar (R138). -/

/-- Releases the threads that wait at a barrier of a party, and clears its count. -/
def State.barRelease (pid i : Nat) (s : State) : State :=
  match s.party? pid with
  | none => s
  | some a =>
    let s := s.onParty pid (fun p => { p with
      arrived := p.arrived.del i
      saved := p.saved.map (fun e => if e.rest.run = .barrier i then
        { e with rest := { e.rest with run := .ready, grants := e.rest.grants ++ [.done 0 0] } } else e) })
    a.keys.foldl (fun s (_, k) => if (s.thread k).run = .barrier i then s.answer k (.done 0 0) else s) s
/-- Completes the barriers at which every live thread of a party has arrived. Log entry 28. -/
def State.barSettle (pid : Nat) (s : State) : State :=
  match s.party? pid with
  | none => s
  | some a => a.arrived.foldl (fun s (i, n) => if 0 < n ∧ a.live ≤ n then s.barRelease pid i else s) s

/-- bar (R138): the thread leaves its position (R392), the one that completes the barrier too. -/
def opBar (rs1 : Reg) : TOp :=
  { xs := [rs1], post := fun s => s.makeReady s.cur
    run := fun ws s =>
      let v := ws.getD 0 0
      if fld v 63 4 ≠ 0 then .trap (tIll 0)
      else match s.party? s.thr.party with
        | none => .ok {} s
        | some a =>
          let i := v.toNat
          if s.thr.grants = [] ∧ a.live ≤ a.arrived.getD 0 i + 1 then
            .ok {} (s.barRelease s.thr.party i)
          else (s.ask false (fun s =>
              (s.onParty s.thr.party (fun p => { p with arrived := p.arrived.put i (p.arrived.getD 0 i + 1) })).onThr
                (fun t => { t with run := .barrier i }))).bind (fun _ s => .ok {} s) }
/-- bar (R138). -/
def execBar (rs1 : Reg) (s : State) : Host.Outcome State Fault Refusal := issueOp (opBar rs1) s

/-! halt (R140, R141). -/

/-- Answers the caller of a T callee at its halt (R125, R279, R280): its a0 to a3 go to words 12 to 15, EMPTY clears. -/
def State.calleeAnswer (caller : Caller) (f : Word) (s : State) : Acc Unit :=
  let t := s.thr
  let rid := ridOf s.cur
  let s := s.sequencer rid
  let res := [10, 11, 12, 13].map t.rx
  (Acc.each (fun (j : Nat × Word) s => s.actWrite rid t.ctx f (f.toNat + 96 + 8 * j.1) j.2) ((upto 4).zip res) s).bind (fun _ s =>
    (s.actWrite rid t.ctx f (f.toNat + 16) 0).bind (fun _ s =>
      match caller with
      | .thread op =>
        let s := ((upto 4).zip res).foldl (fun s (j, v) => s.fillResult op j v) s
        .ok () (s.fillOp op 0)
      | .node c => .ok () (s.later (.event .callCompletion (.completion {
          rid := c.rid, tag := c.tag, node := c.node, f := c.f, res := res, status := 0 })))
      | _ => .ok () s))

/-- The party's granules on the Spindle of its last thread there: retained or released (R140, R141). Log entry 28. -/
def State.gransEnd (g pid : Nat) (t : Thread) (s : State) : State :=
  if !tbit t.retain 0 then s.gransFree g pid
  else
    let ns := (s.spindle g).held pid
    if ns = [] then s else
    (s.stashEnd g t.ctx ns).setRole g ns (.retained t.ctx (BitVec.ofNat 16 (fld t.retain 31 16))) false

/-- Retires a thread (R140, R371): its slot, its granules, its unit, its party. Log entry 28. -/
def State.retire (key : Nat) (s : State) : State :=
  let t := s.thread key
  let g := gspOf key
  let pid := t.party
  let s := s.freeSlot key
  match s.party? pid with
  | none => s
  | some a =>
    let s := s.onParty pid (fun p => { p with keys := p.keys.del t.pidx.toNat, live := p.live - 1 })
    let s := match a.owner with
      | .launch n => s.unitEnd (.launch n)
      | _ => s
    let stays := a.keys.any (fun (_, k) => k != key && gspOf k == g) || a.saved.any (fun e => gspOf e.key == g)
    let s := if stays then s else (s.gransEnd g pid t).onParty pid (fun p => { p with grans := p.grans.del (g % 8) })
    if 1 < a.live then s.barSettle pid
    else
      let s := match a.owner with
        | .itin _ _ _ => s.unitEnd a.owner
        | _ => s
      let s := match a.block with
        | some b => s.returnBlock a.ctx b
        | none => s
      { s with parties := s.parties.del pid }

/-- halt (R140). Log entry 28. -/
def opHalt : TOp :=
  { post := fun s => s.retire s.cur
    run := fun _ s =>
      if s.thr.ops ≠ [] then .hold (fun s => s.onThr (fun t => { t with run := .halting }))
      else
        let done : Acc Unit := match s.thr.answers with
          | some (caller, f) => s.calleeAnswer caller f
          | none => .ok () s
        done.bind (fun _ s => .ok {} s) }
/-- halt (R140). -/
def execHalt (s : State) : Host.Outcome State Fault Refusal := issueOp opHalt s

end Sys2Proof.Machine
end

