-- ==== Sys2Proof/Machine/Repetition.lean ====
section
/-! DEFINITION. Fetching an issue group, and vector repetition: rep, rep.stop, staggering (03, R76, R77; 05, R176 to R180). -/

namespace Sys2Proof.Machine
open Sys2Proof

/-! Fetch (R77, R118, R302). -/

/-- Fetches the parcel at an address. The first fetch of a resumed thread names a retired page of its pc as its own (R302).
Log entry 24. -/
def State.fetch32 (va : Nat) (s : State) : Acc (BitVec 32) :=
  let t := s.thr
  let w := BitVec.ofNat 64 va
  let q : Req := { va := va, n := 4, al := 4, k := .fetch, plain := false, look := true }
  match canonCheck t.level va 3 with
  | some c => .trap c
  | none =>
    if t.level ≠ .monitor ∧ inWindow va then .trap (tPerm 0x10 (infoNoWalk 3) false w)
    else match s.reach va 4 .fetch with
    | .trap c => .trap (if c.cls = 9 ∧ t.resumed ∧ va = t.pc.toNat then ⟨9, 0x01, 0, false, t.pc⟩ else c)
    | .hold f => .hold f
    | .ok r s => (Acc.check (placeCheck (s.place r.1) q) s).bind (fun _ s => match s.locOf r.1 r.2 with
      | .mem o => .ok (BitVec.ofNat 32 (s.rd o 4)) s
      | .far p u => (s.far p u (.read 4) q).bind (fun r s => .ok (r.1.setWidth 32) s)
      | _ => .trap (tPerm 0x21 (infoNoWalk 3) false w))

/-- The parcels that forming the group at pc reads (R77): one for a V-parcel or what begins no group, else two, or three after
an X-parcel. -/
def State.fetchGroup (s : State) : Acc (List (BitVec 32)) :=
  let pc := s.thr.pc.toNat
  (s.fetch32 pc).bind (fun a s =>
    if !isA a then .ok [a] s
    else (s.fetch32 ((pc + 4) % 2 ^ 64)).bind (fun b s =>
      if isX b ∧ acceptsX a then (s.fetch32 ((pc + 8) % 2 ^ 64)).bind (fun c s => .ok [a, b, c] s)
      else .ok [a, b] s))

/-- The V-parcel that partners the A-parcel of a group (R77). rep has none: what follows it is its buffer (R176). -/
def groupPartner (i : Instr) (ps : List (BitVec 32)) : Option (BitVec 32) :=
  match i with
  | .rep _ _ _ _ => none
  | _ => match ps with
    | [_, b] => if isV b then some b else none
    | [_, _, c] => if isV c then some c else none
    | _ => none
/-- Whether the group that begins with these parcels holds a V-parcel (R77, R177), whatever its A-parcel is. -/
def groupHoldsV (ps : List (BitVec 32)) : Bool :=
  match ps with
  | a :: r => isV a || (isA a && (r.getLast?).any isV)
  | [] => false
/-- The length of a group (R77, R89). -/
def groupLen (ps : List (BitVec 32)) : Nat :=
  match ps with
  | [_, b] => if isV b then 8 else 4
  | [_, _, c] => if isV c then 12 else 8
  | _ => 4

/-! The registers that a V-parcel names (R176, R178, R179). -/

/-- What a register field of a V-parcel names: no register, n v registers, a k register, an x register. -/
inductive VField where
  | none | v (n : Nat) | k | x
  deriving DecidableEq, Repr

/-- The fields of a V-parcel, the mask register it reads, and whether it reads and whether it writes vd. -/
structure VUse where
  vd : VField := .none
  vs1 : VField := .none
  vs2 : VField := .none
  rd : Reg := 0
  r1 : Reg := 0
  r2 : Reg := 0
  mask : Nat := 0
  dIn : Bool := false
  dOut : Bool := true
  deriving DecidableEq, Repr

/-- The uses of a parcel of the common layout: how many v registers vd and vs1 name. -/
def vuseOf (p : VArgs) (vd vs1 vs2 : VField) : VUse :=
  { vd := vd, vs1 := vs1, vs2 := vs2, rd := p.vd, r1 := p.vs1, r2 := p.vs2, mask := p.mask.toNat }
/-- Two sources and a destination of a group's size. -/
def vuse3 (p : VArgs) : VUse := vuseOf p (.v p.grp.n) (.v p.grp.n) (if p.s then .x else .v p.grp.n)
/-- One source and a destination of d registers. -/
def vuse2 (p : VArgs) (d : Nat) : VUse := vuseOf p (.v d) (.v p.grp.n) .none
/-- A permute whose vs2 is an immediate or an x register. -/
def vuseImm (p : VArgs) : VUse := vuseOf p (.v 1) (.v 1) (if p.s then .x else .none)
/-- The registers of a k operation. -/
def kUse (vd vs1 vs2 : VField) (d a b : Nat) : VUse :=
  { vd := vd, vs1 := vs1, vs2 := vs2, rd := BitVec.ofNat 5 d, r1 := BitVec.ofNat 5 a, r2 := BitVec.ofNat 5 b }

/-- The registers that a V-parcel's instruction names. -/
def vUse (i : Instr) : Option VUse :=
  match i with
  | .vadd p | .vsub p | .vmul p | .vmulh p | .vmin p | .vmax p | .vand p | .vor p | .vxor p | .vshl p | .vshr p | .vsra p
  | .vsel p | .vfadd p | .vfsub p | .vfmul p | .vfmin p | .vfmax p => some (vuse3 p)
  | .vfma p | .vfms p => some { vuse3 p with dIn := true }
  | .vabs p | .vneg p => some (vuse2 p p.grp.n)
  | .vredAdd p | .vredMin p | .vredMax p | .vfredAdd p => some (vuse2 p 1)
  | .vcmp _ p | .vfcmp _ p => some { vuse3 p with vd := .k }
  | .vcvt p => some {
      vd := .v p.grp.n, vs1 := .v (cvtSrcN p), rd := p.vd, r1 := p.vs1, mask := p.mask.toNat }
  | .vld p | .vldBp p => some (vuseOf p (.v p.grp.n) .x .x)
  | .vst p | .vstBp p => some { vuseOf p (.v p.grp.n) .x .x with dIn := true, dOut := false }
  | .vldx p => some (vuseOf p (.v p.grp.n) (.v p.grp.n) .x)
  | .vstx p => some { vuseOf p (.v p.grp.n) (.v p.grp.n) .x with dIn := true, dOut := false }
  | .vperm p => some (vuseOf p (.v 1) (.v 1) (if p.s then .x else .v 1))
  | .vrot p | .vbcast p | .vslide p => some (vuseImm p)
  | .vshuf p | .vpack p => some (vuseOf p (.v 1) (.v 1) (.v 1))
  | .vunpack p => some (vuseOf p (.v 1) (.v 1) .none)
  | .vmvVx p => some (vuseOf p (.v 1) .none .x)
  | .vmvXv p => some (vuseOf p .x (.v 1) .none)
  | .vins p => some (vuseOf p (.v 1) .none .x)
  | .vext p => some (vuseOf p .x (.v 1) (if p.s then .x else .none))
  | .vchn kd rs => some (kUse .k .none .x kd.toNat 0 rs.toNat)
  | .vx p => some (vuseOf p (.v 1) (.v 1) (if p.s then .x else .v 1))
  | .kand d a b | .kor d a b => some (kUse .k .k .k d.toNat a.toNat b.toNat)
  | .knot d a => some (kUse .k .k .none d.toNat a.toNat 0)
  | .kpop d a => some (kUse .x .k .none d.toNat a.toNat 0)
  | .vexp2 p | .vlog2 p | .vrcp p | .vrsqrt p | .vsin p | .vcos p => some (vuse2 p 1)
  | _ => none

/-- The registers of a field as numbers: v registers from 0, k registers from 32, x registers from 40. Those that writes do
not change, k0 and x0, are left out. -/
def VField.regs (f : VField) (r : Reg) : List Nat :=
  match f with
  | .none => []
  | .v n => (upto n).map (fun i => (r.toNat + i) % 32)
  | .k => if r.toNat % 8 = 0 then [] else [32 + r.toNat % 8]
  | .x => if r = 0 then [] else [40 + r.toNat]
/-- Whether a chain reads the old elements of vd (R170): a stage that takes them as its operand. Log entry 22. -/
def chReadsD (d : Word) : Bool := (upto 6).any (fun st => chSel d st == 2 && !([0, 7, 8].contains (chOp d st)))
/-- The registers that a parcel reads; vx reads vd when its descriptor does. Log entry 22. -/
def VUse.reads (u : VUse) (chain : Option Word) : List Nat :=
  (if u.dIn || chain.any chReadsD then u.vd.regs u.rd else []) ++ u.vs1.regs u.r1 ++ u.vs2.regs u.r2
    ++ (if u.mask = 0 then [] else [32 + u.mask])
def VUse.writes (u : VUse) : List Nat := if u.dOut then u.vd.regs u.rd else []

/-! rep and rep.stop (R176, R180). -/

/-- Whether three bits mark a field of a parcel that names no register. -/
def badMark (p : BitVec 32) (m : Nat) : Bool :=
  let off (f : VField) (i : Nat) : Bool := m / 2 ^ i % 2 == 1 && f == .none
  match (decodeV p).bind vUse with
  | some u => off u.vd 0 || off u.vs1 1 || off u.vs2 2
  | none => m != 0
/-- Fetches the buffer of a rep (R176). -/
def State.repFetch (pc : Nat) (m : Word) (s : State) (n : Nat) : Acc (List (BitVec 32)) :=
  Acc.each (fun k s => (s.fetch32 ((pc + 4 + 4 * k) % 2 ^ 64)).bind (fun p s =>
    if !isV p ∨ badMark p (fld m (3 * k + 2) (3 * k)) then .trap (tIll 0) else .ok p s)) (upto n) s

/-- rep (R176). -/
def opRep (rs1 rs2 : Reg) (len : BitVec 4) (stride : BitVec 2) : TOp :=
  { xs := [rs1, rs2],
    run := fun ws s =>
      let n := ws.getD 0 0
      let m := ws.getD 1 0
      let l := len.toNat + 1
      if fld n 63 32 ≠ 0 ∨ m.toNat / 2 ^ (3 * l) ≠ 0 ∨ s.thr.rep.active then .trap (tIll 0)
      else
        let next := s.thr.pc + BitVec.ofNat 64 (4 + 4 * l)
        (s.repFetch s.thr.pc.toNat m l).bind (fun ps s =>
          .ok { target := some next } (if n = 0 then s else s.onThr (fun t => { t with rep := {
            active := true, len := BitVec.ofNat 5 l, pos := 0, left := n.setWidth 32
            stride := BitVec.ofNat 3 (stride.toNat + 1), stag := m.setWidth 48, buf := ps } }))) }
/-- rep (R176). -/
def execRep (rs1 rs2 : Reg) (len : BitVec 4) (stride : BitVec 2) (s : State) : Host.Outcome State Fault Refusal :=
  issueOp (opRep rs1 rs2 len stride) s

/-- Ends a repetition with its current pass (R180). -/
def Rep.stop (r : Rep) : Rep :=
  if !r.active then r else if r.pos = 0 then { r with active := false } else { r with left := 1 }
/-- rep.stop (R180): without effect when no repetition runs. -/
def opRepStop : TOp :=
  { run := fun _ s => .ok {} s
    post := fun s => if s.thr.rep.susp == 0 then s.onThr (fun t => { t with rep := t.rep.stop }) else s }
/-- rep.stop (R180). -/
def execRepStop (s : State) : Host.Outcome State Fault Refusal := issueOp opRepStop s

/-! The buffer (R177 to R179). -/

/-- Staggers one field of a parcel. -/
def stagField (p : BitVec 32) (at_ stride : Nat) : BitVec 32 :=
  let v := ((pbits p at_ 5 : BitVec 5).toNat + stride) % 32
  BitVec.ofNat 32 (p.toNat - (pbits p at_ 5 : BitVec 5).toNat * 2 ^ at_ + v * 2 ^ at_)
/-- Staggers the marked fields of parcel k (R178). -/
def Rep.stagger (r : Rep) (k : Nat) (p : BitVec 32) : BitVec 32 :=
  let on (i : Nat) : Bool := r.stag.getLsbD (3 * k + i)
  let d := r.stride.toNat
  let p := if on 0 then stagField p 7 d else p
  let p := if on 1 then stagField p 12 d else p
  if on 2 then stagField p 17 d else p
/-- The advance after a slot (R177): at the end of a pass the buffer holds the next pass's fields (R28). -/
def Rep.advance (r : Rep) : Rep :=
  if r.pos.toNat + 1 < r.len.toNat then { r with pos := r.pos + 1 }
  else
    let left := r.left - 1
    { r with pos := 0, left := left, active := left != 0, buf := ((upto 16).zip r.buf).map (fun (k, p) => r.stagger k p) }
/-- Whether the next buffered parcel reads what an earlier one of its pass writes (R179). -/
def Thread.repReads (t : Thread) : Bool :=
  let use (p : BitVec 32) : Option VUse := (decodeV p).bind vUse
  let wrote := (t.rep.buf.take t.rep.pos.toNat).flatMap (fun p => ((use p).map VUse.writes).getD [])
  match use (t.rep.buf.getD t.rep.pos.toNat 0) with
  | some u => (u.reads (match decodeV (t.rep.buf.getD t.rep.pos.toNat 0) with
      | some (.vx p) => some (t.rk p.mask.toNat)
      | _ => none)).any wrote.contains
  | none => false
/-- Whether a repetition takes the thread's slots: one that no handler suspends (R177, R180). -/
def Thread.repeating (t : Thread) : Bool := t.rep.active && t.rep.susp == 0

end Sys2Proof.Machine
end

