-- ==== Sys2Proof/Machine/Group.lean ====
section
/-! DEFINITION. Issue groups of two parcels, the slots of a repetition, and illegal encodings (03, R77, R79, R80; 05, R177,
R180). -/

namespace Sys2Proof.Machine
open Sys2Proof

/-- The parcel of a T instruction. -/
def opT (i : Instr) : Option TOp :=
  match i with
  | .lui rd imm => some (opLui rd imm)
  | .auipc rd imm => some (opAuipc rd imm)
  | .addi rd rs1 imm => some (opAddi rd rs1 imm)
  | .slti rd rs1 imm => some (opSlti rd rs1 imm)
  | .sltin rd rs1 imm => some (opSltin rd rs1 imm)
  | .xori rd rs1 imm => some (opXori rd rs1 imm)
  | .ori rd rs1 imm => some (opOri rd rs1 imm)
  | .andi rd rs1 imm => some (opAndi rd rs1 imm)
  | .slli rd rs1 sh => some (opSlli rd rs1 sh)
  | .srli rd rs1 sh => some (opSrli rd rs1 sh)
  | .srai rd rs1 sh => some (opSrai rd rs1 sh)
  | .add rd rs1 rs2 => some (opAdd rd rs1 rs2)
  | .sub rd rs1 rs2 => some (opSub rd rs1 rs2)
  | .sll rd rs1 rs2 => some (opSll rd rs1 rs2)
  | .slt rd rs1 rs2 => some (opSlt rd rs1 rs2)
  | .sltn rd rs1 rs2 => some (opSltn rd rs1 rs2)
  | .xor rd rs1 rs2 => some (opXor rd rs1 rs2)
  | .srl rd rs1 rs2 => some (opSrl rd rs1 rs2)
  | .sra rd rs1 rs2 => some (opSra rd rs1 rs2)
  | .or rd rs1 rs2 => some (opOr rd rs1 rs2)
  | .and rd rs1 rs2 => some (opAnd rd rs1 rs2)
  | .addiw rd rs1 imm => some (opAddiw rd rs1 imm)
  | .slliw rd rs1 sh => some (opSlliw rd rs1 sh)
  | .srliw rd rs1 sh => some (opSrliw rd rs1 sh)
  | .sraiw rd rs1 sh => some (opSraiw rd rs1 sh)
  | .addw rd rs1 rs2 => some (opAddw rd rs1 rs2)
  | .subw rd rs1 rs2 => some (opSubw rd rs1 rs2)
  | .sllw rd rs1 rs2 => some (opSllw rd rs1 rs2)
  | .srlw rd rs1 rs2 => some (opSrlw rd rs1 rs2)
  | .sraw rd rs1 rs2 => some (opSraw rd rs1 rs2)
  | .mul rd rs1 rs2 => some (opMul rd rs1 rs2)
  | .mulh rd rs1 rs2 => some (opMulh rd rs1 rs2)
  | .mulhsn rd rs1 rs2 => some (opMulhsn rd rs1 rs2)
  | .mulhn rd rs1 rs2 => some (opMulhn rd rs1 rs2)
  | .div rd rs1 rs2 => some (opDiv rd rs1 rs2)
  | .divn rd rs1 rs2 => some (opDivn rd rs1 rs2)
  | .rem rd rs1 rs2 => some (opRem rd rs1 rs2)
  | .remn rd rs1 rs2 => some (opRemn rd rs1 rs2)
  | .mulw rd rs1 rs2 => some (opMulw rd rs1 rs2)
  | .divw rd rs1 rs2 => some (opDivw rd rs1 rs2)
  | .divnw rd rs1 rs2 => some (opDivnw rd rs1 rs2)
  | .remw rd rs1 rs2 => some (opRemw rd rs1 rs2)
  | .remnw rd rs1 rs2 => some (opRemnw rd rs1 rs2)
  | .beq rs1 rs2 imm => some (opBeq rs1 rs2 imm)
  | .bne rs1 rs2 imm => some (opBne rs1 rs2 imm)
  | .blt rs1 rs2 imm => some (opBlt rs1 rs2 imm)
  | .bge rs1 rs2 imm => some (opBge rs1 rs2 imm)
  | .bltn rs1 rs2 imm => some (opBltn rs1 rs2 imm)
  | .bgen rs1 rs2 imm => some (opBgen rs1 rs2 imm)
  | .jal rd imm => some (opJal rd imm)
  | .jalr rd rs1 imm => some (opJalr rd rs1 imm)
  | .lb rd rs1 imm => some (opLb rd rs1 imm)
  | .lh rd rs1 imm => some (opLh rd rs1 imm)
  | .lw rd rs1 imm => some (opLw rd rs1 imm)
  | .ld rd rs1 imm => some (opLd rd rs1 imm)
  | .lbn rd rs1 imm => some (opLbn rd rs1 imm)
  | .lhn rd rs1 imm => some (opLhn rd rs1 imm)
  | .lwn rd rs1 imm => some (opLwn rd rs1 imm)
  | .sb rs2 rs1 imm => some (opSb rs2 rs1 imm)
  | .sh rs2 rs1 imm => some (opSh rs2 rs1 imm)
  | .sw rs2 rs1 imm => some (opSw rs2 rs1 imm)
  | .sd rs2 rs1 imm => some (opSd rs2 rs1 imm)
  | .ldFe rd rs1 imm => some (opLdFe rd rs1 imm)
  | .ldFc rd rs1 imm => some (opLdFc rd rs1 imm)
  | .stEf rs2 rs1 imm => some (opStEf rs2 rs1 imm)
  | .stF rs2 rs1 imm => some (opStF rs2 rs1 imm)
  | .feSet rd rs1 imm => some (opFeSet rd rs1 imm)
  | .feClr rd rs1 imm => some (opFeClr rd rs1 imm)
  | .feTest rd rs1 imm => some (opFeTest rd rs1 imm)
  | .fence scope order => some (opFence scope order)
  | .cacheInv rs1 rs2 => some (opCacheInv rs1 rs2)
  | .cacheWb rs1 rs2 => some (opCacheWb rs1 rs2)
  | .stashMap rd rs1 rs2 => some (opStashMap rd rs1 rs2)
  | .cpy rd rs1 rs2 rs3 scope => some (opCpy rd rs1 rs2 rs3 scope)
  | .cpy2d rd rs1 rs2 rs3 scope => some (opCpy2d rd rs1 rs2 rs3 scope)
  | .cpyFill rd rs1 rs2 rs3 scope => some (opCpyFill rd rs1 rs2 rs3 scope)
  | .strb xq rs1 => some (opStrb xq rs1)
  | .strx xq => some (opStrx xq)
  | .strq rd rs1 => some (opStrq rd rs1)
  | .amoAdd rd rs2 rs1 scope order size => some (opAmoAdd rd rs2 rs1 scope order size)
  | .amoAnd rd rs2 rs1 scope order size => some (opAmoAnd rd rs2 rs1 scope order size)
  | .amoOr rd rs2 rs1 scope order size => some (opAmoOr rd rs2 rs1 scope order size)
  | .amoXor rd rs2 rs1 scope order size => some (opAmoXor rd rs2 rs1 scope order size)
  | .amoMin rd rs2 rs1 scope order size => some (opAmoMin rd rs2 rs1 scope order size)
  | .amoMax rd rs2 rs1 scope order size => some (opAmoMax rd rs2 rs1 scope order size)
  | .amoMinn rd rs2 rs1 scope order size => some (opAmoMinn rd rs2 rs1 scope order size)
  | .amoMaxn rd rs2 rs1 scope order size => some (opAmoMaxn rd rs2 rs1 scope order size)
  | .amoSwap rd rs2 rs1 scope order size => some (opAmoSwap rd rs2 rs1 scope order size)
  | .amoCas rd rs2 rs1 scope order size => some (opAmoCas rd rs2 rs1 scope order size)
  | .amoCas2 rd rs2 rs1 scope order => some (opAmoCas2 rd rs2 rs1 scope order)
  | .ldAcq rd rs1 scope size => some (opLdAcq rd rs1 scope size)
  | .stRel rs2 rs1 scope size => some (opStRel rs2 rs1 scope size)
  | .callx rd rs1 => some (opCallx rd rs1)
  | .spawn rd rs1 rs2 => some (opSpawn rd rs1 rs2)
  | .callatCl rd rs1 rs2 => some (opCallatCl rd rs1 rs2)
  | .callatAff rd rs1 rs2 => some (opCallatAff rd rs1 rs2)
  | .callatLeast rd rs1 => some (opCallatLeast rd rs1)
  | .callatNbCl rd rs1 rs2 => some (opCallatNbCl rd rs1 rs2)
  | .callatNbAff rd rs1 rs2 => some (opCallatNbAff rd rs1 rs2)
  | .callatNbLeast rd rs1 => some (opCallatNbLeast rd rs1)
  | .reply rs1 rs2 => some (opReply rs1 rs2)
  | .launch rd rs1 => some (opLaunch rd rs1)
  | .bar rs1 => some (opBar rs1)
  | .rep rs1 rs2 len stride => some (opRep rs1 rs2 len stride)
  | .repStop => some opRepStop
  | .halt => some opHalt
  | .yield => some opYield
  | .tret => some opTret
  | .brk => some opBrk
  | .sysrd rd n => some (opSysrd rd n)
  | .syswr rd n rs1 => some (opSyswr rd n rs1)
  | .sysset rd n rs1 => some (opSysset rd n rs1)
  | .sysclr rd n rs1 => some (opSysclr rd n rs1)
  | .trap code => some (opTrap code)
  | .tlbInv rd rs1 rs2 rs3 => some (opTlbInv rd rs1 rs2 rs3)
  | .tlbInvCtx rd rs1 => some (opTlbInvCtx rd rs1)
  | .tlbInvAll rd => some (opTlbInvAll rd)
  | .codeRetire rd rs1 rs2 => some (opCodeRetire rd rs1 rs2)
  | .vadd p => some (opVadd p)
  | .vsub p => some (opVsub p)
  | .vmul p => some (opVmul p)
  | .vmulh p => some (opVmulh p)
  | .vmin p => some (opVmin p)
  | .vmax p => some (opVmax p)
  | .vabs p => some (opVabs p)
  | .vneg p => some (opVneg p)
  | .vand p => some (opVand p)
  | .vor p => some (opVor p)
  | .vxor p => some (opVxor p)
  | .vshl p => some (opVshl p)
  | .vshr p => some (opVshr p)
  | .vsra p => some (opVsra p)
  | .vsel p => some (opVsel p)
  | .vcmp cond p => some (opVcmp cond p)
  | .vfadd p => some (opVfadd p)
  | .vfsub p => some (opVfsub p)
  | .vfmul p => some (opVfmul p)
  | .vfma p => some (opVfma p)
  | .vfms p => some (opVfms p)
  | .vfmin p => some (opVfmin p)
  | .vfmax p => some (opVfmax p)
  | .vcvt p => some (opVcvt p)
  | .vredAdd p => some (opVredAdd p)
  | .vredMin p => some (opVredMin p)
  | .vredMax p => some (opVredMax p)
  | .vfredAdd p => some (opVfredAdd p)
  | .vld p => some (opVld p)
  | .vst p => some (opVst p)
  | .vldx p => some (opVldx p)
  | .vstx p => some (opVstx p)
  | .vldBp p => some (opVldBp p)
  | .vstBp p => some (opVstBp p)
  | .vfcmp cond p => some (opVfcmp cond p)
  | .vperm p => some (opVperm p)
  | .vrot p => some (opVrot p)
  | .vshuf p => some (opVshuf p)
  | .vbcast p => some (opVbcast p)
  | .vslide p => some (opVslide p)
  | .vmvVx p => some (opVmvVx p)
  | .vmvXv p => some (opVmvXv p)
  | .vins p => some (opVins p)
  | .vext p => some (opVext p)
  | .vpack p => some (opVpack p)
  | .vunpack p => some (opVunpack p)
  | .vchn kd rs => some (opVchn kd rs)
  | .vx p => some (opVx p)
  | .kand kd ka kb => some (opKand kd ka kb)
  | .kor kd ka kb => some (opKor kd ka kb)
  | .knot kd ka => some (opKnot kd ka)
  | .kpop rd ka => some (opKpop rd ka)
  | .vexp2 p => some (opVexp2 p)
  | .vlog2 p => some (opVlog2 p)
  | .vrcp p => some (opVrcp p)
  | .vrsqrt p => some (opVrsqrt p)
  | .vsin p => some (opVsin p)
  | .vcos p => some (opVcos p)
  | _ => none

/-- A parcel that no table accepts (R77, R82). Log entry 56. -/
def illOp : TOp := { wf := false, run := fun _ _ => .trap (tIll 0) }
/-- The parcel of a V-parcel's bits. -/
def opV (p : BitVec 32) : TOp := ((decodeV p).bind opT).getD illOp

/-- What the A-parcel of a group changes that the V-parcel's operation consults stands as the group found it (R79).
Log entry 13. -/
def Thread.asFound (t old : Thread) : Thread :=
  { t with
    vrm := old.vrm, fmt := old.fmt, sca0 := old.sca0, sca1 := old.sca1, sca2 := old.sca2, sca3 := old.sca3
    level := old.level, strands := old.strands, k := old.k, v := old.v }
/-- What an A-parcel leaves, as its group keeps it while the V-parcel is performed. -/
def Thread.aside (a : Thread) (o : Out) : Aside :=
  { out := o, vrm := a.vrm, fmt := a.fmt, scas := [a.sca0, a.sca1, a.sca2, a.sca3], level := a.level, strands := a.strands }
/-- The A-parcel's own changes of those registers stand again. Log entry 13. -/
def Thread.asLeft (t : Thread) (a : Aside) : Thread :=
  { t with
    vrm := a.vrm, fmt := a.fmt, sca0 := a.scas.getD 0 0, sca1 := a.scas.getD 1 0, sca2 := a.scas.getD 2 0
    sca3 := a.scas.getD 3 0, level := a.level, strands := a.strands }

/-- The trap that a run on the state which a group found comes to, once what it awaits has come; what it noted, where it comes to
none; `wait` when it must wait before that is known (R80). -/
inductive Verdict where
  | pass (f : Flight) | trap (c : Cause) | wait (f : State → State)
def verdict (run : State → Acc Out) (s : State) : Verdict :=
  match (run s.probe).written with
  | .ok _ t => .pass t.thr.flight
  | .trap c => .trap c
  | .hold f => .wait f

/-- A parcel of two on its source values. -/
def TOp.alone (p : TOp) (ws : List Word) (s : State) : Acc Out := if !p.wf then .trap (tIll 0) else p.run ws s
/-- The trap that the A-parcel of a group comes to on what the group found. -/
def verdictA (a : TOp) (s : State) : Verdict :=
  verdict (fun s => (poisonCheck a.xs s).bind (fun _ s => (s.sources a.xs).bind a.alone)) s
/-- That of the V-parcel, which pops its sources after the A-parcel's (R29). -/
def verdictV (a v : TOp) (s : State) : Verdict :=
  verdict (fun s => (s.sources a.xs).bind (fun _ s => (poisonCheck v.xs s).bind (fun _ s => (s.sources v.xs).bind v.alone))) s
/-- The checks of the A-parcel alone. -/
def leadChecks (a : TOp) (s : State) : Acc Unit :=
  match verdictA a s with
  | .trap c => .trap c
  | .wait f => .hold f
  | .pass _ => .ok () s
/-- The checks of two parcels, on what the group found: those of the A-parcel come first, and a wait that they need comes before
those of the V-parcel (R80). Both then act where these checks found that their accesses land. Log entry 13. -/
def pairChecks (a v : TOp) (s : State) : Acc Unit :=
  match verdictA a s with
  | .trap c => .trap c
  | .wait f => .hold f
  | .pass fa => match verdictV a v s with
    | .trap c => .trap c
    | .wait f => .hold f
    | .pass fv =>
      let f := { s.thr.flight with landed := fv.landed ++ fa.landed, reached := fv.reached ++ fa.reached }
      .ok () ((s.onThr (fun t => { t with flight := f })).settle f)

/-- The V-parcel's effect after that of the A-parcel, which left `left` (R79). -/
def pairSecond (v : TOp) (ws : List Word) (left : Aside) (s : State) : Acc Out :=
  (v.alone ws s).bind (fun o s => .ok {
    ws := left.out.ws ++ o.ws, target := if left.out.target.isSome then left.out.target else o.target }
    (s.onThr (fun t => t.asLeft left)))
/-- The effect of two parcels on their source values (R79): the A-parcel's comes first, the V-parcel consults what the group
found, and runs whether or not the A-parcel transfers control. A group in flight does not perform its A-parcel again (R318).
Log entry 13. -/
def pairRun (a v : TOp) (n : Nat) (ws : List Word) (s : State) : Acc Out :=
  match s.thr.flight.aside with
  | some left => pairSecond v (ws.drop n) left s
  | none => (a.run (ws.take n) s).bind (fun o sa =>
      let left := sa.thr.aside o
      pairSecond v (ws.drop n) left ((sa.onThr (fun t => t.asFound s.thr)).staged (fun f => { f with aside := some left })))
/-- A group of an A-parcel and a V-parcel (R79): one x register that both name as a destination raises T-ILL.
Log entry 13. -/
def pairOp (a v : TOp) : TOp :=
  { xs := a.xs ++ v.xs, xd := a.xd ++ v.xd, vs := a.vs ++ v.vs
    wf := a.wf && !a.xd.any v.xd.contains, beats := max a.beats v.beats
    own := a.xs.length, lead := leadChecks a
    chk := fun s => if s.thr.flight.on then .ok () s else pairChecks a v s
    run := pairRun a v a.xs.length, post := fun s => a.post (v.post s) }
/-- Issues a group of two parcels. -/
def State.issuePair (i : Instr) (p : BitVec 32) (s : State) : State :=
  s.conclude (pairOp ((opT i).getD illOp) (opV p))

/-- ILLEGAL_ENCODING (R77, R82): T-ILL at the group. Log entry 56. -/
def execIllegalEncoding (s : State) : Host.Outcome State Fault Refusal := issueOp illOp s

/-! The slots of a repetition (R177). -/

/-- A group whose V-parcel is the buffer's, after which the repetition advances. -/
def TOp.advancing (op : TOp) : TOp :=
  { op with post := fun s => op.post (s.onThr (fun t => { t with rep := t.rep.advance })) }
/-- A buffered parcel alone: the stream group waits. -/
def TOp.staying (op : TOp) : TOp :=
  { op with run := fun ws s => (op.run ws s).bind (fun o s' => .ok { o with target := some s.thr.pc } s') }
/-- The next buffered parcel (R177 to R179). -/
def Thread.repOp (t : Thread) : TOp := if t.repReads then illOp else opV (t.rep.buf.getD t.rep.pos.toNat 0)
/-- Whether the stream group waits for the repetition. -/
def waitsRep (i : Instr) (ps : List (BitVec 32)) : Bool :=
  (match ps with
    | p :: _ => isV p
    | [] => false) || (groupPartner i ps).isSome || (match i with
    | .rep _ _ _ _ | .halt | .tret | .trap _ => true
    | _ => false)

/-- The thread after its group's parcels are read: the group's length, and no first fetch any more. -/
def State.fetched (ps : List (BitVec 32)) (s : State) : State :=
  s.onThr (fun t => { t with len := BitVec.ofNat 64 (groupLen ps), resumed := false, flight := { parcels := ps } })
/-- A group whose parcels cannot be fetched (R77): the trap at the group, or the wait. -/
def State.fetchFailed (s : State) : State :=
  match s.fetchGroup with
  | .ok _ s => s
  | .hold _ => match s.probe.fetchGroup with
    | .hold f => f s
    | _ => s
  | .trap c => s.quit c

/-- The group of one slot of a repetition, on a state whose stream parcels are read. The stream group of an illegal A-parcel waits
when it holds a V-parcel, as any other does. -/
def State.repGroup (ps : List (BitVec 32)) (s : State) : State :=
  let b := s.thr.repOp
  let one (op : TOp) : State := s.conclude op
  match decodeParcels ps with
  | none =>
    if groupHoldsV ps then one b.staying.advancing
    else if ps.any isA then one (pairOp illOp b).advancing else one illOp
  | some i => if waitsRep i ps then one b.staying.advancing else one (pairOp ((opT i).getD illOp) b).advancing
/-- REPETITION_ISSUE (R177): an issue slot of a thread whose repetition runs. -/
def execRepetitionIssue (s : State) : Host.Outcome State Fault Refusal :=
  .next (match s.fetchGroup with
    | .ok ps s => (s.fetched ps).repGroup ps
    | _ => s.fetchFailed)

/-! Groups in flight (R183, R191, R434). -/

/-- Runs the group whose parcels have been read (R77 to R79, R177). -/
def State.issueGroup (ps : List (BitVec 32)) (s : State) : State :=
  if s.thr.repeating then s.repGroup ps
  else match decodeParcels ps with
  | none => s.conclude illOp
  | some i => match groupPartner i ps with
    | some p => s.issuePair i p
    | none => s.conclude ((opT i).getD illOp)
/-- A group in flight goes on: what it has performed by then it takes as it stands. -/
def State.flightGoes (s : State) : State :=
  (s.onFlight (fun f => { f with todo := f.done })).issueGroup s.thr.flight.parcels
/-- A group in flight whose answer has come goes on: its results land, and the thread joins the tail of its ready queue, unless
it awaits something more (R183, R191). -/
def State.resumeGroup (key : Nat) (s : State) : State :=
  let s := State.onThr (fun t => { t with run := .rotating }) { s with cur := key }
  let s := s.flightGoes
  if (Tab.find key s.threads).any (fun t => t.run == .rotating) then s.makeReady key else s

end Sys2Proof.Machine
end

