-- ==== Sys2Proof/Machine/Freeze.lean ====
section
/-! DEFINITION. The freeze of a context (13, R398, R411, R412; 07, R244). -/

namespace Sys2Proof.Machine
open Sys2Proof

/-- Step 2 for a thread: its entry in a wait list goes, here or on another device (R192), what its group has been answered takes
effect, and its special-function results land; then into its party's block, STOPPED, when the party holds one; else discarded.
Log entry 40. -/
def State.threadFreeze (key : Nat) (s : State) : State :=
  let s := (s.withdraw key).withdrawFar key
  let s := if (s.thread key).flying && !(s.thread key).grants.isEmpty then s.resumeGroup key else s
  if (Tab.find key s.threads).isNone then s else
  let s := s.onThread key Thread.sfuAll
  match (s.party? (s.thread key).party).bind (fun p => p.block) with
  | some b => s.saveThread key b true
  | none => s.freeSlot key
/-- Step 4 for the commands of one queue: each ends with STATUS 0x05, in order, until one awaits its fill. Log entry 40. -/
def State.cmdsCancel (g ctx kind : Nat) : Nat → State → State
  | 0, s => s
  | n + 1, s =>
    match (s.spindle g).head ctx kind with
    | none => s
    | some h => if h.st = .filling then s else State.cmdsCancel g ctx kind n (s.cmdEnd g ctx kind 0x05 h.exc)
/-- Cancels every command of a frozen context on a Spindle, but for one that has ended and has yet to fill; their locks go, and a
running one's tile keeps what it had added (R244). Log entry 40. -/
def State.plyFreeze (g : Nat) (c : BitVec 12) (s : State) : State :=
  let s := if (s.plyFind g c).isSome then s.plyRestore g c else s
  let gone := (((s.spindle g).cmds c.toNat 0 ++ (s.spindle g).cmds c.toNat 1).filter (fun x => x.st != .filling)).map (·.id)
  let s := s.onSpindle g (fun p => { p with queue := p.queue.map (fun (k, q) =>
    (k, if k / 2 = c.toNat then q.map (fun x => if x.st = .filling then x else { x with fail := some 0x05 }) else q)) })
  let s := s.onCluster (g / 8) (fun r => { r with locks := r.locks.filter (fun l => !gone.contains l.id) })
  [0, 1].foldl (fun s k => State.cmdsCancel g c.toNat k (((s.spindle g).cmds c.toNat k).length + 1) s) s
/-- Step 5: the launches and Itineraries of a context end with STATUS 0x05. Log entry 40. -/
def State.launchesFreeze (c : BitVec 12) (s : State) : State :=
  let mine (n : Nat) : Bool := (Tab.find n s.launches).any (fun l => l.ctx == c)
  let s := s.keepEntries (fun w => match w with
    | .launch n _ | .itin n _ _ => !mine n
    | _ => true)
  let stop (i : Itin) : Itin := if i.ctx = c then { i with running := [], parked := [], parking := [], ending := true } else i
  let die (r : Die) : Die := { r with launchQ := r.launchQ.filter (fun n => !mine n), itins := r.itins.map stop }
  let s := { s with dies := s.dies.map (fun (d, r) => (d, die r)) }
  -- an Itinerary that waited in the queue has no instance, and ends as a launch does
  let begun (n : Nat) : Bool := s.dies.any (fun (_, r) => r.itins.any (fun i => i.serial == n))
  let ended (n : Nat) (l : Launch) : Launch := if l.ctx = c then { l with
      left := 0, remoteLeft := 0, sent := true, status := 0x05
      words := if lItin l.words ≠ 0 ∧ !begun n then l.words.set 1 0 else l.words } else l
  State.wakeRoom .launchQueue { s with launches := s.launches.map (fun (n, l) => (n, ended n l)) }

/-- The notice of a freeze (R398 step 6). -/
def freezeNotice (c : BitVec 12) (kind cls : Nat) : Word := BitVec.ofNat 64 (c.toNat * 2 ^ 52 + kind * 2 ^ 12 + cls % 16)

/-- CTXCMD_FREEZE (R398): by command (KIND 0xF) or when a fatal record finds no place. Log entry 40. -/
def State.freezeCtx (c : BitVec 12) (kind cls : Nat) (s : State) : State :=
  let cut := tbit s.ctxcmd 63 && fld s.ctxcmd 15 12 == 1 && BitVec.ofNat 12 (fld s.ctxcmd 11 0) == c
  let s := s.pwr8 (s.descAddr c 0) (s.desc c 0 &&& ~~~1)
  let s := s.onCtx c (fun x => { x with frozen := true, saving := false, saved := false })
  let keys := (s.threads.filter (fun (_, t) => t.ctx == c)).map (·.1)
  let s := keys.foldl (fun s k => s.threadFreeze k) s
  let s := (s.regionsOf c).foldl (fun s r => s.regionFree r true) s
  let s := (upto 96).foldl (fun s r =>
    ((s.cluster r).copies.filter (fun x => x.ctx == c)).foldl (fun s x => s.copyEnd r x 0x05) s) s
  let s := ((upto 768).filter (fun g => (Tab.find g s.spindles).isSome || (s.plyFind g c).isSome)).foldl (fun s g => s.plyFreeze g c) s
  let pids := (s.partiesOf c).map (·.1)
  let blocks := (s.images.filter (fun (_, m) => m.ctx == c)).map (·.1)
  let s := s.spindles.foldl (fun s (g, _) =>
    let s := pids.foldl (fun s p => s.gransFree g p) s
    let kept := (upto 20).filter (fun i => match ((s.spindle g).grans.getD i {}).role with
      | .retained d _ => d == c
      | _ => false)
    if kept = [] then s else s.setRole g kept .l1 true) s
  let s := s.keepEntries (fun w => match w with
    | .resume p => !pids.contains p
    | .image b => !blocks.contains b
    | _ => true)
  let s := { s with
    parties := s.parties.filter (fun (_, p) => p.ctx != c)
    images := s.images.filter (fun (_, m) => m.ctx != c)
    notices := s.notices ++ [freezeNotice c kind cls] }
  let s := s.launchesFreeze c
  if cut then s.ctxcmdEnd 0x02 else if kind = 0xF then s.ctxcmdEnd 0x00 else s
/-- CTXCMD_FREEZE (R398, R412). -/
def execCtxcmdFreeze (s : State) : Host.Outcome State Fault Refusal :=
  match s.ev with
  | .freeze c kind cls => .next (if s.isFrozen c then s else s.freezeCtx c kind cls)
  | _ => .next s

end Sys2Proof.Machine
end

