-- ==== Sys2Proof/Machine/Migration.lean ====
section
/-! DEFINITION. Completions of accesses and of storage commands, and the migration of pages between dies (06, R183; 13, R422,
R427 to R429; 14, R434; 11, R359 to R361). -/

namespace Sys2Proof.Machine
open Sys2Proof

/-! Completions of accesses (R183, R434). -/

/-- The answer to an access of a region's node or sequencer: it stands for the one that sent it, if that still waits (R434). A store of
a commit that has been performed leaves its buffer, and the commit goes on (R285). -/
def State.portAnswer (rid id : Nat) (a : Answer) (s : State) : State :=
  let done : Bool := match a with
    | .done _ _ | .data _ => true
    | _ => false
  match ((s.region rid).remote.find? (fun e => e.id == id && done)).bind (fun e => e.commit.map (fun p => (e, p))) with
  | some (e, p) =>
    let s := s.onRegion rid (fun r => { (r.storeDone p e.frame) with remote := r.remote.filter (fun e => e.id != id) })
    match State.commit rid e.frame { s with curNode := (rid, e.node, e.tag) } with
    | .ok _ s => s
    | .hold f => f { s with curNode := (rid, e.node, e.tag) }
    | .trap _ => s
  | none =>
    s.onRegion rid (fun g => { g with remote := g.remote.map (fun e => if e.id = id then { e with answer := some a } else e) })
/-- The cluster that an access comes from. -/
def PWaiter.rid : PWaiter → Nat
  | .thread k _ => ridOf k
  | .copy r _ | .port r _ _ => r
  | .cmd g _ => g / 8
/-- The aperture lines that clusters hold modified, after an access that the host agent has served (R443).
Log entry 45. -/
def State.aperHeld (s : State) (r : Remote) (a : Answer) : Tab Nat :=
  let w : Bool := match r.op, a with
    | .read _, _ | _, .refused | _, .lost | _, .page _ => false
    | _, _ => true
  if r.dev = 1024 ∧ w then s.aper.put (r.off / 64 * 64) r.waiter.rid else s.aper
/-- The answer to access `id` of this device to another device or the host (R434). A thread whose operation has been withdrawn from
the wait list there issues its group again (R192). Log entry 55. -/
def State.remoteAnswer (id : Nat) (a : Answer) (s : State) : State :=
  match s.remotes.find? (fun r => r.id == id) with
  | none => s
  | some r =>
    let t : State := { s with
      remotes := s.remotes.filter (fun r => r.id != id), aper := s.aperHeld r a }
    match r.waiter with
    | .thread key _ =>
      if (t.thread key).run ≠ .remote id then t
      else if a ≠ .withdrawn then t.answer key a
      else if t.mustStop (t.thread key) then t.onThread key (fun t => { t.unissued with run := .swapped })
      else (t.onThread key Thread.unissued).makeReady key
    | .copy rid c => t.copyAnswer rid c id r.op a
    | .cmd g c => t.cmdAnswer g c id a
    | .port rid _ _ => t.portAnswer rid id a
/-- MEMORY_ACCESS_COMPLETION (R183, R434): a thread whose access has completed is ready; a group in flight takes the answer that
has come; or the answer of another device or of the host comes. Log entries 12, 55. -/
def execMemoryAccessCompletion (s : State) : Host.Outcome State Fault Refusal :=
  match s.ev with
  | .access key none => .next (if (s.thread key).run = .access then s.makeReady key
      else if (s.thread key).flying then s.resumeGroup key else s)
  | .access id (some a) => .next (s.remoteAnswer id a)
  | _ => .next s

/-! Completions of storage commands (R422, R424, R427, R428, R445). -/

/-- NVMe status 0 is success. -/
def nvmeStatus (st : BitVec 16) : Option (BitVec 16) := if st = 0 then none else some st
/-- RAMBLER_READ_COMPLETE (R422, R428): a Read ends, with its data or a status; on a port that is down, in failure (R445). A
command whose scale page has come goes on (R424). -/
def execRamblerReadComplete (s : State) : Host.Outcome State Fault Refusal :=
  match s.ev with
  | .storage id st data => .next (s.readEnd id (nvmeStatus st) data)
  | .unit id => .next (s.readEnd id (some Config.nvmeDown) [])
  | .pair g x => .next (s.cmdWake g (x / 2) (x % 2 == 1))
  | _ => .next s
/-- RAMBLER_WRITE_COMPLETE (R427, R428). -/
def execRamblerWriteComplete (s : State) : Host.Outcome State Fault Refusal :=
  match s.ev with
  | .storage id st _ => .next (s.writeEnd id (nvmeStatus st))
  | .unit id => .next (s.writeEnd id (some Config.nvmeDown))
  | _ => .next s

/-! The migration reserve of a die (R429). -/

def Die.resCount (r : Die) : Nat := fld r.rbMresN 31 0
def Die.resCap (r : Die) : Nat := fld r.rbMresN 62 32
def Die.resHold (r : Die) : Bool := tbit r.rbMresN 63
def State.resAt (s : State) (d i : Nat) : Nat := (s.die d).rbMres.toNat + 8 * i
def State.resSet (d n : Nat) (s : State) : State :=
  s.onDie d (fun r => { r with rbMresN := setFld r.rbMresN 31 0 n })
/-- Takes the highest-indexed frame of a size; the entries above it move down one place. Log entry 43. -/
def State.resTake (d code : Nat) (s : State) : Option (Nat × State) :=
  let n := (s.die d).resCount
  match ((upto n).reverse).find? (fun i => fld (s.prd8 (s.resAt d i)) 1 0 == code) with
  | none => none
  | some i =>
    let frame := fld (s.prd8 (s.resAt d i)) 51 12 * 4096
    let s := (upto (n - 1 - i)).foldl (fun s j => s.pwr8 (s.resAt d (i + j)) (s.prd8 (s.resAt d (i + j + 1)))) s
    some (frame, s.resSet d (n - 1))
/-- Adds a frame of a size. -/
def State.resAdd (d frame code : Nat) (s : State) : State :=
  let n := (s.die d).resCount
  (s.pwr8 (s.resAt d n) (BitVec.ofNat 64 (frame + code))).resSet d (n + 1)

/-! Migration (R359 to R361). -/

/-- The entries of the page that an entry at `a` belongs to. -/
def migEntries (a : Nat) (e : Word) : List Nat := if ptePS e = 1 then pageEntries (firstEntry a e) else [a]
/-- Whether the page of an entry may move to a die: its attributes, its size, and a frame on another die (R359).
Log entry 43. -/
def State.migratable (s : State) (e : Word) (die : Nat) : Bool :=
  pteV e && !pteT e && !pteBR e && !pteSB e && !ptePIN e && decide (ptePS e ≤ 2) && decide (die < 4) &&
  (match s.place (pteADDR e) with
    | .mem o => s.dieAt o != die
    | _ => false)
/-- Whether the reserves let a migration from one die to another begin (R429). Log entry 43. -/
def State.reservesOk (s : State) (src dst : Nat) : Bool :=
  let a := s.die src
  !a.resHold && !(s.die dst).resHold
    && decide (a.resCount + (s.migrations.filter (fun m => m.src == src)).length < a.resCap)
/-- Begins the migration of the page at va of a context to a die, if it may (R359, R360, R429). Log entry 43. -/
def State.migBegin (c : BitVec 12) (va die : Nat) (s : State) : State :=
  let rc := rootCtx c va
  match s.walkVa die c va with
  | .bad _ _ => s
  | .leaf _ a e =>
    let es := migEntries a e
    let size := pageSize (ptePS e)
    let base := va / size * size
    let src := s.dieAt (field (pteADDR e) 41 0)
    if !s.migratable e die || !s.reservesOk src die || s.migrations.any (fun m => m.ctx == rc && m.va == base)
        || es.any (fun x => !s.migratable (s.prd8 x) die || pteADDR (s.prd8 x) != pteADDR e || ptePS (s.prd8 x) != ptePS e) then s
    else match s.resTake die (ptePS e) with
    | none => s
    | some (frame, s) =>
      let (id, s) := s.newId
      let m : Migration := {
        id := id, ctx := rc, va := base, size := size, entry := firstEntry a e, ptes := es.map s.prd8, old := pteADDR e
        new := frame, src := src, dst := die }
      let m := { m with users := s.usesOf (some rc) base (base + size) false }
      let s := State.tlbRemove (some rc) base (base + size) { s with migrations := s.migrations ++ [m] }
      s.eventually (.event .migrationCopy (.unit id))
/-- MIGRATION_BEGIN (R359, R360). -/
def execMigrationBegin (s : State) : Host.Outcome State Fault Refusal :=
  match s.ev with
  | .migrate c va die => .next (s.migBegin c va.toNat die)
  | _ => .next s

/-- Moves a waiter to the slice of its word's new offset; one for which the slice has no entry is withdrawn, and its thread takes
T-FEWAIT at its group when it next issues (R360, R192). -/
def State.moveWaiter (a : Nat) (w : Waiter) (s : State) : State :=
  let h := s.home a
  if (s.cluster h).waits.length < 1024 then s.onCluster h (fun k => { k with waits := k.waits ++ [{ w with addr := a }] })
  else match w.key with
    | some k => (s.onThread k (fun t => { t with grants := t.grants ++ [.listFull] })).makeReady k
    | none => { s with answersOut := s.answersOut ++ [(w.id, .listFull)], remoteWaits := s.remoteWaits.filter (· != w.id) }
/-- Moves the waiters of the words of n bytes at device offset a to those at b, in their order. -/
def State.moveWaits (a b n : Nat) (s : State) : State :=
  let inR (w : Waiter) : Bool := decide (a ≤ w.addr ∧ w.addr < a + n)
  let ws := s.clusters.flatMap (fun (_, (k : Cluster)) => k.waits.filter inR)
  let s := { s with clusters := s.clusters.map (fun (i, (k : Cluster)) => (i, { k with waits := k.waits.filter (fun w => !inR w) })) }
  ws.foldl (fun s w => s.moveWaiter (w.addr - a + b) w) s
/-- Copies the memory of n bytes at device offset a to b (R360). -/
def Memory.moveTo (m : Memory) (a b n : Nat) : Memory :=
  let cells := m.filter (fun (x, _) => decide (a ≤ x ∧ x < a + n))
  cells.foldl (fun m (x, v) => Memory.write m (x - a + b) v) (m.filter (fun (x, _) => !decide (b ≤ x ∧ x < b + n)))
/-- Copies what a rising list says of addresses in n bytes at a to b. -/
def moveMarks (a b n : Nat) (l : List Nat) : List Nat :=
  (l.filter (fun x => decide (a ≤ x ∧ x < a + n))).foldl (fun l x => insertNat (x - a + b) l)
    (l.filter (fun x => !decide (b ≤ x ∧ x < b + n)))
/-- Copies n bytes with their full/empty bits from device offset a to b; every cached and stashed copy is recalled (R360). -/
def State.moveFrame (a b n : Nat) (s : State) : State :=
  let away (l : Nat) : Bool := !decide (a / 64 ≤ l ∧ l < (a + n) / 64) && !decide (b / 64 ≤ l ∧ l < (b + n) / 64)
  State.linesDrop (fun l => !away l) { s with
    mem := s.mem.moveTo a b n, empties := moveMarks a b n s.empties, poisoned := moveMarks a b n s.poisoned }

def State.onMigration (id : Nat) (f : Migration → Migration) (s : State) : State :=
  { s with migrations := s.migrations.map (fun m => if m.id = id then f m else m) }
/-- Device offset of a frame. -/
def State.frameOff (s : State) (frame : Nat) : Nat := (s.placeMem (s.place frame)).getD (field frame 41 0)
/-- Copies the page, once what used the removed translations has completed (R360). Log entry 43. -/
def State.migCopy (id : Nat) (s : State) : State :=
  match s.migrations.find? (fun m => m.id == id && m.st == .invalidating) with
  | none => s
  | some m =>
    let left := m.users.filter (s.usesOf (some m.ctx) m.va (m.va + m.size) false).contains
    if left ≠ [] then (s.onMigration id (fun m => { m with users := left })).after 1 (.event .migrationCopy (.unit id)) else
    let a := s.frameOff m.old
    let b := s.frameOff m.new
    let s := (s.moveFrame a b m.size).moveWaits a b m.size
    (s.onMigration id (fun m => { m with st := .copying })).eventually (.event .migrationInstall (.unit id))
/-- MIGRATION_COPY (R360). -/
def execMigrationCopy (s : State) : Host.Outcome State Fault Refusal :=
  match s.ev with
  | .unit id => .next (s.migCopy id)
  | _ => .next s

/-- A held access translates again (R361). -/
def State.migWake (entry : Nat) (s : State) (w : PWaiter) : State :=
  match w with
  | .thread key p =>
    if (s.thread key).party = p ∧ (s.thread key).run = .page entry then s.makeReady key else s
  | _ => s.wakePage entry false w
/-- Installs the page at its new frame, or abandons the migration (R360, R361, R429). Log entry 43. -/
def State.migInstall (id : Nat) (s : State) : State :=
  match s.migrations.find? (fun m => m.id == id && m.st == .copying) with
  | none => s
  | some m =>
    let es := if m.ptes.length = 1 then [m.entry] else pageEntries m.entry
    let code := ptePS (m.ptes.headD 0)
    let s := if es.map s.prd8 = m.ptes then
        let s := (es.zip m.ptes).foldl (fun s (a, e) => s.pwr8 a ((e &&& ~~~0x000FFFFFFFFFF000) ||| BitVec.ofNat 64 m.new)) s
        s.resAdd m.src m.old code
      else (s.moveWaits (s.frameOff m.new) (s.frameOff m.old) m.size).resAdd m.dst m.new code
    m.waiters.foldl (State.migWake m.entry) { s with migrations := s.migrations.filter (fun m => m.id != id) }
/-- MIGRATION_INSTALL (R360). -/
def execMigrationInstall (s : State) : Host.Outcome State Fault Refusal :=
  match s.ev with
  | .unit id => .next (s.migInstall id)
  | _ => .next s

end Sys2Proof.Machine
end

