-- ==== Sys2Proof/Machine/Links.lean ====
section
/-! DEFINITION. The Utsen ports and incoming requests (14, R431 to R436), and the host link: the control window, bias, the host
control page, snoops, training (14, R437 to R444; 12, R373). -/

namespace Sys2Proof.Machine
open Sys2Proof

/-! Ports (R431 to R434). -/

/-- A port is up: its four lanes have trained. Ports stay down until the device number is set, and in recovery (R432, R447). -/
def State.portUp (p : Nat) (s : State) : State :=
  if s.devnum.isNone ∨ s.boot.recovery ∨ 18 ≤ p then s
  else { s with uport := s.uport.put p (s.uport.getD 0 p ||| 1), uportFails := s.uportFails.del p
                boot := { s.boot with trained := true } }
/-- UTSEN_PORT_UP (R431, R432). -/
def execUtsenPortUp (s : State) : Host.Outcome State Fault Refusal :=
  match s.ev with
  | .unit p => .next (s.portUp p)
  | _ => .next s

/-- A port goes down: the requests that left through it lose their route (R434). -/
def State.portDown (p : Nat) (s : State) : State :=
  let lost := s.remotes.filter (fun r => r.port == some p)
  let s := { s with uport := s.uport.put p (s.uport.getD 0 p &&& ~~~1), uportFails := s.uportFails.del p }
  lost.foldl (fun s r => s.remoteAnswer r.id .lost) s
/-- UTSEN_PORT_DOWN (R431, R434). -/
def execUtsenPortDown (s : State) : Host.Outcome State Fault Refusal :=
  match s.ev with
  | .unit p => .next (if p < 18 then s.portDown p else s)
  | _ => .next s

/-- A flit is retransmitted: the port's count, and the end of a port that retransmits one flit more than 16 times in a row.
`again` says that the flit is the one retransmitted last. -/
def State.retransmit (p : Nat) (again : Bool) (s : State) : State :=
  let u := s.uport.getD 0 p
  let n := (if again then s.uportFails.getD 0 p else 0) + 1
  let s := { s with
    uport := s.uport.put p (setFld u 31 16 (min 0xFFFF (fld u 31 16 + 1))), uportFails := s.uportFails.put p n }
  if 16 < n then s.portDown p else s
/-- FLIT_RETRANSMIT (R431, R433). -/
def execFlitRetransmit (s : State) : Host.Outcome State Fault Refusal :=
  match s.ev with
  | .pair p again => .next (if p < 18 ∧ tbit (s.uport.getD 0 p) 0 then s.retransmit p (again != 0) else s)
  | _ => .next s
/-- UPORT_READ (R433). -/
def execUportRead (s : State) : Host.Outcome State Fault Refusal :=
  match s.ev with
  | .unit p => .next (if p < 18 then s.uportClear p else s)
  | _ => .next s

/-! Incoming requests (R435). -/

/-- The bytes that a request covers. -/
def opSize : RemoteOp → Nat
  | .read n => n
  | .write bs => bs.length
  | .mayWrite n => n
  | .amo _ n _ _ => n
  | .cas2 _ _ _ _ => 16
  | _ => 8
/-- The permission bit that a request needs: PR, PW or PA. A strand operation has none. Log entry 44. -/
def opPerm : RemoteOp → Option Nat
  | .read _ => some 62
  | .write _ | .mayWrite _ => some 61
  | .pop | .push _ => none
  | _ => some 60
/-- Whether entry i of the import table admits a request (R435). -/
def State.importOk (s : State) (q : RemoteReq) (i : Nat) : Bool :=
  let w (k : Nat) : Word := s.uimport.getD 0 (4 * i + k)
  tbit (w 0) 63 && fld (w 0) 31 22 == q.dev.toNat && fld (w 0) 11 0 == q.ctx.toNat
    && decide ((w 1).toNat ≤ q.off ∧ q.off + opSize q.op ≤ (w 2).toNat + 1) && (match opPerm q.op with
      | some b => tbit (w 0) b
      | none => false)
/-- Whether an incoming request is admitted: some entry admits it, and it touches no window, block or aperture. -/
def State.admitted (s : State) (q : RemoteReq) : Bool :=
  (upto 1024).any (s.importOk q) && (match s.placeOff q.off with
    | .mem _ | .none => true
    | _ => false)

/-- A waiting full/empty operation of another device: at the word's home (R190, R192). -/
def State.inWait (id o : Nat) (op : FeOp) (s : State) : Option Answer × State :=
  if 1024 ≤ (s.cluster (s.home o)).waits.length then (some .listFull, s)
  else
    let s := s.onCluster (s.home o) (fun c => { c with waits := c.waits ++ [{ id := id, addr := o, op := op, key := none }] })
    (none, { s with remoteWaits := s.remoteWaits ++ [id] })
/-- Whether a request writes all 64 bytes of a line (R343). Log entry 25. -/
def wholeWrite (o : Nat) : RemoteOp → Bool
  | .write bs => o % 64 == 0 && bs.length == 64
  | _ => false
/-- Performs an incoming request at device offset o: its answer, or none while it waits (R190, R192, R197, R435).
Log entry 44. -/
def State.inPerform (id o : Nat) (op : RemoteOp) (s : State) : Option Answer × State :=
  if !s.inStacks o then (some (.page 0x11), s)
  else if s.isPoisoned o (opSize op) && !wholeWrite o op then (some (.page 0x40), s)
  else match op with
    | .read n => (some (.data (s.mem.readN o n)), s.homeAccess o false)
    | .write bs => (some (.done 0 0), (s.memStore o bs).homeAccess o true)
    | .mayWrite _ => (some (.done 0 0), s)
    | .amo k n v e =>
      let (r, s) := s.amoAt k n v.toNat e.toNat o
      (some (.done r.1 0), s.homeTakes o)
    | .cas2 n0 n1 e0 e1 =>
      let a := s.rd8 o
      let b := s.rd8 (o + 8)
      (some (.done a b), (if a = e0 ∧ b = e1 then s.memStore o (toBytes 8 n0.toNat ++ toBytes 8 n1.toNat) else s).homeTakes o)
    | .feLoad empty =>
      if !s.isFull o then s.inWait id o (if empty then .ldFc else .ldFe)
      else
        let v := s.rd8 o
        (some (.done v 0), (if empty then (s.setFull o false).feeChanged o else s).homeTakes o)
    | .feStore wait v =>
      if wait ∧ s.isFull o then s.inWait id o (.stEf v) else (some (.done 0 0), (s.fillWord o v).homeTakes o)
    | .feBit k =>
      let b := s.feBit o
      (some (.done b 0), if k = 2 then s else ((s.setFull o (k == 0)).feeChanged o).homeTakes o)
    | .pop | .push _ => (some .refused, s)
    | .withdraw w =>
      if !s.remoteWaits.contains w then (some (.done 0 0), s)
      else (some (.done 0 0), { s with
        clusters := s.clusters.map (fun (r, k) => (r, { k with waits := k.waits.filter (fun x => x.id != w || x.key.isSome) }))
        remoteWaits := s.remoteWaits.filter (· != w), answersOut := s.answersOut ++ [(w, .withdrawn)] })
/-- UTSEN_REQUEST (R371, R435): an incoming request is performed or refused; or another device reports that its share of a
launch has ended. Log entry 44. -/
def execUtsenRequest (s : State) : Host.Outcome State Fault Refusal :=
  match s.ev with
  | .utsen q =>
    let (id, s) := s.newId
    let (a, s) := if s.admitted q then s.inPerform id q.off q.op else (some .refused, s)
    .next { s with answersOut := s.answersOut ++ (a.map (fun a => (id, a))).toList }
  | .pair serial _ => .next (match Tab.find serial s.launches with
    | some l => { s with launches := s.launches.put serial { l with remoteLeft := l.remoteLeft - 1 } }
    | none => s)
  | _ => .next s

/-! The host control page (R373, R442). -/

/-- Device offset of the host control page. -/
def State.hcBase (s : State) : Nat := s.cwbase.toNat + 4096 * s.hcIndex
/-- Whether the host agent serves the page: it is enabled and in device bias, after boot (R442, R447). -/
def State.hcServed (s : State) : Bool := s.boot.booted && s.hcEnabled && !s.hostBias.contains s.hcIndex
/-- The host agent takes one record, if it finds one posted (R373): its result, HEAD, vector 1. A full queue makes it wait. -/
def State.hostTake (s : State) : State :=
  let b := s.hcBase
  let head := s.rd8 (b + 8)
  if !s.hcServed ∨ s.rd8 b = head then s
  else
    let i := head.toNat % 15
    match s.launchTake 0 (BitVec.ofNat 64 (b + 256 + 256 * i)) (s.rdWords (b + 256 + 256 * i) 32) with
    | none => s.after 1 (.event .hostRecordTake .nil)
    | some (v, s) => 
      let s := (s.wr8 (b + 64 + 8 * i) v).recall ((b + 64 + 8 * i) / 64)
      (((s.wr8 (b + 8) (head + 1)).recall (b / 64)).raiseMsix 1).soonEv .hostRecordTake .nil
/-- HOST_RECORD_TAKE (R373). -/
def execHostRecordTake (s : State) : Host.Outcome State Fault Refusal := .next s.hostTake
/-- The host agent posts the first notice of a freeze when the page has none (R398). -/
def State.noticePost (s : State) : State :=
  match s.notices with
  | [] => s
  | n :: t =>
    if s.hcServed ∧ s.rd8 (s.hcBase + 16) = 0 then (({ s with notices := t }.wr8 (s.hcBase + 16) n).recall (s.hcBase / 64)).raiseMsix 0 else s

/-! Bias (R438, R439, R441). -/

/-- Whether a flip of a page to a target runs. -/
def State.flipRuns (s : State) (page : Nat) (toDev : Bool) : Bool :=
  tbit s.biascmd 63 && fld s.biascmd 15 0 == page && tbit s.biascmd 16 == toDev
/-- Drops every device copy of the lines of a window page. -/
def State.pageDrop (page : Nat) (s : State) : State :=
  let l := (s.cwbase.toNat + 4096 * page) / 64
  s.linesDrop (fun k => decide (l ≤ k ∧ k < l + 64))
/-- A flip ends: RESULT, and the accesses that it held are made (R441). -/
def State.flipEnd (s : State) : State :=
  s.flipWaits.foldl (State.migWake flipEntry) ({ s with flipWaits := [] }.biasEnd 0x00)
/-- BIAS_FLIP_HOST (R441). Log entry 45. -/
def execBiasFlipHost (s : State) : Host.Outcome State Fault Refusal :=
  match s.ev with
  | .unit page =>
    if !s.flipRuns page false then .next s
    else
      let s := s.pageDrop page
      .next ({ s with hostBias := insertNat page s.hostBias }.flipEnd)
  | _ => .next s
/-- BIAS_FLIP_DEVICE (R441): the host has answered the back-invalidations, writing back the lines that it had modified.
Log entry 45. -/
def execBiasFlipDevice (s : State) : Host.Outcome State Fault Refusal :=
  match s.ev with
  | .flip page lines =>
    let p := page.toNat
    let inPage (l : Nat) : Bool := l / 4096 == p
    if !s.flipRuns p true ∨ (s.hostModified.filter inPage).any (fun l => lines.all (fun w => 4096 * p + 64 * w.1 != l)) then .next s
    else
      let s := lines.foldl (fun s (n, bs) =>
        if n < 64 then s.memStore (s.cwbase.toNat + 4096 * p + 64 * n) (bs.take 64) else s) s
      let s := State.flipEnd { s with
        hostBias := s.hostBias.filter (· != p), hostLines := s.hostLines.filter (fun l => !inPage l)
        hostModified := s.hostModified.filter (fun l => !inPage l) }
      .next (if s.hcIndex = p ∧ s.hcServed then s.soonEv .hostRecordTake .nil else s)
  | _ => .next s
/-- CWBASE_WRITE (R438). -/
def execCwbaseWrite (s : State) : Host.Outcome State Fault Refusal :=
  match s.ev with
  | .word v => .next (s.cwbaseSet v)
  | _ => .next s
/-- An access of the host to BAR0, the host-interface block (R430, R440), a write where there is a value: CWBASE is the supervisor's to
write, and in recovery no access is answered (R447). -/
def State.hostBar (j : Nat) (v : Option Word) (s : State) : State :=
  if s.boot.recovery then s
  else match v with
  | some v => if j = 0x10 then s else s.hostifWrite j v
  | none => { s with hostReads := s.hostReads ++ [toBytes 8 (s.hostifRead j).toNat] }
/-- PLATFORM_REGISTER_WRITE (R430, R440): a write of a register by its device offset, of the host-interface block by the host; or the
host's read of a register of that block. Log entry 45. -/
def execPlatformRegisterWrite (s : State) : Host.Outcome State Fault Refusal :=
  match s.ev with
  | .regWrite o v => .next (match s.placeOff o with
    | .hostif j => s.hostBar j (some v)
    | p => s.regWrite p v)
  | .unit j => .next (s.hostBar j none)
  | _ => .next s

/-- A host access to bytes of one line of the window (R439, R442); in recovery none is answered (R447). Log entry 45. -/
def State.hostAccess (a : HostAccess) (s : State) : State :=
  let n := if a.write then a.data.length else a.len
  if s.boot.recovery ∨ 0x10000000 ≤ a.off ∨ 64 < a.off % 64 + n then s
  else
    let o := s.cwbase.toNat + a.off
    let line := a.off / 64 * 64
    let host := s.hostBias.contains (a.off / 4096)
    let s := if host then { s with
        hostLines := insertNat line s.hostLines
        hostModified := if a.write then insertNat line s.hostModified else s.hostModified } else s.recall (o / 64)
    if a.write then
      let s := s.memStore o a.data
      if !host ∧ a.off / 4096 = s.hcIndex ∧ a.off % 4096 < 64 ∧ s.hcServed then s.soonEv .hostRecordTake .nil else s
    else { s with hostReads := s.hostReads ++ [s.mem.readN o n] }
/-- HOST_WINDOW_ACCESS (R439, R442). -/
def execHostWindowAccess (s : State) : Host.Outcome State Fault Refusal :=
  match s.ev with
  | .host a => .next (s.hostAccess a)
  | _ => .next s

/-! Snoops and training (R437, R444). -/

/-- HOST_SNOOP (R444): the answer to a snoop of the line at a host address. A line that a cluster holds modified is recalled;
one that was held modified at a hard reset is answered with poisoned data once; the always-on host interface answers in recovery
too. Log entry 45. -/
def execHostSnoop (s : State) : Host.Outcome State Fault Refusal :=
  match s.ev with
  | .unit h =>
    let l := h / 64 * 64
    .next { s with
      snoopAnswers := s.snoopAnswers ++ [(l, if s.hardMod.contains l then 2 else if (Tab.find l s.aper).isSome then 1 else 0)]
      hardMod := s.hardMod.filter (· != l), aper := s.aper.del l }
  | _ => .next s
/-- HOST_LINK_TRAINING (R437): PCIe 6.0 x4 or any lower rate (1 to 6) and width; vectors that waited are sent. -/
def execHostLinkTraining (s : State) : Host.Outcome State Fault Refusal :=
  match s.ev with
  | .pair rate width =>
    .next (if 1 ≤ rate ∧ rate ≤ 6 ∧ [1, 2, 4].contains width then State.msixFlush { s with linkRate := rate, linkWidth := width }
      else s)
  | _ => .next s

end Sys2Proof.Machine
end

