-- ==== Sys2Proof/Machine/Platform.lean ====
section
/-! DEFINITION. Boot, management, power, storage ports, and the two events of the rotation (14, R445 to R452; 12, R393,
R395). -/

namespace Sys2Proof.Machine
open Sys2Proof

/-! Boot (R446, R447). -/

/-- The first n bytes of a list, with zeros after its end. -/
def fitBytes (n : Nat) (l : List Byte) : List Byte := (l ++ List.replicate n 0).take n
/-- n bytes of an image at a as a number. -/
def imgNum (img : List Byte) (a n : Nat) : Nat := ofBytes ((img.drop a).take n)
def imgLoad (img : List Byte) : Nat := imgNum img 8 8
def imgBody (img : List Byte) : List Byte := (img.drop 4096).take (imgNum img 16 8)
/-- Whether both signatures of an image verify: the monitor's against the fused keys, the supervisor's against the owner's (R446).
Log entry 7. -/
def imgSigned (owner : Bool) (img : List Byte) : Bool :=
  let head := img.take 72
  let ed := (img.drop 72).take 64
  let mldsa := (img.drop 136).take 3309
  if owner then Config.ownerEd25519Ok head ed && Config.ownerMldsaOk head mldsa
  else Config.ed25519Ok head ed && Config.mldsaOk head mldsa
/-- Whether an image, the monitor's or the supervisor's, may run (R446): its header's fields, its body's digest, and both
signatures. Log entries 7, 47. -/
def State.imgOk (s : State) (owner : Bool) (img : List Byte) : Bool :=
  decide (4096 + imgNum img 16 8 ≤ img.length) && imgNum img 0 4 == 0x4D495151
    && decide (Config.fuseVersion.toNat ≤ imgNum img 4 4) && decide (imgLoad img + imgNum img 16 8 ≤ s.dieSize 0)
    && ((img.drop 3445).take 651).all (· == 0) && Config.sha384 (imgBody img) == (img.drop 24).take 48
    && imgSigned owner img

/-- The monitor's boot thread (R138, R447): slot 0 of Spindle 0, monitor level, at the body's first byte, in a party of one. No launch
dispatches it and no rule seeds its generator: the model seeds it as launch 0, index 0 and the seed of context 0's descriptor, in
memory that is 0. Log entry 47. -/
def State.bootThread (entry : Nat) (s : State) : State :=
  let (pid, s) := s.newId
  let t := { s.newThread 0 0 0 [] 0 [] 0 0 with level := .monitor, pc := BitVec.ofNat 64 entry, party := pid }
  let p : Party := { ctx := 0, rid := 0, size := 1, live := 1, cls := 0, keys := [(0, 0)] }
  let (_, s) := State.birth 0 t { s with parties := s.parties.put pid p }
  s
/-- An admitted image's body is loaded at its offset in die 0's range. -/
def State.loadImage (img : List Byte) (s : State) : State :=
  (s.wrBytes (imgLoad img) (imgBody img)).linesDrop (fun l =>
    decide (imgLoad img / 64 ≤ l ∧ l ≤ (imgLoad img + (imgBody img).length) / 64))
/-- The boot ROM's work: the flash image, else the one that the DOE mailbox offers, else recovery; memory is written 0 and
full (R342). Log entries 10, 47. -/
def State.bootRom (s : State) : State :=
  let s := { s with mem := [], empties := [], poisoned := [] }
  match [s.boot.flash, s.boot.doe].find? (s.imgOk false) with
  | none => { s with boot := { s.boot with done := true, recovery := true } }
  | some img =>
    let s := s.loadImage img
    State.bootThread (imgLoad img) { s with boot := { s.boot with
      done := true, recovery := false, entry := imgLoad img, monitorHash := Config.sha384 (imgBody img) } }
/-- The monitor has trained the ports and loads the supervisor image, if it passes the checks (R445 to R447): exactly the storage
ports given are up, and HISTAT.BOOTED is set. Log entry 47. -/
def State.monitorDone (img : List Byte) (ports : BitVec 8) (s : State) : State :=
  if !s.imgOk true img then s
  else
    let s := s.loadImage img
    { s with supPorts := ports, boot := { s.boot with booted := true, supervisorHash := Config.sha384 (imgBody img) } }
/-- POWER_ON_RESET (R446, R447): the boot ROM, after a reset, or, in recovery, when the DOE mailbox has brought an image; later the
end of the monitor's boot. Log entries 10, 47. -/
def execPowerOnReset (s : State) : Host.Outcome State Fault Refusal :=
  if s.boot.done ∧ !s.boot.recovery then .next (match s.ev with
    | .boot img ports => if s.boot.booted then s else s.monitorDone img ports
    | _ => s)
  else match s.ev with
    | .bytes img => .next (State.bootRom { s with boot := { s.boot with doe := img } })
    | _ => .next s.bootRom

/-! Management (R448 to R450). -/

/-- A management answer, a management event (R437). Log entry 48. -/
def State.mgmtSay (l : List Byte) (s : State) : State := State.raiseMsix 2 { s with mgmtOut := s.mgmtOut ++ [l] }
/-- MGMT_GET_CERTIFICATES (R448). Log entry 7. -/
def execMgmtGetCertificates (s : State) : Host.Outcome State Fault Refusal := .next (s.mgmtSay Config.certificates)
/-- Bytes 0 to 239 of an attestation report (R449). Log entries 7, 48. -/
def State.reportBody (nonce : List Byte) (s : State) : List Byte :=
  fitBytes 32 nonce ++ toBytes 8 (s.disc 0).toNat ++ toBytes 8 (s.disc 7).toNat ++ fitBytes 48 Config.romMeasure
    ++ fitBytes 48 s.boot.monitorHash ++ fitBytes 48 s.boot.supervisorHash ++ fitBytes 48 Config.fuseMeasure
/-- MGMT_ATTESTATION (R449): the report over the verifier's nonce. Log entry 7. -/
def execMgmtAttestation (s : State) : Host.Outcome State Fault Refusal :=
  match s.ev with
  | .bytes nonce =>
    let b := s.reportBody nonce
    .next (s.mgmtSay (b ++ fitBytes 64 (Config.ed25519Sign b) ++ fitBytes 3309 (Config.mldsaSign b)))
  | _ => .next s
/-- MGMT_SET_DEVICE_NUMBER (R432, R450): refused after the first port is up. The answer is 0, or 1 for a refusal.
Log entry 48. -/
def execMgmtSetDeviceNumber (s : State) : Host.Outcome State Fault Refusal :=
  match s.ev with
  | .devnum n => .next (if s.boot.trained ∨ 576 ≤ n.toNat then s.mgmtSay [1] else { s with devnum := some n }.mgmtSay [0])
  | _ => .next s
/-- MGMT_SET_POWER_LIMIT (R450, R452). Log entry 48. -/
def execMgmtSetPowerLimit (s : State) : Host.Outcome State Fault Refusal :=
  match s.ev with
  | .word v => .next ((s.pwrlimSet v.toNat).mgmtSay [0])
  | _ => .next s
/-- MGMT_READ_SENSORS (R450). Log entries 2, 48. -/
def execMgmtReadSensors (s : State) : Host.Outcome State Fault Refusal :=
  let (n, s) := s.draw
  .next (s.mgmtSay ((Config.sensors n).flatMap (fun w => toBytes 8 w.toNat)))
/-- MGMT_READ_ERRORS (R343, R450): each array's number and count of corrected errors, then the uncorrectable addresses.
Log entry 48. -/
def execMgmtReadErrors (s : State) : Host.Outcome State Fault Refusal :=
  .next (s.mgmtSay (s.corrected.flatMap (fun (a, n) => toBytes 8 a ++ toBytes 8 n) ++ s.uncorrected.flatMap (toBytes 8)))
/-- What a reset leaves (R444): every register and unit at its reset value, what lies outside the reset domain kept. -/
def State.restartBase (boot : Boot) (s : State) : State :=
  { State.reset with
    part := s.part, boot := boot, free := s.free, nextId := s.nextId
    inputs := s.inputs.map (fun (t, i, a) => (t - s.cycle, i, a)), upsets := s.upsets.map (fun (t, u) => (t - s.cycle, u))
    linkRate := s.linkRate, linkWidth := s.linkWidth, msixSent := s.msixSent, hostReads := s.hostReads
    snoopAnswers := s.snoopAnswers, mgmtOut := s.mgmtOut, answersOut := s.answersOut
    sharesEnded := s.sharesEnded, hardMod := s.hardMod }
/-- A reset (R444, R446). A hard reset runs the boot ROM next, and the host interface remembers the aperture lines that were modified.
Before a warm reset those are written back; it keeps memory, and starts the admitted monitor anew. Log entry 47. -/
def State.restart (warm : Bool) (s : State) : State :=
  if warm then
    let t : State := { s.restartBase { s.boot with booted := false, trained := false } with
      mem := s.mem, empties := s.empties, poisoned := s.poisoned }
    if !s.boot.done then t
    else if s.boot.recovery then { t with agenda := [] }
    else State.bootThread s.boot.entry { t with agenda := [] }
  else { s.restartBase { flash := s.boot.flash, doe := s.boot.doe } with
    hardMod := s.aper.foldl (fun l (h, _) => insertNat h l) s.hardMod }
/-- MGMT_RESET (R444, R450): warm or hard. -/
def execMgmtReset (s : State) : Host.Outcome State Fault Refusal :=
  match s.ev with
  | .flag warm => .next (s.restart warm)
  | _ => .next s

/-! Power (R451, R452). -/

/-- Whether a cluster has no thread, frame or command in course (R451). -/
def State.quietCluster (s : State) (rid : Nat) : Bool :=
  s.threads.all (fun (k, _) => ridOf k != rid) && (s.region rid).idle && (s.cluster rid).copies.isEmpty
    && (upto 8).all (fun i => (s.spindle (8 * rid + i)).queue.all (fun (_, q) => q.isEmpty))
/-- CLUSTER_POWER_DOWN (R444, R451): an idle cluster gives up its lines, those of the aperture written back. -/
def execClusterPowerDown (s : State) : Host.Outcome State Fault Refusal :=
  match s.ev with
  | .unit rid => .next (if !s.quietCluster rid then s else 
      State.onCluster rid (fun k => { k with powered := false })
        { s.clusterGive rid with aper := s.aper.filter (fun (_, r) => r != rid) })
  | _ => .next s
/-- Rotations that each Spindle of a cluster has withheld in an interval of 500: at least one in eight is kept (R395).
Log entry 16. -/
def heldRotations (n : Nat) : Nat := min n 437
/-- CSA_INTERVAL (R395, R452): the budgets of the next 1 µs, given or the device's own. Log entries 2, 16. -/
def execCsaInterval (s : State) : Host.Outcome State Fault Refusal :=
  let (n, s) := s.draw
  let held (g : Nat) : Nat := match s.ev with
    | .held h => heldRotations (((h.find? (fun q => q.1 == g / 8)).map (·.2)).getD 0)
    | _ => heldRotations (Config.withheld n (g / 8))
  .next { s with
    spindles := s.spindles.map (fun (g, p) => (g, { p with withheld := held g }))
    pwrnow := (Config.powerNow n).setWidth 64 }

/-! The rotation (R392, R393). -/

/-- QUANTUM_EXPIRY (R393): a thread that has issued in 13 rotations and stands at a group boundary leaves its position for the
tail of its Spindle's ready queue, when that is not empty. -/
def execQuantumExpiry (s : State) : Host.Outcome State Fault Refusal :=
  match s.ev with
  | .unit key =>
    let t := s.thread key
    .next (if t.run = .rotating ∧ 13 ≤ t.rot ∧ t.beats = 0 ∧ (s.spindle (gspOf key)).ready ≠ [] then s.makeReady key else s)
  | _ => .next s

/-! Storage ports (R445). -/

/-- STORAGE_PORT_LINK_DOWN (R445, R428): the port is down, and the commands in course on it fail. -/
def State.storageDown (p : Nat) (s : State) : State :=
  let s := { s with supPorts := s.supPorts &&& ~~~(1#8 <<< p) }
  let on (e : Word) : Bool := fld (s.bdWord e 2) 35 32 == p
  let reads := s.dies.flatMap (fun (_, (d : Die)) => (d.reqs.filter (fun q => q.reading && on q.pte)).map PageReq.id)
  let writes := s.dies.flatMap (fun (_, (d : Die)) => (d.evicts.filter (fun e => on e.saved)).map Evict.id)
  let s := reads.foldl (fun s n => s.later (.event .ramblerReadComplete (.unit n))) s
  writes.foldl (fun s n => s.later (.event .ramblerWriteComplete (.unit n))) s
/-- The links of the storage ports have changed: exactly those given are up, and the commands on one that went down fail (R445). -/
def State.storageLinks (up : BitVec 8) (s : State) : State :=
  let s := ((upto 8).filter (fun p => s.supPorts.getLsbD p && !up.getLsbD p)).foldl (fun s p => s.storageDown p) s
  { s with supPorts := up }
/-- STORAGE_PORT_LINK_DOWN (R445): one port's link fails; or links train and fail after boot, whose ports DISC5 then reports.
Log entry 47. -/
def execStoragePortLinkDown (s : State) : Host.Outcome State Fault Refusal :=
  match s.ev with
  | .unit p => .next (if p < 8 then s.storageDown p else s)
  | .ports up => .next (if s.boot.booted then s.storageLinks up else s)
  | _ => .next s

end Sys2Proof.Machine
end

