-- ==== Sys2Proof/Machine/Turns.lean ====
section
/-! DEFINITION. The clock: what each unit of the device has to do in an ac, in the order in which the model performs it (log
entry 4). The rotation of each Spindle stands as 12, R392, gives it. -/

namespace Sys2Proof.Machine
open Sys2Proof

/-! The rotation (R392, R393, R395). -/

/-- The start of a rotation on a Spindle: positions that threads have left take the head of the ready queue; in a withheld
rotation no position changes. Log entry 16. -/
def State.rotationStart (g : Nat) (s : State) : State :=
  let p := s.spindle g
  if 0 < p.withheld then
    (s.onSpindle g (fun p => { p with withheld := p.withheld - 1, idle := true })).onCluster (g / 8)
      (fun c => { c with wheld := c.wheld + 1 })
  else
    let kept := p.pos.map (fun o => o.bind (fun sl => if (s.thread (16 * g + sl)).run = .rotating then some sl else none))
    let (pos, rest) := kept.foldl (fun (acc : List (Option Nat) × List Nat) o => match o, acc.2 with
      | some sl, r => (acc.1 ++ [some sl], r)
      | none, sl :: r => (acc.1 ++ [some sl], r)
      | none, [] => (acc.1 ++ [none], [])) ([], p.ready)
    let took := p.ready.take (p.ready.length - rest.length)
    let s := took.foldl (fun s sl => s.onThread (16 * g + sl) (fun t => { t with run := .rotating, rot := 0 })) s
    s.onSpindle g (fun p => { p with pos := pos, ready := rest, idle := false })
/-- The move of the position whose ac it is: an issue, and, from its thirteenth rotation on, the end of the thread's quantum. -/
def State.slotMove (s : State) (g : Nat) (p : Spindle) : List Move :=
  match p.pos.getD (s.cycle % 8) none with
  | none => []
  | some sl =>
    let key := 16 * g + sl
    let t := s.thread key
    if p.idle ∨ t.run ≠ .rotating then []
    else if t.rot < 12 then [.issue key]
    else [.issue key, .event .quantumExpiry (.unit key)]

/-! Regions (R248). -/

/-- The turns of a region's nodes in an ac, in order of arrival: of the nodes of a tile, the first that can fire fires; each that must
wait, or whose access fails, asks for what it waits for, or withholds its token. Log entry 14. -/
def State.fireMoves (s : State) (rid : Nat) (r : Region) : List Move :=
  (r.firings.filter (fun (n, tag) => State.nodeMay { s with curNode := (rid, n, tag) })).map (fun (n, tag) => .fire rid n tag)

/-! Matrix units (R221, R236, R241). -/

/-- The commands of a Spindle that may start or go on. -/
def State.commandMoves (s : State) (g : Nat) (p : Spindle) : List Move :=
  let ply := if p.unit.isSome then [] else match s.plyOwner g with
    | some c => [Move.command g c 0]
    | none => []
  let nbm := p.queue.filterMap (fun (k, q) => match q with
    | _ :: _ => if k % 2 = 1 ∧ s.cmdReady g (k / 2) 1 then some (Move.command g (k / 2) 1) else none
    | [] => none)
  ply ++ nbm

/-! Hampers and dispatchers, each fc (R384 to R388). -/

/-- The refused records of a cluster that arrive again now (R384), the oldest first. -/
def State.retries (s : State) (k : Cluster) : List HRecord := (k.refused.filter (fun q => decide (q.1 ≤ s.cycle))).map (·.2)
/-- The next arrival at a cluster: in every fourth fc, those of number 0 mod 4, a reload goes first; a sender with a refused record waits.
Log entry 15. -/
def State.arrivalMove (s : State) (rid : Nat) (k : Cluster) : List Move :=
  let out := k.refused.filter (fun q => decide (s.cycle < q.1))
  let fresh : List Move := match (s.retries k ++ k.arrivals).find? (fun r =>
      !out.any (fun q => q.2.sender == r.sender && q.2.fromRegion == r.fromRegion)) with
    | some r => [.event .hamperArrival (.record rid r)]
    | none => []
  if s.cycle / 2 % 4 = 0 then match s.reloadNext rid with
    | some c => [.event .hamperReload (.pair rid c.toNat)]
    | none => fresh
  else fresh
/-- The work of a cluster's Hamper and dispatcher: what arrives, what is due then, and a decision. -/
def State.clusterMoves (s : State) (rid : Nat) (k : Cluster) : List Move :=
  let comes := s.arrivalMove rid k
  let due := k.records.filter s.ripeNow
  (s.retries k).reverse.map (fun r => .event .recordRetry (.record rid r))
    ++ comes ++ due.map (fun e => .event .recordDue (.pair rid e.num))
    ++ (if comes = [] then [] else [.event .recordDue (.unit rid)])
    ++ (if comes = [] ∧ due = [] ∧ k.entries = [] ∧ k.reserved = none then [] else [.event .dispatchDecision (.unit rid)])

/-! Launches, saves, swaps. -/

/-- The moves of launches, saves and configuration switches. -/
def State.workMoves (s : State) : List Move :=
  s.regions.filterMap (fun (rid, r) => if r.target.isSome then some (Move.event .configurationSwitch (.unit rid)) else none)
    ++ s.parties.filterMap (fun (p, a) => if a.swap = .draining then some (Move.event .partySwapOut (.unit p)) else none)
    ++ (if tbit s.ctxcmd 63 ∧ fld s.ctxcmd 15 12 = 1 then
          [Move.event .saveComplete (.ctx (BitVec.ofNat 12 (fld s.ctxcmd 11 0)))] else [])

/-- Spindles with commands of a frozen context, which are cancelled (R398). -/
def State.cancelFrozen (s : State) : State :=
  s.spindles.foldl (fun s (g, p) => p.queue.foldl (fun s (k, q) =>
    let c := BitVec.ofNat 12 (k / 2)
    if q ≠ [] ∧ s.isFrozen c then s.plyFreeze g c else s) s) s

/-- A context whose descriptor is active again is a new one (R398): its tiles are those of one that enters a slot table (R222).
Log entry 40. -/
def State.thaw (s : State) : State :=
  let new (c : Nat) : Bool := (s.ctx (BitVec.ofNat 12 c)).frozen && s.ctxActive (BitVec.ofNat 12 c)
  if s.ctxs.all (fun (c, _) => !new c) then s else
  { s with
    ctxs := s.ctxs.map (fun (c, x) => (c, if new c then { x with frozen := false, plyBlocks := [], plyKeep := [] } else x))
    spindles := s.spindles.map (fun (g, p) => (g, { p with
      acc := p.acc.filter (fun (i, _) => !new (i / 4096)), tiles := p.tiles.filter (fun c => !new c.toNat) })) }
/-- The turn of a die's Itinerary engine. -/
def State.itinsTurn (d : Nat) (s : State) : State := (s.die d).itins.foldl (fun s i => s.itinTurn d i.serial) s
/-- The turn of a die's Rambler: evictions, and page requests without a slot. -/
def State.ramblerTurn (d : Nat) (s : State) : State :=
  let s := (s.die d).evicts.foldl (fun s e => s.evictTurn d e) s
  if (s.die d).reqs.any (fun q => q.slot.isNone) then s.reqsStart d else s
/-- The engines of the dies that have work. -/
def State.engineMoves (s : State) : List Move :=
  s.dies.flatMap (fun (d, x) => (if x.itins = [] then [] else [Move.itins d])
    ++ (if x.evicts.isEmpty && x.reqs.all (fun q => q.slot.isSome) then [] else [Move.rambler d]))
/-- What is done as an ac begins and is no agent's: launches, threads that wait for a save block, and the host agent's notices. -/
def State.chores (s : State) : State :=
  let s := (upto 4).foldl (fun s d => s.launchStep d) s
  let s := s.launches.foldl (fun s (n, _) => s.launchEnd n) s
  let s := (s.threads.filter (fun (_, t) => t.run == .stopped)).foldl (fun s (k, _) => s.stoppedTurn k) s
  let s := s.thaw
  let s := if s.cycle % 128 = 0 then s.donate else s
  s.cancelFrozen.noticePost

/-- The events of a clock edge that fall due by the count of cycles: slot boundaries and intervals of 1 µs (R394, R395). -/
def State.clockMoves (s : State) : List Move :=
  (if s.cycle % 256 = 0 then s.spindles.map (fun (g, _) => Move.event .plySlotBoundary (.unit g)) else [])
    ++ (if s.cycle % 4000 = 0 then [Move.event .csaInterval .nil] else [])

/-- What falls due in an ac: timed moves, and what comes from outside. Log entry 1. -/
def State.dueMoves (s : State) : List Move :=
  (s.timed.filter (fun (t, _) => decide (t ≤ s.cycle))).map (·.2)
    ++ (s.inputs.filter (fun (t, _, _) => decide (t ≤ s.cycle))).map (fun (_, i, a) => Move.event i a)
/-- The rest stays for later. -/
def State.notDue (s : State) : State :=
  { s with
    timed := s.timed.filter (fun (t, _) => decide (s.cycle < t)), inputs := s.inputs.filter (fun (t, _, _) => decide (s.cycle < t)) }
/-- The die whose arrays the near-bank command at the head of a queue reads next (R344). -/
def State.arrayDie (s : State) (g ctx : Nat) : Nat :=
  match (s.spindle g).head ctx 1 with
  | some c => if c.mat = [] then g / 192 else s.dieAt (c.unitAt c.job c.next 0)
  | none => g / 192
/-- One more than the number of the agent that a move is of (R352): a cluster's own, 96 + d for the Itinerary engine of die d, 100 + d
for its Rambler, 104 + d for its near-bank arrays, 108 for the host agent, 112 + d for what enters die d; what the clock itself
does comes before all. -/
def Move.agent (s : State) (m : Move) : Nat :=
  let rambler (id : Nat) : Nat :=
    100 + (((upto 4).find? (fun d => (s.die d).reqs.any (fun q => q.id == id) || (s.die d).evicts.any (fun e => e.id == id))).getD 0)
  let itin (n : Nat) : Nat := 96 + ((s.itin? n).map (·.1)).getD 0
  match m with
  | .issue key => ridOf key + 1
  | .fire rid _ _ => rid + 1
  | .command g c kind => if kind = 1 then 105 + s.arrayDie g c else g / 8 + 1
  | .itins d => 97 + d
  | .rambler d => 101 + d
  | .half n => n
  | .whole => 0
  | .event i a => match i, a with
    | .plySlotBoundary, _ | .csaInterval, _ => 0
    | .quantumExpiry, .unit key | .sfuResult, .unit key => ridOf key + 1
    | .memoryAccessCompletion, .access key none => ridOf key + 1
    | .utsenRequest, .utsen q => 113 + q.die % 4
    | .memoryAccessCompletion, _ | .utsenRequest, _ => 113
    | .hamperArrival, .record rid _ | .recordRetry, .record rid _ => rid + 1
    | .hamperReload, .pair rid _ | .recordDue, .pair rid _ => rid + 1
    | .recordDue, .unit rid | .dispatchDecision, .unit rid | .configurationSwitch, .unit rid => rid + 1
    | .portRewalk, .pair x _ | .regionDrain, .pair x _ => x / 2 + 1
    | .copyEngineRun, .pair rid _ => rid + 1
    | .itinNodeDispatch, .pair n _ | .itinNodeDone, .pair n _ | .itinFixedFiring, .pair n _ => itin n + 1
    | .ramblerReadComplete, .storage id _ _ | .ramblerReadComplete, .unit id | .ramblerWriteComplete, .storage id _ _
    | .ramblerWriteComplete, .unit id => rambler id + 1
    | .hostWindowAccess, _ | .hostRecordTake, _ | .hostSnoop, _ => 109
    | _, _ => 118
/-- Whether an agent works in both ac of an fc: a cluster, or a die's near-bank arrays. -/
def State.halved (s : State) (n : Nat) : Bool :=
  s.spindles.any (fun (g, p) => g / 8 + 1 == n || (decide (105 ≤ n ∧ n < 109) && p.queue.any (fun (k, q) => k % 2 == 1 && !q.isEmpty)))
    || s.regions.any (fun (r, _) => r + 1 == n)
/-- The moves of an fc in ascending number of their agents, those of one agent in the order given, those of its second ac after those of
its first (R352). -/
def State.byAgent (s : State) (l : List Move) : List Move :=
  (upto 119).flatMap (fun n => l.filter (fun m => m.agent s == n) ++ (if s.halved n then [.half n] else []))
/-- What threads, nodes and commands have to do in the ac. -/
def State.unitMoves (s : State) : List Move :=
  s.spindles.flatMap (fun (g, p) => s.slotMove g p) ++ s.regions.flatMap (fun (r, g) => s.fireMoves r g)
    ++ s.spindles.flatMap (fun (g, p) => s.commandMoves g p)
/-- What every unit has to do in an fc that begins. Log entry 4. -/
def State.allMoves (s : State) : List Move :=
  s.clockMoves ++ s.unitMoves ++ s.engineMoves ++ s.clusters.flatMap (fun (r, k) => s.clusterMoves r k) ++ s.workMoves
def State.withAgenda (l : List Move) (s : State) : State := { s with agenda := s.agenda ++ l }
def State.rotations (s : State) : State :=
  if s.cycle % 8 = 0 then s.spindles.foldl (fun s (g, _) => s.rotationStart g) s else s
/-- No tile has fired in the ac (R248). -/
def State.tilesReady (s : State) : State :=
  { s with regions := s.regions.map (fun (k, r) => (k, { r with busy := [] })) }
/-- The errors of the arrays in the ac; one that is reported is a management event (R343, R437). Log entries 48, 49. -/
def State.upsetTurn (s : State) : State :=
  let t := s.upsetsDue
  if t.corrected = s.corrected ∧ t.uncorrected = s.uncorrected then t else t.raiseMsix 2
/-- The second ac of an fc, for one agent: what falls due of it, and what its units have to do. Log entry 4. -/
def State.halfTurn (n : Nat) (s : State) : State :=
  let s := { s with
    cycle := s.cycle + 1
    regions := s.regions.map (fun (k, r) => (k, if k + 1 = n then { r with busy := [] } else r)) }
  let own (m : Move) : Bool := m.agent s == n
  let (due, rest) := s.timed.partition (fun (t, m) => decide (t ≤ s.cycle) && own m)
  { s with timed := rest, agenda := due.map (·.2) ++ s.unitMoves.filter own ++ .whole :: s.agenda }
/-- The next agent's first ac. -/
def State.wholeTurn (s : State) : State := { s with cycle := s.cycle - 1 }
/-- What is to happen in an fc that has begun: the rotations that start, the units' own work, and what falls due, agent by agent, each
in both of its ac; in its second ac, what else falls due. Log entry 4. -/
def State.fillAgenda (s : State) : State :=
  if s.cycle % 2 = 1 then (fun (t : State) => t.withAgenda (s.dueMoves ++ t.workMoves)) s.notDue.chores
  else (fun (t : State) => t.withAgenda (t.byAgent (s.dueMoves ++ t.allMoves))) s.notDue.rotations.chores.upsetTurn.tilesReady
/-- An ac begins: the cycle count, and the agenda of everything that is to happen in it. Log entry 4. -/
def State.tick (s : State) : State := State.fillAgenda { s with cycle := s.cycle + 1 }

end Sys2Proof.Machine
end

