-- ==== Sys2Proof/Machine/Dispatch.lean ====
section
/-! DEFINITION. The dispatch of `exec`: one arm per constructor of `Instr`, each one direct call of its meaning. -/

namespace Sys2Proof.Machine
open Sys2Proof

def exec (i : Instr) (s : State) : Host.Outcome State Fault Refusal :=
  match i with
  | .lui rd imm => Sys2Proof.Machine.execLui rd imm s
  | .auipc rd imm => Sys2Proof.Machine.execAuipc rd imm s
  | .addi rd rs1 imm => Sys2Proof.Machine.execAddi rd rs1 imm s
  | .slti rd rs1 imm => Sys2Proof.Machine.execSlti rd rs1 imm s
  | .sltin rd rs1 imm => Sys2Proof.Machine.execSltin rd rs1 imm s
  | .xori rd rs1 imm => Sys2Proof.Machine.execXori rd rs1 imm s
  | .ori rd rs1 imm => Sys2Proof.Machine.execOri rd rs1 imm s
  | .andi rd rs1 imm => Sys2Proof.Machine.execAndi rd rs1 imm s
  | .slli rd rs1 sh => Sys2Proof.Machine.execSlli rd rs1 sh s
  | .srli rd rs1 sh => Sys2Proof.Machine.execSrli rd rs1 sh s
  | .srai rd rs1 sh => Sys2Proof.Machine.execSrai rd rs1 sh s
  | .add rd rs1 rs2 => Sys2Proof.Machine.execAdd rd rs1 rs2 s
  | .sub rd rs1 rs2 => Sys2Proof.Machine.execSub rd rs1 rs2 s
  | .sll rd rs1 rs2 => Sys2Proof.Machine.execSll rd rs1 rs2 s
  | .slt rd rs1 rs2 => Sys2Proof.Machine.execSlt rd rs1 rs2 s
  | .sltn rd rs1 rs2 => Sys2Proof.Machine.execSltn rd rs1 rs2 s
  | .xor rd rs1 rs2 => Sys2Proof.Machine.execXor rd rs1 rs2 s
  | .srl rd rs1 rs2 => Sys2Proof.Machine.execSrl rd rs1 rs2 s
  | .sra rd rs1 rs2 => Sys2Proof.Machine.execSra rd rs1 rs2 s
  | .or rd rs1 rs2 => Sys2Proof.Machine.execOr rd rs1 rs2 s
  | .and rd rs1 rs2 => Sys2Proof.Machine.execAnd rd rs1 rs2 s
  | .addiw rd rs1 imm => Sys2Proof.Machine.execAddiw rd rs1 imm s
  | .slliw rd rs1 sh => Sys2Proof.Machine.execSlliw rd rs1 sh s
  | .srliw rd rs1 sh => Sys2Proof.Machine.execSrliw rd rs1 sh s
  | .sraiw rd rs1 sh => Sys2Proof.Machine.execSraiw rd rs1 sh s
  | .addw rd rs1 rs2 => Sys2Proof.Machine.execAddw rd rs1 rs2 s
  | .subw rd rs1 rs2 => Sys2Proof.Machine.execSubw rd rs1 rs2 s
  | .sllw rd rs1 rs2 => Sys2Proof.Machine.execSllw rd rs1 rs2 s
  | .srlw rd rs1 rs2 => Sys2Proof.Machine.execSrlw rd rs1 rs2 s
  | .sraw rd rs1 rs2 => Sys2Proof.Machine.execSraw rd rs1 rs2 s
  | .mul rd rs1 rs2 => Sys2Proof.Machine.execMul rd rs1 rs2 s
  | .mulh rd rs1 rs2 => Sys2Proof.Machine.execMulh rd rs1 rs2 s
  | .mulhsn rd rs1 rs2 => Sys2Proof.Machine.execMulhsn rd rs1 rs2 s
  | .mulhn rd rs1 rs2 => Sys2Proof.Machine.execMulhn rd rs1 rs2 s
  | .div rd rs1 rs2 => Sys2Proof.Machine.execDiv rd rs1 rs2 s
  | .divn rd rs1 rs2 => Sys2Proof.Machine.execDivn rd rs1 rs2 s
  | .rem rd rs1 rs2 => Sys2Proof.Machine.execRem rd rs1 rs2 s
  | .remn rd rs1 rs2 => Sys2Proof.Machine.execRemn rd rs1 rs2 s
  | .mulw rd rs1 rs2 => Sys2Proof.Machine.execMulw rd rs1 rs2 s
  | .divw rd rs1 rs2 => Sys2Proof.Machine.execDivw rd rs1 rs2 s
  | .divnw rd rs1 rs2 => Sys2Proof.Machine.execDivnw rd rs1 rs2 s
  | .remw rd rs1 rs2 => Sys2Proof.Machine.execRemw rd rs1 rs2 s
  | .remnw rd rs1 rs2 => Sys2Proof.Machine.execRemnw rd rs1 rs2 s
  | .beq rs1 rs2 imm => Sys2Proof.Machine.execBeq rs1 rs2 imm s
  | .bne rs1 rs2 imm => Sys2Proof.Machine.execBne rs1 rs2 imm s
  | .blt rs1 rs2 imm => Sys2Proof.Machine.execBlt rs1 rs2 imm s
  | .bge rs1 rs2 imm => Sys2Proof.Machine.execBge rs1 rs2 imm s
  | .bltn rs1 rs2 imm => Sys2Proof.Machine.execBltn rs1 rs2 imm s
  | .bgen rs1 rs2 imm => Sys2Proof.Machine.execBgen rs1 rs2 imm s
  | .jal rd imm => Sys2Proof.Machine.execJal rd imm s
  | .jalr rd rs1 imm => Sys2Proof.Machine.execJalr rd rs1 imm s
  | .lb rd rs1 imm => Sys2Proof.Machine.execLb rd rs1 imm s
  | .lh rd rs1 imm => Sys2Proof.Machine.execLh rd rs1 imm s
  | .lw rd rs1 imm => Sys2Proof.Machine.execLw rd rs1 imm s
  | .ld rd rs1 imm => Sys2Proof.Machine.execLd rd rs1 imm s
  | .lbn rd rs1 imm => Sys2Proof.Machine.execLbn rd rs1 imm s
  | .lhn rd rs1 imm => Sys2Proof.Machine.execLhn rd rs1 imm s
  | .lwn rd rs1 imm => Sys2Proof.Machine.execLwn rd rs1 imm s
  | .sb rs2 rs1 imm => Sys2Proof.Machine.execSb rs2 rs1 imm s
  | .sh rs2 rs1 imm => Sys2Proof.Machine.execSh rs2 rs1 imm s
  | .sw rs2 rs1 imm => Sys2Proof.Machine.execSw rs2 rs1 imm s
  | .sd rs2 rs1 imm => Sys2Proof.Machine.execSd rs2 rs1 imm s
  | .ldFe rd rs1 imm => Sys2Proof.Machine.execLdFe rd rs1 imm s
  | .ldFc rd rs1 imm => Sys2Proof.Machine.execLdFc rd rs1 imm s
  | .stEf rs2 rs1 imm => Sys2Proof.Machine.execStEf rs2 rs1 imm s
  | .stF rs2 rs1 imm => Sys2Proof.Machine.execStF rs2 rs1 imm s
  | .feSet rd rs1 imm => Sys2Proof.Machine.execFeSet rd rs1 imm s
  | .feClr rd rs1 imm => Sys2Proof.Machine.execFeClr rd rs1 imm s
  | .feTest rd rs1 imm => Sys2Proof.Machine.execFeTest rd rs1 imm s
  | .fence scope order => Sys2Proof.Machine.execFence scope order s
  | .cacheInv rs1 rs2 => Sys2Proof.Machine.execCacheInv rs1 rs2 s
  | .cacheWb rs1 rs2 => Sys2Proof.Machine.execCacheWb rs1 rs2 s
  | .stashMap rd rs1 rs2 => Sys2Proof.Machine.execStashMap rd rs1 rs2 s
  | .cpy rd rs1 rs2 rs3 scope => Sys2Proof.Machine.execCpy rd rs1 rs2 rs3 scope s
  | .cpy2d rd rs1 rs2 rs3 scope => Sys2Proof.Machine.execCpy2d rd rs1 rs2 rs3 scope s
  | .cpyFill rd rs1 rs2 rs3 scope => Sys2Proof.Machine.execCpyFill rd rs1 rs2 rs3 scope s
  | .strb xq rs1 => Sys2Proof.Machine.execStrb xq rs1 s
  | .strx xq => Sys2Proof.Machine.execStrx xq s
  | .strq rd rs1 => Sys2Proof.Machine.execStrq rd rs1 s
  | .amoAdd rd rs2 rs1 scope order size => Sys2Proof.Machine.execAmoAdd rd rs2 rs1 scope order size s
  | .amoAnd rd rs2 rs1 scope order size => Sys2Proof.Machine.execAmoAnd rd rs2 rs1 scope order size s
  | .amoOr rd rs2 rs1 scope order size => Sys2Proof.Machine.execAmoOr rd rs2 rs1 scope order size s
  | .amoXor rd rs2 rs1 scope order size => Sys2Proof.Machine.execAmoXor rd rs2 rs1 scope order size s
  | .amoMin rd rs2 rs1 scope order size => Sys2Proof.Machine.execAmoMin rd rs2 rs1 scope order size s
  | .amoMax rd rs2 rs1 scope order size => Sys2Proof.Machine.execAmoMax rd rs2 rs1 scope order size s
  | .amoMinn rd rs2 rs1 scope order size => Sys2Proof.Machine.execAmoMinn rd rs2 rs1 scope order size s
  | .amoMaxn rd rs2 rs1 scope order size => Sys2Proof.Machine.execAmoMaxn rd rs2 rs1 scope order size s
  | .amoSwap rd rs2 rs1 scope order size => Sys2Proof.Machine.execAmoSwap rd rs2 rs1 scope order size s
  | .amoCas rd rs2 rs1 scope order size => Sys2Proof.Machine.execAmoCas rd rs2 rs1 scope order size s
  | .amoCas2 rd rs2 rs1 scope order => Sys2Proof.Machine.execAmoCas2 rd rs2 rs1 scope order s
  | .ldAcq rd rs1 scope size => Sys2Proof.Machine.execLdAcq rd rs1 scope size s
  | .stRel rs2 rs1 scope size => Sys2Proof.Machine.execStRel rs2 rs1 scope size s
  | .callx rd rs1 => Sys2Proof.Machine.execCallx rd rs1 s
  | .spawn rd rs1 rs2 => Sys2Proof.Machine.execSpawn rd rs1 rs2 s
  | .callatCl rd rs1 rs2 => Sys2Proof.Machine.execCallatCl rd rs1 rs2 s
  | .callatAff rd rs1 rs2 => Sys2Proof.Machine.execCallatAff rd rs1 rs2 s
  | .callatLeast rd rs1 => Sys2Proof.Machine.execCallatLeast rd rs1 s
  | .callatNbCl rd rs1 rs2 => Sys2Proof.Machine.execCallatNbCl rd rs1 rs2 s
  | .callatNbAff rd rs1 rs2 => Sys2Proof.Machine.execCallatNbAff rd rs1 rs2 s
  | .callatNbLeast rd rs1 => Sys2Proof.Machine.execCallatNbLeast rd rs1 s
  | .reply rs1 rs2 => Sys2Proof.Machine.execReply rs1 rs2 s
  | .launch rd rs1 => Sys2Proof.Machine.execLaunch rd rs1 s
  | .bar rs1 => Sys2Proof.Machine.execBar rs1 s
  | .rep rs1 rs2 len stride => Sys2Proof.Machine.execRep rs1 rs2 len stride s
  | .repStop => Sys2Proof.Machine.execRepStop s
  | .halt => Sys2Proof.Machine.execHalt s
  | .yield => Sys2Proof.Machine.execYield s
  | .tret => Sys2Proof.Machine.execTret s
  | .brk => Sys2Proof.Machine.execBrk s
  | .sysrd rd n => Sys2Proof.Machine.execSysrd rd n s
  | .syswr rd n rs1 => Sys2Proof.Machine.execSyswr rd n rs1 s
  | .sysset rd n rs1 => Sys2Proof.Machine.execSysset rd n rs1 s
  | .sysclr rd n rs1 => Sys2Proof.Machine.execSysclr rd n rs1 s
  | .trap code => Sys2Proof.Machine.execTrap code s
  | .tlbInv rd rs1 rs2 rs3 => Sys2Proof.Machine.execTlbInv rd rs1 rs2 rs3 s
  | .tlbInvCtx rd rs1 => Sys2Proof.Machine.execTlbInvCtx rd rs1 s
  | .tlbInvAll rd => Sys2Proof.Machine.execTlbInvAll rd s
  | .codeRetire rd rs1 rs2 => Sys2Proof.Machine.execCodeRetire rd rs1 rs2 s
  | .vadd p => Sys2Proof.Machine.execVadd p s
  | .vsub p => Sys2Proof.Machine.execVsub p s
  | .vmul p => Sys2Proof.Machine.execVmul p s
  | .vmulh p => Sys2Proof.Machine.execVmulh p s
  | .vmin p => Sys2Proof.Machine.execVmin p s
  | .vmax p => Sys2Proof.Machine.execVmax p s
  | .vabs p => Sys2Proof.Machine.execVabs p s
  | .vneg p => Sys2Proof.Machine.execVneg p s
  | .vand p => Sys2Proof.Machine.execVand p s
  | .vor p => Sys2Proof.Machine.execVor p s
  | .vxor p => Sys2Proof.Machine.execVxor p s
  | .vshl p => Sys2Proof.Machine.execVshl p s
  | .vshr p => Sys2Proof.Machine.execVshr p s
  | .vsra p => Sys2Proof.Machine.execVsra p s
  | .vsel p => Sys2Proof.Machine.execVsel p s
  | .vcmp cond p => Sys2Proof.Machine.execVcmp cond p s
  | .vfadd p => Sys2Proof.Machine.execVfadd p s
  | .vfsub p => Sys2Proof.Machine.execVfsub p s
  | .vfmul p => Sys2Proof.Machine.execVfmul p s
  | .vfma p => Sys2Proof.Machine.execVfma p s
  | .vfms p => Sys2Proof.Machine.execVfms p s
  | .vfmin p => Sys2Proof.Machine.execVfmin p s
  | .vfmax p => Sys2Proof.Machine.execVfmax p s
  | .vcvt p => Sys2Proof.Machine.execVcvt p s
  | .vredAdd p => Sys2Proof.Machine.execVredAdd p s
  | .vredMin p => Sys2Proof.Machine.execVredMin p s
  | .vredMax p => Sys2Proof.Machine.execVredMax p s
  | .vfredAdd p => Sys2Proof.Machine.execVfredAdd p s
  | .vld p => Sys2Proof.Machine.execVld p s
  | .vst p => Sys2Proof.Machine.execVst p s
  | .vldx p => Sys2Proof.Machine.execVldx p s
  | .vstx p => Sys2Proof.Machine.execVstx p s
  | .vldBp p => Sys2Proof.Machine.execVldBp p s
  | .vstBp p => Sys2Proof.Machine.execVstBp p s
  | .vfcmp cond p => Sys2Proof.Machine.execVfcmp cond p s
  | .vperm p => Sys2Proof.Machine.execVperm p s
  | .vrot p => Sys2Proof.Machine.execVrot p s
  | .vshuf p => Sys2Proof.Machine.execVshuf p s
  | .vbcast p => Sys2Proof.Machine.execVbcast p s
  | .vslide p => Sys2Proof.Machine.execVslide p s
  | .vmvVx p => Sys2Proof.Machine.execVmvVx p s
  | .vmvXv p => Sys2Proof.Machine.execVmvXv p s
  | .vins p => Sys2Proof.Machine.execVins p s
  | .vext p => Sys2Proof.Machine.execVext p s
  | .vpack p => Sys2Proof.Machine.execVpack p s
  | .vunpack p => Sys2Proof.Machine.execVunpack p s
  | .vchn kd rs => Sys2Proof.Machine.execVchn kd rs s
  | .vx p => Sys2Proof.Machine.execVx p s
  | .kand kd ka kb => Sys2Proof.Machine.execKand kd ka kb s
  | .kor kd ka kb => Sys2Proof.Machine.execKor kd ka kb s
  | .knot kd ka => Sys2Proof.Machine.execKnot kd ka s
  | .kpop rd ka => Sys2Proof.Machine.execKpop rd ka s
  | .vexp2 p => Sys2Proof.Machine.execVexp2 p s
  | .vlog2 p => Sys2Proof.Machine.execVlog2 p s
  | .vrcp p => Sys2Proof.Machine.execVrcp p s
  | .vrsqrt p => Sys2Proof.Machine.execVrsqrt p s
  | .vsin p => Sys2Proof.Machine.execVsin p s
  | .vcos p => Sys2Proof.Machine.execVcos p s
  | .plyZero c => Sys2Proof.Machine.execPlyZero c s
  | .plyMma c => Sys2Proof.Machine.execPlyMma c s
  | .plyMmaMx c => Sys2Proof.Machine.execPlyMmaMx c s
  | .plyMmaBp c => Sys2Proof.Machine.execPlyMmaBp c s
  | .plyLdacc c => Sys2Proof.Machine.execPlyLdacc c s
  | .plyStacc c => Sys2Proof.Machine.execPlyStacc c s
  | .plyTr c => Sys2Proof.Machine.execPlyTr c s
  | .plySync c => Sys2Proof.Machine.execPlySync c s
  | .nbmGemv c => Sys2Proof.Machine.execNbmGemv c s
  | .nbmGemvBp c => Sys2Proof.Machine.execNbmGemvBp c s
  | .nbmSync c => Sys2Proof.Machine.execNbmSync c s
  | .nodeAdd n => Sys2Proof.Machine.execNodeAdd n s
  | .nodeSub n => Sys2Proof.Machine.execNodeSub n s
  | .nodeMul n => Sys2Proof.Machine.execNodeMul n s
  | .nodeMulh n => Sys2Proof.Machine.execNodeMulh n s
  | .nodeDiv n => Sys2Proof.Machine.execNodeDiv n s
  | .nodeAnd n => Sys2Proof.Machine.execNodeAnd n s
  | .nodeOr n => Sys2Proof.Machine.execNodeOr n s
  | .nodeXor n => Sys2Proof.Machine.execNodeXor n s
  | .nodeShl n => Sys2Proof.Machine.execNodeShl n s
  | .nodeShr n => Sys2Proof.Machine.execNodeShr n s
  | .nodeSra n => Sys2Proof.Machine.execNodeSra n s
  | .nodeCmp n => Sys2Proof.Machine.execNodeCmp n s
  | .nodeSel n => Sys2Proof.Machine.execNodeSel n s
  | .nodeMin n => Sys2Proof.Machine.execNodeMin n s
  | .nodeMax n => Sys2Proof.Machine.execNodeMax n s
  | .nodeFadd n => Sys2Proof.Machine.execNodeFadd n s
  | .nodeFmul n => Sys2Proof.Machine.execNodeFmul n s
  | .nodeFfma n => Sys2Proof.Machine.execNodeFfma n s
  | .nodeFcvt n => Sys2Proof.Machine.execNodeFcvt n s
  | .nodeFmin n => Sys2Proof.Machine.execNodeFmin n s
  | .nodeFmax n => Sys2Proof.Machine.execNodeFmax n s
  | .nodeDadd n => Sys2Proof.Machine.execNodeDadd n s
  | .nodeDmul n => Sys2Proof.Machine.execNodeDmul n s
  | .nodeDcmp n => Sys2Proof.Machine.execNodeDcmp n s
  | .nodeDtow n => Sys2Proof.Machine.execNodeDtow n s
  | .nodeWtod n => Sys2Proof.Machine.execNodeWtod n s
  | .nodeSteer n => Sys2Proof.Machine.execNodeSteer n s
  | .nodeMerge n => Sys2Proof.Machine.execNodeMerge n s
  | .nodeFan n => Sys2Proof.Machine.execNodeFan n s
  | .nodeGate n => Sys2Proof.Machine.execNodeGate n s
  | .nodeJoin n => Sys2Proof.Machine.execNodeJoin n s
  | .nodeIter n => Sys2Proof.Machine.execNodeIter n s
  | .nodeDrop n => Sys2Proof.Machine.execNodeDrop n s
  | .nodeWsplit n => Sys2Proof.Machine.execNodeWsplit n s
  | .nodeWjoin n => Sys2Proof.Machine.execNodeWjoin n s
  | .nodeAg n => Sys2Proof.Machine.execNodeAg n s
  | .nodeLdp n => Sys2Proof.Machine.execNodeLdp n s
  | .nodeStp n => Sys2Proof.Machine.execNodeStp n s
  | .nodeLdl n => Sys2Proof.Machine.execNodeLdl n s
  | .nodeAtom n => Sys2Proof.Machine.execNodeAtom n s
  | .nodeFence n => Sys2Proof.Machine.execNodeFence n s
  | .nodeAcc n => Sys2Proof.Machine.execNodeAcc n s
  | .nodeAccx n => Sys2Proof.Machine.execNodeAccx n s
  | .nodeArg n => Sys2Proof.Machine.execNodeArg n s
  | .nodeRet n => Sys2Proof.Machine.execNodeRet n s
  | .nodeCall n => Sys2Proof.Machine.execNodeCall n s
  | .nodeTail n => Sys2Proof.Machine.execNodeTail n s
  | .nodeHsend n => Sys2Proof.Machine.execNodeHsend n s
  | .nodeMark n => Sys2Proof.Machine.execNodeMark n s
  | .nodeEnd n => Sys2Proof.Machine.execNodeEnd n s
  | .nodeFlush n => Sys2Proof.Machine.execNodeFlush n s
  | .nodeReset n => Sys2Proof.Machine.execNodeReset n s
  | .nodeSwitch n => Sys2Proof.Machine.execNodeSwitch n s
  | .nodeConst n => Sys2Proof.Machine.execNodeConst n s
  | .repetitionIssue => Sys2Proof.Machine.execRepetitionIssue s
  | .sfuResult => Sys2Proof.Machine.execSfuResult s
  | .plySlotBoundary => Sys2Proof.Machine.execPlySlotBoundary s
  | .plyslotWrite => Sys2Proof.Machine.execPlyslotWrite s
  | .callCompletion => Sys2Proof.Machine.execCallCompletion s
  | .configurationSwitch => Sys2Proof.Machine.execConfigurationSwitch s
  | .portRewalk => Sys2Proof.Machine.execPortRewalk s
  | .regionDrain => Sys2Proof.Machine.execRegionDrain s
  | .hamperArrival => Sys2Proof.Machine.execHamperArrival s
  | .recordRetry => Sys2Proof.Machine.execRecordRetry s
  | .hamperReload => Sys2Proof.Machine.execHamperReload s
  | .recordDue => Sys2Proof.Machine.execRecordDue s
  | .dispatchDecision => Sys2Proof.Machine.execDispatchDecision s
  | .replyDelivery => Sys2Proof.Machine.execReplyDelivery s
  | .launchAccept => Sys2Proof.Machine.execLaunchAccept s
  | .hostRecordTake => Sys2Proof.Machine.execHostRecordTake s
  | .itinNodeDispatch => Sys2Proof.Machine.execItinNodeDispatch s
  | .itinNodeDone => Sys2Proof.Machine.execItinNodeDone s
  | .itinFixedFiring => Sys2Proof.Machine.execItinFixedFiring s
  | .quantumExpiry => Sys2Proof.Machine.execQuantumExpiry s
  | .csaInterval => Sys2Proof.Machine.execCsaInterval s
  | .copyEngineRun => Sys2Proof.Machine.execCopyEngineRun s
  | .tlbInvComplete => Sys2Proof.Machine.execTlbInvComplete s
  | .migrationBegin => Sys2Proof.Machine.execMigrationBegin s
  | .migrationCopy => Sys2Proof.Machine.execMigrationCopy s
  | .migrationInstall => Sys2Proof.Machine.execMigrationInstall s
  | .ramblerReadComplete => Sys2Proof.Machine.execRamblerReadComplete s
  | .ramblerWriteComplete => Sys2Proof.Machine.execRamblerWriteComplete s
  | .partySwapOut => Sys2Proof.Machine.execPartySwapOut s
  | .partySwapIn => Sys2Proof.Machine.execPartySwapIn s
  | .ctxcmdSave => Sys2Proof.Machine.execCtxcmdSave s
  | .saveComplete => Sys2Proof.Machine.execSaveComplete s
  | .ctxcmdResume => Sys2Proof.Machine.execCtxcmdResume s
  | .ctxcmdFreeze => Sys2Proof.Machine.execCtxcmdFreeze s
  | .ctxcmdReinject => Sys2Proof.Machine.execCtxcmdReinject s
  | .ctxcmdAbandon => Sys2Proof.Machine.execCtxcmdAbandon s
  | .biasFlipHost => Sys2Proof.Machine.execBiasFlipHost s
  | .biasFlipDevice => Sys2Proof.Machine.execBiasFlipDevice s
  | .cwbaseWrite => Sys2Proof.Machine.execCwbaseWrite s
  | .uportRead => Sys2Proof.Machine.execUportRead s
  | .platformRegisterWrite => Sys2Proof.Machine.execPlatformRegisterWrite s
  | .hostWindowAccess => Sys2Proof.Machine.execHostWindowAccess s
  | .hostSnoop => Sys2Proof.Machine.execHostSnoop s
  | .utsenRequest => Sys2Proof.Machine.execUtsenRequest s
  | .utsenPortUp => Sys2Proof.Machine.execUtsenPortUp s
  | .utsenPortDown => Sys2Proof.Machine.execUtsenPortDown s
  | .flitRetransmit => Sys2Proof.Machine.execFlitRetransmit s
  | .powerOnReset => Sys2Proof.Machine.execPowerOnReset s
  | .clusterPowerDown => Sys2Proof.Machine.execClusterPowerDown s
  | .mgmtGetCertificates => Sys2Proof.Machine.execMgmtGetCertificates s
  | .mgmtAttestation => Sys2Proof.Machine.execMgmtAttestation s
  | .mgmtSetDeviceNumber => Sys2Proof.Machine.execMgmtSetDeviceNumber s
  | .mgmtSetPowerLimit => Sys2Proof.Machine.execMgmtSetPowerLimit s
  | .mgmtReadSensors => Sys2Proof.Machine.execMgmtReadSensors s
  | .mgmtReadErrors => Sys2Proof.Machine.execMgmtReadErrors s
  | .mgmtReset => Sys2Proof.Machine.execMgmtReset s
  | .memoryAccessCompletion => Sys2Proof.Machine.execMemoryAccessCompletion s
  | .illegalEncoding => Sys2Proof.Machine.execIllegalEncoding s
  | .itineraryInstanceAbandon => Sys2Proof.Machine.execItineraryInstanceAbandon s
  | .hostLinkTraining => Sys2Proof.Machine.execHostLinkTraining s
  | .storagePortLinkDown => Sys2Proof.Machine.execStoragePortLinkDown s

end Sys2Proof.Machine
end

