-- ==== Sys2Proof/Machine/Perform.lean ====
section
/-! DEFINITION. The performance of one move: an issue slot of a thread, the firing of a node, a turn of a command, an event.
-/

namespace Sys2Proof.Machine
open Sys2Proof

/-- Runs the group whose parcels have been read (R77 to R79). -/
def State.runGroup (ps : List (BitVec 32)) (s : State) : Host.Outcome State Fault Refusal :=
  match decodeParcels ps with
  | none => exec .illegalEncoding s
  | some i => match groupPartner i ps with
    | none => exec i s
    | some p => .next (s.issuePair i p)

/-- One issue slot of the thread whose turn it is (R392): a later beat of a group, the halt of a thread that its context's save
or its party's swap stops, a slot of a repetition, or the group at pc. -/
def State.issueSlot (s : State) : Host.Outcome State Fault Refusal :=
  let t := s.thr
  if t.run ≠ .rotating then .next s
  else
    let s := s.onThr (fun t => { t with rot := t.rot + 1 })
    if 0 < t.beats then .next (s.onThr (fun t => { t with beats := t.beats - 1 }))
    else if s.mustStop t ∧ t.fresh then .next (s.onThr (fun t => { t with run := .swapped }))
    else if t.flying then .next s.flightGoes
    else if t.repeating then exec .repetitionIssue s
    else match s.fetchGroup with
      | .ok ps s => (s.fetched ps).runGroup ps
      | _ => .next s.fetchFailed

/-- The firing of the node whose turn it is, as its word decodes. -/
def State.fireNode (s : State) : Host.Outcome State Fault Refusal :=
  match ((s.region s.curNode.1).nodes[s.curNode.2.1]?).bind decodeNode with
  | some i => exec i s
  | none => .next s

/-- The turn of the head command of a queue, as its line decodes; one whose opcode is reserved ends with STATUS 0x01 (R226).
Log entry 56. -/
def State.runCommand (s : State) : Host.Outcome State Fault Refusal :=
  let (g, ctx, kind) := s.curCmd
  match (s.spindle g).head ctx kind with
  | none => .next s
  | some c => match decodeCommand kind c.line with
    | some i => exec i s
    | none => .next (s.cmdReserved g ctx kind c)

/-- One move. Log entries 4, 11. -/
def perform (m : Move) (s : State) : Host.Outcome State Fault Refusal :=
  match m with
  | .issue key => State.issueSlot { s with cur := key }
  | .fire rid node tag => State.fireNode { s with curNode := (rid, node, tag) }
  | .command g ctx kind => State.runCommand { s with curCmd := (g, ctx, kind) }
  | .event i a => exec i { s with ev := a }
  | .itins d => .next (s.itinsTurn d)
  | .rambler d => .next (s.ramblerTurn d)
  | .half n => .next (s.halfTurn n)
  | .whole => .next s.wholeTurn

/-! A machine that is to issue one given group (the host's probe). -/

/-- The device offset of the probe's bytes: past the context descriptors of a CTXTAB of 0. -/
def probeAt : Nat := 0x100000
/-- The first thread slot, at monitor level, with its pc at the probe's bytes, in its position. Log entry 10. -/
def State.probeThread (s : State) : Thread :=
  let t := s.thread 0
  { t with
    level := .monitor, pc := BitVec.ofNat 64 (s.own * 2 ^ 42 + probeAt), run := .rotating, grants := [], beats := 0, rep := {}
    resumed := false, flight := {} }
/-- Twelve bytes of instruction there. Log entry 10. -/
def State.probeBytes (w : Nat) (s : State) : State :=
  (s.wrBytes probeAt (toBytes 12 w)).unpoison probeAt 64
/-- The machine with those bytes and that thread, whose issue is the next move. A device that has no thread there gets the
monitor's boot thread, as boot would place it (R447). Log entry 10. -/
def State.hostProbe (w : Nat) (s : State) : State :=
  (fun (s : State) => (fun (t : State) => { t with
      agenda := [.issue 0], threads := t.threads.put 0 t.probeThread
      boot := { t.boot with done := true, booted := true, recovery := false } })
    ((s.probeBytes w).onSpindle 0 (fun p => { p with pos := p.pos.set 0 (some 0), ready := p.ready.filter (· != 0) })))
    (if (Tab.find 0 s.threads).isSome then s else s.bootThread probeAt)

end Sys2Proof.Machine
end

