-- ==== Sys2Proof/Machine/Step.lean ====
section
/-! DEFINITION. One step of the device: the next move of the ac, or, when none is left, the next ac. -/

namespace Sys2Proof.Machine
open Sys2Proof

/-- One step (log entry 4). -/
def step (s : State) : Host.Outcome State Fault Refusal :=
  match s.agenda with
  | [] => .next s.tick
  | m :: t => perform m { s with agenda := t }

/-- The device with a group's words, the first in the low bits of w, where its next step fetches (log entry 10). -/
def State.withFetchWord (s : State) (nbits w : Nat) : State := s.hostProbe (w % 2 ^ nbits)

end Sys2Proof.Machine
end

