-- ==== Sys2Proof/Safety.lean ====
section
/-! DEFINITION. What claims call a safe state and a safe run, and the terms they use: a group that is ready to issue, what it
leaves, and where its accesses land. -/

namespace Sys2Proof.Machine
open Sys2Proof

/-- Memory stands in its canonical form. -/
def State.memOk (s : State) : Prop := s.mem.wf = true

/-- A step that answers a next state: the model stops on no instruction. -/
def State.runs (s : State) : Prop := ∃ t, step s = .next t

/-! Groups. -/

/-- The group of the thread whose turn it is stands at its start: its parcels are read, no access of it has been translated, and no
answer that it holds stands for one to come (log entry 12). -/
structure State.AtStart (s : State) : Prop where
  fresh : s.thr.flight = { parcels := s.thr.flight.parcels }
  actual : s.probing = false

/-- The thread whose turn it is has the operands of its group at hand: the x registers `xs` that it reads and `xd` that it
writes are full (R19) and not bound to a strand (R29), no source is poisoned (R126), no special-function result is on its
way to a v register of `vs` (R174). -/
structure State.Ready (s : State) (xs xd : List Reg) (vs : List Nat) : Prop extends s.AtStart where
  rotating : s.thr.run = .rotating
  full : ∀ r ∈ xs ++ xd, s.thr.isEmpty r = false
  unbound : ∀ r ∈ xs ++ xd, s.thr.strand r = none
  clean : ∀ r ∈ xs, s.thr.isPoisoned r = false
  landed : ∀ q ∈ s.thr.sfu, q.vd.toNat ∉ vs

/-- The address after the group (R79). -/
def State.nextPc (s : State) : Word := s.thr.pc + s.thr.len

/-- The end of a group of a number of beats: its x results are written and the pc moves. The rest are the model's own
bookkeeping of the slot. -/
def State.finish (s : State) (ws : List (Reg × Word)) (pc : Word) (beats : Nat := 1) : State :=
  s.onThr (fun t => { (ws.foldl (fun t w => t.wx w.1 w.2) t) with pc := pc, grants := [], flight := {}, beats := beats - 1 })

/-- A group that traps: what the thread held of answers is dropped, and the trap is taken at the group (R80, R402). -/
def State.trapped (s : State) (c : Cause) : State :=
  (s.onThr (fun t => { t with grants := [], flight := {} })).takeTrap c s.thr.pc false

/-- All of a thread but its x registers, their poison marks, its pc, where it stands, and the model's own bookkeeping of the
slot. -/
def Thread.rest (t : Thread) : Thread :=
  { t with x := [], poison := 0, pc := 0, run := .ready, grants := [], flight := {}, rot := 0, beats := 0 }

/-- A group has completed: x registers hold what they held but for the results `ws`, the pc is `pc`, and every other register of
the thread is unchanged. -/
structure State.Did (s t : State) (ws : List (Reg × Word)) (pc : Word) : Prop where
  regs : ∀ r, t.thr.rx r = (ws.foldl (fun u w => u.wx w.1 w.2) s.thr).rx r
  pc : t.thr.pc = pc
  rest : t.thr.rest = s.thr.rest

/-- What a transfer to t comes to at a level (R118): the first check that fails traps, the entry's own check last. -/
def State.transfer (s : State) (lvl : Level) (t : Word) (own : Option Cause) (go : State) : State :=
  if fld t 63 57 ≠ 0 ∨ (lvl = .monitor ∧ fld t 63 52 ≠ 0) then s.trapped ⟨3, 1, 0xF3, false, t⟩
  else if lvl = .user ∧ tbit t 56 = true then s.trapped ⟨4, 1, 0xF3, false, t⟩
  else match own with
    | some c => s.trapped c
    | none => go

/-! Accesses. -/

/-- A plain access of n bytes by the thread whose turn it is passes its checks and lands at l; t is the state after its
translation. -/
def State.lands (s : State) (va : Word) (n : Nat) (k : AKind) (l : Loc) (t : State) : Prop :=
  s.resolve { va := va.toNat, n := n, al := n, k := k } = .ok l t
/-- An ordered or atomic access of n bytes passes its checks and lands on memory at device offset o. -/
def State.landsOrd (s : State) (va : Word) (n : Nat) (k : AKind) (o : Nat) (t : State) : Prop :=
  s.resolve (ordReq va.toNat n k) = .ok (.mem o) t
/-- A full/empty operation passes its checks and lands on the memory word at device offset o, on which nobody waits. -/
def State.landsFe (s : State) (va : Word) (k : AKind) (o : Nat) (t : State) : Prop :=
  s.thr.grants = [] ∧ s.resolve (feReq va.toNat k) = .ok (.mem o) t ∧ ∀ w ∈ (t.cluster (t.home o)).waits, w.addr ≠ o

/-- The n bytes of v stand at device offset o of t, and every other byte is that of s. -/
def State.Stored (s t : State) (o n : Nat) (v : Word) : Prop :=
  ∀ a, t.mem.read a = if o ≤ a ∧ a < o + n then v.extractLsb' (8 * (a - o)) 8 else s.mem.read a
/-- Every byte and every full/empty bit of t is that of s. -/
def State.SameMem (s t : State) : Prop := (∀ a, t.mem.read a = s.mem.read a) ∧ ∀ a, t.isFull a = s.isFull a

/-! Asynchronous operations and units. -/

/-- A group has started the asynchronous operation whose number was next: its token is empty until that completes (R18), x0
never (R17); no register value, memory byte or full/empty bit changes. -/
structure State.Awaits (s t : State) (rd : Reg) : Prop where
  pc : t.thr.pc = s.nextPc
  regs : ∀ r, t.thr.rx r = s.thr.rx r
  empty : ∀ r, t.thr.isEmpty r = (s.thr.isEmpty r || (r == rd && rd != 0))
  token : rd ≠ 0 → Tab.find rd.toNat t.thr.awaits = some (.op s.nextId)
  ops : t.thr.ops = s.thr.ops ++ [s.nextId]
  mem : s.SameMem t

/-- The group waits outside the rotation, to issue again: the thread keeps all else (R19, R80). -/
def State.Waits (s t : State) (run : Run) : Prop :=
  t.thr.run = run ∧ t.thr.pc = s.thr.pc ∧ (∀ r, t.thr.rx r = s.thr.rx r) ∧ t.thr.rest = s.thr.rest

/-- Accesses of the thread whose turn it is have made s' of s: they touch no register of it. -/
structure State.SameThread (s s' : State) : Prop where
  cur : s'.cur = s.cur
  x : s'.thr.x = s.thr.x
  poison : s'.thr.poison = s.thr.poison
  pc : s'.thr.pc = s.thr.pc
  run : s'.thr.run = .rotating ∨ s'.thr.run = .access
  rest : s'.thr.rest = s.thr.rest

/-- The command window of a kind that a context has on a Spindle. -/
def State.window (s : State) (g : Nat) (c : BitVec 12) (kind : Nat) : Option Word :=
  Tab.find (2 * c.toNat + kind) (s.spindle g).win
/-- The stash range of granule k of a Spindle. -/
def State.stashOf (s : State) (g k : Nat) : Option Word := ((s.spindle g).grans.getD k {}).stash

/-! Vector parcels. -/

/-- Element i of width w of the group of g v registers that starts at r (R22). -/
def Thread.el (t : Thread) (r : Reg) (g w i : Nat) : Nat := elem w (t.rvg r.toNat g) i
/-- Element i of the second source of a parcel: of vs2, or the scalar of S (R153). -/
def Thread.el2 (t : Thread) (p : VArgs) (w i : Nat) : Nat := if p.s then (t.rx p.vs2).toNat % 2 ^ w else t.el p.vs2 p.grp.n w i
/-- Whether element i of a parcel of n elements is active under its mask (R152). -/
def Thread.act (t : Thread) (mask : BitVec 3) (n i : Nat) : Bool := decide (64 < n) || (t.rk mask.toNat).getLsbD i
/-- The operands of a parcel of the common layout are at hand: its scalar, and its v registers, d of them at vd. -/
def State.VReady (s : State) (p : VArgs) (d : Nat) : Prop :=
  s.Ready (if p.s then [p.vs2] else []) []
    (vregs p.vs1 p.grp.n ++ (if p.s then [] else vregs p.vs2 p.grp.n) ++ vregs p.vd d)

/-- All of a thread but what `Thread.rest` leaves out, its v and k registers, its flags and its generators. -/
def Thread.vrest (t : Thread) : Thread := { t.rest with v := [], k := [], fflags := 0, rng := [] }
/-- A parcel has completed with no x result. -/
structure State.VNext (s t : State) : Prop where
  pc : t.thr.pc = s.nextPc
  regs : ∀ r, t.thr.rx r = s.thr.rx r
  rest : t.thr.vrest = s.thr.vrest
  cur : t.cur = s.cur
/-- The n registers at vd hold the elements `es` of width w, and every other v register and every k register is as before. -/
def State.Elems (s t : State) (vd : Reg) (n w : Nat) (es : Nat → Nat) : Prop :=
  (∀ i, i < 512 * n / w → t.thr.el vd n w i = es i) ∧
  (∀ q, q < vd.toNat ∨ vd.toNat + n ≤ q → t.thr.rv q = s.thr.rv q) ∧ ∀ k, t.thr.rk k = s.thr.rk k
/-- Flags and generators are as before. -/
def State.Quiet (s t : State) : Prop := t.thr.fflags = s.thr.fflags ∧ t.thr.rng = s.thr.rng
/-- A parcel has written the n registers at vd, and nothing else but the pc. -/
def State.VDid (s t : State) (vd : Reg) (n w : Nat) (es : Nat → Nat) : Prop :=
  s.VNext t ∧ s.Elems t vd n w es ∧ s.Quiet t ∧ s.SameMem t

/-! Matrix commands. -/

/-- A turn of the command at the head of a queue ends (R221, R239, R241): it is running, passed its checks, its operands lie in the
granules of its party, and a stripe of it reads no poisoned line (R343). -/
structure State.TurnEnds (s : State) (g ctx kind : Nat) (cmd : Cmd) : Prop where
  cur : s.curCmd = (g, ctx, kind)
  isCtx : ctx < 4096
  head : (s.spindle g).head ctx kind = some cmd
  running : cmd.st = .running
  sound : cmd.fail = none ∧ s.stripeBad cmd cmd.job = false
  ended : 0 < cmd.ends ∧ cmd.ends ≤ s.cycle
  legal : cmd.job.legal = true
  granules : (s.cmdGrans g cmd.party).Nodup

/-- The machine as the effect of that turn leaves it, before the command ends or goes on. -/
def State.turned (s : State) (g ctx kind : Nat) (cmd : Cmd) : State :=
  let e := s.cmdEffect g ctx cmd cmd.job
  e.2.onHead g ctx kind (fun x => { x with exc := cmd.exc ||| e.1, next := x.next + 1 })

/-- The head command of u has ended (R106, R219): its locks are gone, and where its completion word lies in memory and nobody waits
on it, the word holds its EXC and STATUS and is full, and the command has left its queue. -/
def State.CmdDone (u t : State) (g ctx kind : Nat) (cmd : Cmd) (status : Nat) (exc : Flags) : Prop :=
  (∀ l ∈ (t.cluster (g / 8)).locks, l.id ≠ cmd.id) ∧
  ∀ pa pte v o, (u.cmdStop g ctx kind status exc).translate (BitVec.ofNat 12 ctx) cmd.level (.cluster (g / 8))
      (cmd.line.getD 7 0).toNat 8 .store = (.ok pa pte, v) →
    v.locOf pa (pageOf cmd.level (cmd.line.getD 7 0).toNat pte) = .mem o → (∀ w ∈ (v.cluster (v.home o)).waits, w.addr ≠ o) →
    v.Stored t o 8 (BitVec.ofNat 64 (exc.toNat * 256 + status)) ∧ t.isFull o = true ∧
    (t.spindle g).queue.getD [] (ctx * 2 + kind) = headed (((u.spindle g).queue.getD [] (ctx * 2 + kind)).drop 1)

/-- Element (i, n) of a tile of a context in a Ply unit is `f i n`, and every other element of every unit is as before. -/
def State.Tile (s t : State) (g ctx tile : Nat) (f : Nat → Nat → Word) : Prop :=
  ∀ h c b i n, c < 4096 → b < 4 → i < 32 → n < 32 →
    t.acc h c b i n = if h = g ∧ c = ctx ∧ b = tile then f i n else s.acc h c b i n

/-- Every byte of every unified array is as before, but for n scratchpad bytes of a party's granules from offset o. -/
def State.UaBut (s t : State) (g : Nat) (gs : List Nat) (o n : Nat) : Prop :=
  ∀ h b, ¬(h = g ∧ ∃ a, o ≤ a ∧ a < o + n ∧ b = granAt gs a) → (t.spindle h).ua.getD 0 b = (s.spindle h).ua.getD 0 b

/-! Graph nodes. -/

/-- Whether a token stands at port p of the node and frame whose turn it is. -/
def State.mine (s : State) (p : Nat) (t : Tok) : Bool :=
  t.tag == s.tag && t.node.toNat == s.nodeIx && t.port.toNat == p

/-- The node whose turn it is may fire for its frame, on a tile that has not fired in the ac (R248), no control token waits at it
unless control is its class, and the frame does not end by this firing: a ret node beside this one has not fired (R277). -/
structure State.NodeTurn (s : State) (n : NodeWord) : Prop where
  may : s.nodeMay = true
  tile : s.reg.tileOf s.nodeIx ∉ s.reg.busy
  data : ∀ t ∈ s.reg.toks, t.tag = s.tag → t.node.toNat = s.nodeIx → t.cls ≠ 2 ∨ n.cls = 2
  goesOn : ∃ i ∈ s.reg.nodesOf 0x41, i ≠ s.nodeIx ∧ i ∉ s.frm.rets

/-- A consumer is absent (R95), or a data port of a placed node that takes the class (R100), of a configuration that the node whose turn
it is does not leave behind (R284); a control token is taken by any data port. -/
def State.Accepts (s : State) (cls : BitVec 2) (d : Nat × Nat) : Prop :=
  noConsumer d = true ∨ (s.reg.here d.1 = true ∧
    (s.reg.taken = [] ∨ s.reg.target ≠ some (s.reg.cfgOf s.nodeIx) ∨ s.reg.cfgOf d.1 ≠ s.reg.rpc) ∧ ∃ o m c, s.reg.node d.1 = some (o, m) ∧
    (dataPorts o m).find? (fun p => p.1 == d.2) = some (d.2, c) ∧ (cls = 2 ∨ c = cls.toNat))

/-- The tokens that payloads make at consumers, one consumer after another (R100, R249). -/
def State.sent (s : State) (cls : BitVec 2) (ps : List Word) (dsts : List (Nat × Nat)) : List Tok :=
  (dsts.filter (fun d => !noConsumer d)).flatMap (fun d => ps.map (fun p =>
    { pay := if cls = 2 then ctlClean p else p, cls := cls, port := BitVec.ofNat 2 d.2, node := BitVec.ofNat 8 d.1, tag := s.tag,
      src := s.nodeIx }))
/-- Consumers A and B. -/
def abOf (n : NodeWord) : List (Nat × Nat) := [(n.caNode.toNat, n.caPort.toNat), (n.cbNode.toNat, n.cbPort.toNat)]
/-- The tokens that are left when the listed numbers of tokens have gone from the head of ports. -/
def State.left (s : State) (takes : List (Nat × Nat)) : List Tok :=
  takes.foldl (fun l q => dropFirst (s.mine q.1) q.2 l) s.reg.toks
/-- The machine without those tokens, the firing counted. -/
def State.took (s : State) (takes : List (Nat × Nat)) : State :=
  takes.foldl (fun s q => s.pop q.1 q.2) (s.setCnt 0 (s.cnt 0 + 1))

/-- All of a frame but its node states, its counts, what it says of its turn, and what a cut or a ret moves. -/
def Frame.rest (f : Frame) : Frame :=
  { f with
    nst := [], counts := [], started := false, st := .live, quietAt := 0, rets := [], argsFired := [], startToks := [], status := 0
    results := [], calls := [], marks := 0, cut := 0, allot := 0, isCut := false, cutCounts := [], cutArgs := [], cutCalls := [] }
/-- All of a region but its tokens, its frames, its stores and marks, its target, its save area, and its caches of translations. -/
def Region.rest (r : Region) : Region :=
  { r with
    toks := [], frames := [], stores := [], withheld := [], mismatch := false, target := none, area := none, areaNext := 0
    inflight := 0, ranges := [], lastCtx := [], remote := [], failed := [], busy := [] }

/-- A node has fired for its frame: the tokens `takes` have gone from its ports and the tokens `out` have come to the region's
ports; its own state is `nst`, its counts `cnt`, and RSTAT.MISMATCH is set when `m`. No other frame, region or thread changes. -/
structure State.Fired (s t : State) (takes : List (Nat × Nat)) (out : List Tok) (nst : List Word) (cnt : Nat → Nat)
    (m : Bool := false) : Prop where
  toks : t.reg.toks = s.left takes ++ out
  own : t.nst = nst
  nodes : ∀ k, k ≠ s.nodeIx → Tab.find k t.frm.nst = Tab.find k s.frm.nst ∧ Tab.find k t.frm.counts = Tab.find k s.frm.counts
  counts : ∀ j, j < 6 → t.cnt j = cnt j
  frame : t.frm.rest = s.frm.rest
  region : t.reg.rest = s.reg.rest
  mismatch : t.reg.mismatch = (s.reg.mismatch || m)
  frames : ∀ k, k ≠ tagIdx s.tag → t.reg.frame k = s.reg.frame k
  regions : ∀ r, r ≠ s.rid → t.region r = s.region r
  threads : t.threads = s.threads
  turn : t.curNode = s.curNode

/-- A firing that touches no memory, buffered store, result, call or cut. -/
structure State.Pure (s t : State) : Prop where
  mem : s.SameMem t
  stores : t.reg.stores = s.reg.stores
  target : t.reg.target = s.reg.target
  args : t.frm.argsFired = s.frm.argsFired
  rets : t.frm.rets = s.frm.rets
  results : t.frm.results = s.frm.results ∧ t.frm.status = s.frm.status
  calls : t.frm.calls = s.frm.calls
  cut : t.frm.cut = s.frm.cut ∧ t.frm.marks = s.frm.marks

/-- The turn of a call or tail node with a pointer p, the second operand b of a call, and the argument stream `args` before it, its
END come (R279, R280): no token waits for a store, and no control token but an END stands at the node. -/
structure State.CallTurn (s : State) (p : Word) (args : List Word) : Prop where
  may : s.nodeMay = true
  tile : s.reg.tileOf s.nodeIx ∉ s.reg.busy
  ends : ∀ t ∈ s.reg.toks, t.tag = s.tag → t.node.toNat = s.nodeIx → t.cls = 2 → ctlCode t.pay = 1
  idle : s.atPort 3 = [] ∧ s.calling = false
  pointer : s.head 0 0 = .data [p]
  stream : s.argStream = some args
  few : args.length ≤ 8
  committed : s.reg.buffered s.tag = []

/-- The record of a call that goes to the cluster's Hamper (R123, R279, R383). -/
def State.callRecord (s : State) (p f : Word) (call : Nat) (w7 : Word) : HRecord :=
  { words := [f, p, 0, 0, 0, 0, BitVec.ofNat 64 (s.reg.ctxId.toNat * 2 ^ 52
      + min s.frm.cls (s.prioCeil s.reg.ctxId) * 2 ^ 39 + call * 2 ^ 21), w7],
    fmt := s.frm.fmt, sca := s.frm.sca, sender := 2 * s.rid + 1, fromRegion := true, counted := false, first := none, image := f }

end Sys2Proof.Machine
end

