-- ==== Sys2Proof/Certificates/Slice0/Obligations.lean ====
section
/-! DEFINITION. The statements for the provers, each after rules of spec/. -/

open Sys2Proof Sys2Proof.Machine

/-! Integer instructions. -/

/-- R115, R117: the immediate forms. A result to x0 is discarded (R17): `finish` writes it so. -/
def Obligations.ImmediateResults : Prop :=
  ∀ (s : State) (rd rs1 : Reg) (imm : Word) (sh6 : BitVec 6) (sh5 : BitVec 5),
    let x := s.thr.rx rs1
    let gives (i : Instr) (v : Word) : Prop := i.wf = true → exec i s = .next (s.finish [(rd, v)] s.nextPc)
    (s.Ready [] [rd] [] → gives (.lui rd imm) imm ∧ gives (.auipc rd imm) (s.thr.pc + imm)) ∧
    (s.Ready [rs1] [rd] [] →
      gives (.addi rd rs1 imm) (x + imm) ∧
      gives (.slti rd rs1 imm) (if x.toInt < imm.toInt then 1 else 0) ∧
      gives (.sltin rd rs1 imm) (if x.toNat < imm.toNat then 1 else 0) ∧
      gives (.xori rd rs1 imm) (x ^^^ imm) ∧
      gives (.ori rd rs1 imm) (x ||| imm) ∧
      gives (.andi rd rs1 imm) (x &&& imm) ∧
      gives (.slli rd rs1 sh6) (x <<< sh6) ∧
      gives (.srli rd rs1 sh6) (x >>> sh6) ∧
      gives (.srai rd rs1 sh6) (x.sshiftRight' sh6) ∧
      gives (.addiw rd rs1 imm) (((x + imm).setWidth 32).signExtend 64) ∧
      gives (.slliw rd rs1 sh5) ((x.setWidth 32 <<< sh5).signExtend 64) ∧
      gives (.srliw rd rs1 sh5) ((x.setWidth 32 >>> sh5).signExtend 64) ∧
      gives (.sraiw rd rs1 sh5) (((x.setWidth 32).sshiftRight' sh5).signExtend 64))

/-- R115: the register forms of addition, comparison, logic and shift. -/
def Obligations.RegisterResults : Prop :=
  ∀ (s : State) (rd rs1 rs2 : Reg), s.Ready [rs1, rs2] [rd] [] →
    let x := s.thr.rx rs1
    let y := s.thr.rx rs2
    let x' := x.setWidth 32
    let y' := y.setWidth 32
    let gives (i : Instr) (v : Word) : Prop := exec i s = .next (s.finish [(rd, v)] s.nextPc)
    gives (.add rd rs1 rs2) (x + y) ∧
    gives (.sub rd rs1 rs2) (x - y) ∧
    gives (.sll rd rs1 rs2) (x <<< y.setWidth 6) ∧
    gives (.slt rd rs1 rs2) (if x.toInt < y.toInt then 1 else 0) ∧
    gives (.sltn rd rs1 rs2) (if x.toNat < y.toNat then 1 else 0) ∧
    gives (.xor rd rs1 rs2) (x ^^^ y) ∧
    gives (.srl rd rs1 rs2) (x >>> y.setWidth 6) ∧
    gives (.sra rd rs1 rs2) (x.sshiftRight' (y.setWidth 6)) ∧
    gives (.or rd rs1 rs2) (x ||| y) ∧
    gives (.and rd rs1 rs2) (x &&& y) ∧
    gives (.addw rd rs1 rs2) ((x' + y').signExtend 64) ∧
    gives (.subw rd rs1 rs2) ((x' - y').signExtend 64) ∧
    gives (.sllw rd rs1 rs2) ((x' <<< y.setWidth 5).signExtend 64) ∧
    gives (.srlw rd rs1 rs2) ((x' >>> y.setWidth 5).signExtend 64) ∧
    gives (.sraw rd rs1 rs2) ((x'.sshiftRight' (y.setWidth 5)).signExtend 64)

/-- R115, R116: products, quotients and remainders, with the results of a division by zero. A signed quotient that overflows
wraps to the dividend, as `sdiv` and `srem` give it. -/
def Obligations.MulDivResults : Prop :=
  ∀ (s : State) (rd rs1 rs2 : Reg), s.Ready [rs1, rs2] [rd] [] →
    let x := s.thr.rx rs1
    let y := s.thr.rx rs2
    let x' := x.setWidth 32
    let y' := y.setWidth 32
    let gives (i : Instr) (v : Word) : Prop := exec i s = .next (s.finish [(rd, v)] s.nextPc)
    gives (.mul rd rs1 rs2) (x * y) ∧
    gives (.mulh rd rs1 rs2) ((x.signExtend 128 * y.signExtend 128).extractLsb' 64 64) ∧
    gives (.mulhsn rd rs1 rs2) ((x.signExtend 128 * y.setWidth 128).extractLsb' 64 64) ∧
    gives (.mulhn rd rs1 rs2) ((x.setWidth 128 * y.setWidth 128).extractLsb' 64 64) ∧
    gives (.div rd rs1 rs2) (if y = 0 then -1 else x.sdiv y) ∧
    gives (.divn rd rs1 rs2) (if y = 0 then -1 else x / y) ∧
    gives (.rem rd rs1 rs2) (if y = 0 then x else x.srem y) ∧
    gives (.remn rd rs1 rs2) (if y = 0 then x else x % y) ∧
    gives (.mulw rd rs1 rs2) ((x' * y').signExtend 64) ∧
    gives (.divw rd rs1 rs2) ((if y' = 0 then -1 else x'.sdiv y').signExtend 64) ∧
    gives (.divnw rd rs1 rs2) ((if y' = 0 then -1 else x' / y').signExtend 64) ∧
    gives (.remw rd rs1 rs2) ((if y' = 0 then x' else x'.srem y').signExtend 64) ∧
    gives (.remnw rd rs1 rs2) ((if y' = 0 then x' else x' % y').signExtend 64)

/-! Control transfers, traps and returns. -/

/-- R118, R119: a branch not taken goes on; one taken makes the checks of R118, then its own. R118, R120: jal and jalr link
next_pc and go to their targets. -/
def Obligations.BranchAndJumpResults : Prop :=
  (∀ (s : State) (rs1 rs2 : Reg) (imm : Word), s.Ready [rs1, rs2] [] [] →
     let x := s.thr.rx rs1
     let y := s.thr.rx rs2
     let t := s.thr.pc + imm
     let branches (i : Instr) (cond : Prop) : Prop := i.wf = true →
       (¬cond → exec i s = .next (s.finish [] s.nextPc)) ∧
       (cond → exec i s =
         .next (s.transfer s.thr.level t (if tbit t 1 then some ⟨2, 0, 0, false, t⟩ else none) (s.finish [] t)))
     branches (.beq rs1 rs2 imm) (x = y) ∧
     branches (.bne rs1 rs2 imm) (x ≠ y) ∧
     branches (.blt rs1 rs2 imm) (x.toInt < y.toInt) ∧
     branches (.bge rs1 rs2 imm) (y.toInt ≤ x.toInt) ∧
     branches (.bltn rs1 rs2 imm) (x.toNat < y.toNat) ∧
     branches (.bgen rs1 rs2 imm) (y.toNat ≤ x.toNat)) ∧
  (∀ (s : State) (rd rs1 : Reg) (imm : Word),
     (s.Ready [] [rd] [] → (Instr.jal rd imm).wf = true →
       let t := s.thr.pc + imm
       exec (.jal rd imm) s = .next (s.transfer s.thr.level t (if tbit t 1 then some ⟨2, 0, 0, false, t⟩ else none)
         (s.finish [(rd, s.nextPc)] t))) ∧
     (s.Ready [rs1] [rd] [] → (Instr.jalr rd rs1 imm).wf = true →
       let t := s.thr.rx rs1 + imm
       exec (.jalr rd rs1 imm) s = .next (s.transfer s.thr.level t (if fld t 1 0 ≠ 0 then some ⟨1, 0, 0, false, t⟩ else none)
         (s.finish [(rd, s.nextPc)] t))))

/-- R146: tret clears the active bit of the level it leaves (R402), enters the level saved and takes the pc saved, its low
bits cleared, when the checks of R118 pass at the new level; a reserved saved level is T-ILL. R144, R145: brk takes T-BREAK
at the group; trap completes its group and takes T-PRIV with SUB 0x80 and its code as INFO, from next_pc. -/
def Obligations.TrapsAndReturns : Prop :=
  decodeParcels [0x00200073] = some .tret ∧ decodeParcels [0x00300073] = some .brk ∧
  (∀ (s : State), s.Ready [] [] [] →
     let th := s.thr
     let go (new : Level) (t : Word) (f : Thread → Thread) : Prop := exec .tret s =
       .next (s.transfer new t none ((s.onThr (fun u => { f u with
         level := new, rep := { u.rep with susp := u.rep.susp - 1 } })).finish [] (t &&& ~~~3)))
     (th.level = .user → go .user th.uepc (fun u => { u with uact := false })) ∧
     (th.level = .supervisor →
       (th.sstatus.toNat % 4 = 0 → go .user th.sepc (fun u => { u with sstatus := u.sstatus &&& 3 })) ∧
       (th.sstatus.toNat % 4 = 1 → go .supervisor th.sepc (fun u => { u with sstatus := u.sstatus &&& 3 })) ∧
       (2 ≤ th.sstatus.toNat % 4 → exec .tret s = .next (s.trapped ⟨0, 0, 0, false, 0⟩))) ∧
     (th.level = .monitor →
       (th.mstatus.toNat % 4 = 0 → go .user th.mepc (fun u => { u with mstatus := u.mstatus &&& 3 })) ∧
       (th.mstatus.toNat % 4 = 1 → go .supervisor th.mepc (fun u => { u with mstatus := u.mstatus &&& 3 })) ∧
       (th.mstatus.toNat % 4 = 2 → exec .tret s = .next (s.trapped ⟨0, 0, 0, false, 0⟩)) ∧
       (th.mstatus.toNat % 4 = 3 → go .monitor th.mepc (fun u => { u with mstatus := u.mstatus &&& 3 })))) ∧
  (∀ (s : State) (code : BitVec 12), s.Ready [] [] [] →
     exec .brk s = .next (s.trapped ⟨11, 0, 0, false, 0⟩) ∧
     exec (.trap code) s = .next ((s.finish [] s.nextPc).takeTrap ⟨10, 0x80, code.toNat, false, 0⟩ s.nextPc true))

/-- R401: the level that takes a trap of class c, by delegation and by what handlers are active. R402: entry of a trap at a
level whose vector is in order, for a cause that leaves no record: the level's EPC, CAUSE and TVAL, its handler active with
the old level saved, the pc at the vector; no x, v or k register and no empty bit changes. R42: the fields of a cause
register. -/
def Obligations.TrapEntry : Prop :=
  (∀ (s : State) (t : Thread) (c : Nat), c < 16 →
     let m := s.mdeleg.getLsbD c
     let u := m && (s.desc t.ctx 6 &&& 0x920).getLsbD c && t.utvec != 0 && t.level == .user
     let uA := t.uact
     let sA := t.sstatus.getLsbD 2
     let mA := t.mstatus.getLsbD 2
     let mon : Option Level := if mA then none else some .monitor
     let sup : Option Level := if sA then mon else some .supervisor
     s.trapLevel t c false =
       (if t.level = .monitor then mon
        else if u then (if uA then sup else some .user)
        else if m then sup else mon)) ∧
  (∀ (s : State) (c : Cause) (epc : Word) (up : Bool) (h : Level), s.trapLevel s.thr c.cls up = some h →
     let v := match h with
       | .user => s.thr.utvec
       | .supervisor => s.stvec
       | .monitor => s.mtvec
     fld v 2 0 = 0 → v ≠ 0 → (c.replay = false ∨ h = .user) →
     let t := s.takeTrap c epc up
     t.thr.pc = v ∧ t.thr.level = h ∧
     (match h with
       | .user => t.thr.uepc = epc ∧ t.thr.ucause = c.word ∧ t.thr.utval = c.tval ∧ t.thr.uact = true
       | .supervisor => t.thr.sepc = epc ∧ t.thr.scause = c.word ∧ t.thr.stval = c.tval ∧
           t.thr.sstatus = 4 ||| BitVec.ofNat 3 s.thr.level.code
       | .monitor => t.thr.mepc = epc ∧ t.thr.mcause = c.word ∧ t.thr.mtval = c.tval ∧
           t.thr.mstatus = 4 ||| BitVec.ofNat 3 s.thr.level.code) ∧
     t.thr.x = s.thr.x ∧ t.thr.empty = s.thr.empty ∧ t.thr.v = s.thr.v ∧ t.thr.k = s.thr.k ∧ t.thr.poison = 0 ∧
     t.mem = s.mem ∧ ∀ k, k ≠ s.cur → t.thread k = s.thread k) ∧
  (∀ c : Cause, c.cls < 16 → c.sub < 256 → c.info < 2 ^ 32 →
     fld c.word 63 32 = c.info ∧ fld c.word 31 16 = 0 ∧ fld c.word 15 8 = c.sub ∧ fld c.word 7 5 = 0 ∧
     tbit c.word 4 = c.replay ∧ fld c.word 3 0 = c.cls)

/-! Operands. -/

/-- R19: a group that names an empty register, source or destination, does not issue: the thread leaves the rotation and
nothing else changes. For every T instruction whose operation is `op`. R126: a group that reads a poisoned register takes
T-CALLEE with the SUB and INFO of the frame status and the frame address as TVAL. -/
def Obligations.SourceChecks : Prop :=
  (∀ (s : State) (i : Instr) (op : TOp) (r : Reg), opT i = some op → op.wf = true →
     s.AtStart → s.thr.emptyOf (op.xs ++ op.xd) = some r →
     exec i s = .next (s.onThr (fun t => { t with run := .parked r }))) ∧
  (∀ (s : State) (i : Instr) (op : TOp), opT i = some op → op.wf = true →
     s.AtStart → s.thr.emptyOf (op.xs ++ op.xd) = none → (∀ q ∈ s.thr.sfu, q.vd.toNat ∉ op.vs) → s.emptyStrand op.xs = none →
     (∃ r ∈ op.xs, s.thr.isPoisoned r = true) →
     exec i s = .next (s.trapped
       ⟨13, fld s.thr.calleeStatus 23 16, fld s.thr.calleeStatus 63 32, false, s.thr.calleeF⟩))

/-- R17: x0 reads 0, a write to it is discarded; another register reads what was written, and no other changes. R3, R342:
memory is little-endian bytes; a byte reads as it was last written, others keep theirs; unlisted bytes read 0. -/
def Obligations.RegisterAndMemoryBytes : Prop :=
  (∀ (t : Thread) (r q : Reg) (v : Word),
     t.rx 0 = 0 ∧ t.wx 0 v = t ∧ t.isEmpty 0 = false ∧ (r ≠ 0 → (t.wx r v).rx r = v) ∧ (q ≠ r → (t.wx r v).rx q = t.rx q) ∧
     (10 ≤ r.toNat → r.toNat ≤ 13 → (t.wx r v).isPoisoned r = false)) ∧
  ((∀ (m : Memory) (a b : Nat) (v : Byte), (m.write a v).read a = v ∧ (b ≠ a → (m.write a v).read b = m.read b)) ∧
   (∀ (s : State) (a n v i : Nat), i < n → (s.wr a n v).mem.read (a + i) = BitVec.ofNat 8 (v / 256 ^ i)) ∧
   (∀ (s : State) (a n v b : Nat), b < a ∨ a + n ≤ b → (s.wr a n v).mem.read b = s.mem.read b) ∧
   (∀ (s : State) (a n v : Nat), (s.wr a n v).rd a n = v % 256 ^ n) ∧
   (∀ a, Memory.read [] a = 0))

/-! Memory. -/

/-- Every operation on memory keeps the canonical form, in which equal memories are equal data (the model's own form of
memory).
Where these rules leave a point open, what the model chose holds (log entry 51). -/
def Obligations.MemoryCanonical : Prop :=
  (∀ (m : Memory) (a : Nat) (v : Byte), m.wf = true → (m.write a v).wf = true) ∧
  (∀ (s : State) (a n v : Nat), s.memOk → (s.wr a n v).memOk) ∧
  (∀ (m m' : Memory), m.wf = true → m'.wf = true → (∀ a, m.read a = m'.read a) → m = m') ∧
  State.reset.memOk

/-- R183, R188: a load of each width from memory. -/
def Obligations.LoadResults : Prop :=
  ∀ (s s' : State) (rd rs1 : Reg) (imm : Word) (o : Nat), s.Ready [rs1] [rd] [] →
    let loads (i : Instr) (n : Nat) (f : Nat → Word) : Prop :=
      i.wf = true → s.lands (s.thr.rx rs1 + imm) n .load (.mem o) s' →
      ∃ t, exec i s = .next t ∧ s.Did t [(rd, f (s'.rd o n))] s.nextPc ∧ s'.SameMem t
    loads (.lb rd rs1 imm) 1 (fun v => (BitVec.ofNat 8 v).signExtend 64) ∧
    loads (.lh rd rs1 imm) 2 (fun v => (BitVec.ofNat 16 v).signExtend 64) ∧
    loads (.lw rd rs1 imm) 4 (fun v => (BitVec.ofNat 32 v).signExtend 64) ∧
    loads (.ld rd rs1 imm) 8 (fun v => BitVec.ofNat 64 v) ∧
    loads (.lbn rd rs1 imm) 1 (fun v => (BitVec.ofNat 8 v).setWidth 64) ∧
    loads (.lhn rd rs1 imm) 2 (fun v => (BitVec.ofNat 16 v).setWidth 64) ∧
    loads (.lwn rd rs1 imm) 4 (fun v => (BitVec.ofNat 32 v).setWidth 64)

/-- R183, R188: a store of each width to memory writes its bytes and no other. -/
def Obligations.StoreResults : Prop :=
  ∀ (s s' : State) (rs1 rs2 : Reg) (imm : Word) (o : Nat), s.Ready [rs1, rs2] [] [] →
    let stores (i : Instr) (n : Nat) : Prop := i.wf = true → s.lands (s.thr.rx rs1 + imm) n .store (.mem o) s' →
      ∃ t, exec i s = .next t ∧ s.Did t [] s.nextPc ∧ s'.Stored t o n (s.thr.rx rs2) ∧ ∀ a, t.isFull a = s.isFull a
    stores (.sb rs2 rs1 imm) 1 ∧ stores (.sh rs2 rs1 imm) 2 ∧ stores (.sw rs2 rs1 imm) 4 ∧ stores (.sd rs2 rs1 imm) 8

/-- R182, R188: a doubleword load and store in the scratchpad window read and write the unified array and not memory. R11,
R185: at monitor level an aligned access within the device's memory, on no poisoned line, under no range lock and in no window page
whose bias flip runs, lands at its physical address, and no translation changes state; R441: a load from a page whose flip runs is held. -/
def Obligations.ScratchpadAndMonitorAccess : Prop :=
  (∀ (s s' : State) (rd rs1 rs2 : Reg) (imm : Word) (g o : Nat),
     (s.Ready [rs1] [rd] [] → (Instr.ld rd rs1 imm).wf = true → s.lands (s.thr.rx rs1 + imm) 8 .load (.ua g o) s' →
       ∃ t, exec (.ld rd rs1 imm) s = .next t ∧ s.Did t [(rd, BitVec.ofNat 64 (ofBytes (s.uaRead g o 8)))] s.nextPc ∧
         s.SameMem t ∧ ∀ a, (t.spindle g).ua.getD 0 a = (s.spindle g).ua.getD 0 a) ∧
     (s.Ready [rs1, rs2] [] [] → (Instr.sd rs2 rs1 imm).wf = true → s.lands (s.thr.rx rs1 + imm) 8 .store (.ua g o) s' →
       ∃ t, exec (.sd rs2 rs1 imm) s = .next t ∧ s.Did t [] s.nextPc ∧ s.SameMem t ∧
         ∀ a, (t.spindle g).ua.getD 0 a =
           if o ≤ a ∧ a < o + 8 then (s.thr.rx rs2).extractLsb' (8 * (a - o)) 8 else (s.spindle g).ua.getD 0 a)) ∧
  (∀ (s : State) (va : Word) (n : Nat) (k : AKind) (o : Nat), s.thr.level = .monitor → fld va 63 52 = 0 →
     0 < n → va.toNat % n = 0 → s.place va.toNat = .mem o → s.isPoisoned o n = false → s.AtStart →
     (∀ x ∈ linesAt va.toNat n, ∀ l ∈ (s.cluster (ridOf s.cur)).locks, l.hits s.thr x k.writes = false) → s.flipHolds va.toNat = false →
     s.lands va n k (.mem o) s) ∧
  (∀ (s : State) (rd rs1 : Reg) (imm : Word) (o : Nat), s.Ready [rs1] [rd] [] → (Instr.ld rd rs1 imm).wf = true →
     let va := s.thr.rx rs1 + imm
     s.thr.level = .monitor → fld va 63 52 = 0 → va.toNat % 8 = 0 → s.place va.toNat = .mem o → s.isPoisoned o 8 = false →
     s.flipHolds va.toNat = true → ∃ t, exec (.ld rd rs1 imm) s = .next t ∧ s.Waits t (.page flipEntry) ∧ s.SameMem t ∧
       .thread s.cur s.thr.party ∈ t.flipWaits)

/-- R9 to R11, R185: the first checks of an access, in their order: T-PAGE for an address that is not canonical, T-PERM for the upper
half at user level, T-ALIGN for a misaligned one. A load that fails them traps. -/
def Obligations.AccessChecks : Prop :=
  ∀ (s : State) (rd rs1 : Reg) (imm : Word), s.Ready [rs1] [rd] [] → (Instr.ld rd rs1 imm).wf = true →
    let va := s.thr.rx rs1 + imm
    let bad := fld va 63 57 ≠ 0 ∨ (s.thr.level = .monitor ∧ fld va 63 52 ≠ 0)
    (bad → exec (.ld rd rs1 imm) s = .next (s.trapped ⟨3, 1, 0xF0, false, va⟩)) ∧
    (¬bad → s.thr.level = .user → tbit va 56 = true → exec (.ld rd rs1 imm) s = .next (s.trapped ⟨4, 1, 0xF0, false, va⟩)) ∧
    (¬bad → ¬(s.thr.level = .user ∧ tbit va 56 = true) → va.toNat % 8 ≠ 0 →
      exec (.ld rd rs1 imm) s = .next (s.trapped ⟨2, 0, 0, false, va⟩))

/-- R189, R190: full/empty operations on a word on which nobody waits: the value, and the word and its bit after. R190, R192:
ld.fe and ld.fc of an empty word, and st.ef of a full one, join the home slice's wait list and leave the rotation; with 1,024
entries there they take T-FEWAIT, replayable. -/
def Obligations.FullEmptyOperations : Prop :=
  (∀ (s s' : State) (rd rs1 rs2 : Reg) (imm : Word) (o : Nat), o % 8 = 0 →
     let va := s.thr.rx rs1 + imm
     let bits (t : State) (full : Bool) : Prop := t.isFull o = full ∧ ∀ a, a / 8 ≠ o / 8 → t.isFull a = s.isFull a
     let old : Word := if s.isFull o then 1 else 0
     (s.Ready [rs1] [rd] [] →
       ((Instr.ldFe rd rs1 imm).wf = true → s.landsFe va .load o s' → s.isFull o = true →
         ∃ t, exec (.ldFe rd rs1 imm) s = .next t ∧ s.Did t [(rd, s'.rd8 o)] s.nextPc ∧ s'.SameMem t) ∧
       ((Instr.ldFc rd rs1 imm).wf = true → s.landsFe va .rmw o s' → s.isFull o = true →
         ∃ t, exec (.ldFc rd rs1 imm) s = .next t ∧ s.Did t [(rd, s'.rd8 o)] s.nextPc ∧ t.mem = s'.mem ∧ bits t false) ∧
       ((Instr.feSet rd rs1 imm).wf = true → s.landsFe va .rmw o s' →
         ∃ t, exec (.feSet rd rs1 imm) s = .next t ∧ s.Did t [(rd, old)] s.nextPc ∧ t.mem = s'.mem ∧ bits t true) ∧
       ((Instr.feClr rd rs1 imm).wf = true → s.landsFe va .rmw o s' →
         ∃ t, exec (.feClr rd rs1 imm) s = .next t ∧ s.Did t [(rd, old)] s.nextPc ∧ t.mem = s'.mem ∧ bits t false) ∧
       ((Instr.feTest rd rs1 imm).wf = true → s.landsFe va .load o s' →
         ∃ t, exec (.feTest rd rs1 imm) s = .next t ∧ s.Did t [(rd, old)] s.nextPc ∧ s'.SameMem t)) ∧
     (s.Ready [rs1, rs2] [] [] →
       ((Instr.stEf rs2 rs1 imm).wf = true → s.landsFe va .rmw o s' → s.isFull o = false →
         ∃ t, exec (.stEf rs2 rs1 imm) s = .next t ∧ s.Did t [] s.nextPc ∧ s'.Stored t o 8 (s.thr.rx rs2) ∧ bits t true) ∧
       ((Instr.stF rs2 rs1 imm).wf = true → s.landsFe va .rmw o s' →
         ∃ t, exec (.stF rs2 rs1 imm) s = .next t ∧ s.Did t [] s.nextPc ∧ s'.Stored t o 8 (s.thr.rx rs2) ∧ bits t true))) ∧
  (∀ (s s' : State) (rd rs1 rs2 : Reg) (imm : Word) (o : Nat),
     let va := s.thr.rx rs1 + imm
     let ws := (s.cluster (s'.home o)).waits
     let waits (i : Instr) (op : FeOp) : Prop := i.wf = true →
       (ws.length < 1024 → ∃ t, exec i s = .next t ∧ t.thr.rest = s.thr.rest ∧ t.thr.run = .feWait s.nextId ∧
         (t.cluster (s'.home o)).waits = ws ++ [{ id := s.nextId, addr := o, op := op, key := some s.cur }] ∧ s'.SameMem t) ∧
       (1024 ≤ ws.length → exec i s = .next (s.trapped ⟨6, 0, 0, true, va⟩))
     s.thr.grants = [] →
     (s.Ready [rs1] [rd] [] → s.isFull o = false →
       (s.resolve (feReq va.toNat .load) = .ok (.mem o) s' → waits (.ldFe rd rs1 imm) .ldFe) ∧
       (s.resolve (feReq va.toNat .rmw) = .ok (.mem o) s' → waits (.ldFc rd rs1 imm) .ldFc)) ∧
     (s.Ready [rs1, rs2] [] [] → s.isFull o = true → s.resolve (feReq va.toNat .rmw) = .ok (.mem o) s' →
       waits (.stEf rs2 rs1 imm) (.stEf (s.thr.rx rs2))))

/-- R194, R195: an ordered load and store act as a load and a store, and a fence changes no register and no memory: one wider than
cluster scope takes the thread out of the rotation.
Where these rules leave a point open, what the model chose holds (log entry 4). -/
def Obligations.OrderedResults : Prop :=
  ∀ (s s' : State) (rd rs1 rs2 : Reg) (scope : BitVec 4) (order : BitVec 2) (size : Bool) (o : Nat),
    let n := if size then 8 else 4
    (s.Ready [rs1] [rd] [] → (Instr.ldAcq rd rs1 scope size).wf = true → s.landsOrd (s.thr.rx rs1) n .load o s' →
      ∃ t, exec (.ldAcq rd rs1 scope size) s = .next t ∧
        s.Did t [(rd, (BitVec.ofNat (8 * n) (s'.rd o n)).signExtend 64)] s.nextPc ∧ s'.SameMem t) ∧
    (s.Ready [rs1, rs2] [] [] → (Instr.stRel rs2 rs1 scope size).wf = true → s.landsOrd (s.thr.rx rs1) n .store o s' →
      ∃ t, exec (.stRel rs2 rs1 scope size) s = .next t ∧ s.Did t [] s.nextPc ∧ s'.Stored t o n (s.thr.rx rs2) ∧
        ∀ a, t.isFull a = s.isFull a) ∧
    (s.Ready [] [] [] → (Instr.fence scope order).wf = true →
      ∃ t, exec (.fence scope order) s = .next t ∧ s.Did t [] s.nextPc ∧ s.SameMem t ∧
        (t.thr.run = .access ↔ 2 < scope.toNat))

/-- R196, R197: an atomic returns the old word, sign-extended, and leaves the new one. -/
def Obligations.AtomicResults : Prop :=
  ∀ (s s' : State) (rd rs1 rs2 : Reg) (scope : BitVec 4) (order : BitVec 2) (size : Bool) (o : Nat),
    let n := if size then 8 else 4
    let old := BitVec.ofNat (8 * n) (s'.rd o n)
    let v := (s.thr.rx rs2).setWidth (8 * n)
    let e := (s.thr.rx rd).setWidth (8 * n)
    let atom (i : Instr) (new : BitVec (8 * n)) : Prop := i.wf = true → s.landsOrd (s.thr.rx rs1) n .rmw o s' →
      ∃ t, exec i s = .next t ∧ s.Did t [(rd, old.signExtend 64)] s.nextPc ∧ s'.Stored t o n (new.setWidth 64) ∧
        ∀ a, t.isFull a = s.isFull a
    (s.Ready [rs1, rs2] [rd] [] →
      atom (.amoAdd rd rs2 rs1 scope order size) (old + v) ∧
      atom (.amoAnd rd rs2 rs1 scope order size) (old &&& v) ∧
      atom (.amoOr rd rs2 rs1 scope order size) (old ||| v) ∧
      atom (.amoXor rd rs2 rs1 scope order size) (old ^^^ v) ∧
      atom (.amoMin rd rs2 rs1 scope order size) (if v.toInt < old.toInt then v else old) ∧
      atom (.amoMax rd rs2 rs1 scope order size) (if old.toInt < v.toInt then v else old) ∧
      atom (.amoMinn rd rs2 rs1 scope order size) (if v.toNat < old.toNat then v else old) ∧
      atom (.amoMaxn rd rs2 rs1 scope order size) (if old.toNat < v.toNat then v else old) ∧
      atom (.amoSwap rd rs2 rs1 scope order size) v) ∧
    (s.Ready [rs1, rs2, rd] [rd] [] →
      atom (.amoCas rd rs2 rs1 scope order size) (if old = e then v else old))

/-- R198: amo.cas2 compares and replaces two words at once, and returns both old words. -/
def Obligations.DoubleCompareAndSwap : Prop :=
  ∀ (s s' : State) (rd rs1 rs2 : Reg) (scope : BitVec 4) (order : BitVec 2) (o : Nat),
    s.Ready [rs1, rs2, rs2 + 1, rd, rd + 1] [rd, rd + 1] [] → (Instr.amoCas2 rd rs2 rs1 scope order).wf = true →
    s.landsOrd (s.thr.rx rs1) 16 .rmw o s' →
    let a := s'.rd8 o
    let b := s'.rd8 (o + 8)
    ∃ t, exec (.amoCas2 rd rs2 rs1 scope order) s = .next t ∧ s.Did t [(rd, a), (rd + 1, b)] s.nextPc ∧
      (a = s.thr.rx rd ∧ b = s.thr.rx (rd + 1) →
        t.rd8 o = s.thr.rx rs2 ∧ t.rd8 (o + 8) = s.thr.rx (rs2 + 1) ∧
        ∀ c, c < o ∨ o + 16 ≤ c → t.mem.read c = s'.mem.read c) ∧
      (¬(a = s.thr.rx rd ∧ b = s.thr.rx (rd + 1)) → s'.SameMem t)

/-! Caches, windows, copies. -/

/-- R211: cache control does nothing for no bytes, refuses more than 2^32, and for the rest leaves no cached copy, or no
dirty one, of a line of the range; it changes no value. At monitor level, where every page is present. R212: the six modes of
stash.map, with the value of rd and what is mapped after.
Where these rules leave a point open, what the model chose holds (log entries 24, 26). -/
def Obligations.CacheAndStashControl : Prop :=
  (∀ (s : State) (rs1 rs2 : Reg), s.Ready [rs1, rs2] [] [] →
     let lo := (s.thr.rx rs1).toNat
     let n := (s.thr.rx rs2).toNat
     let does (i : Instr) (line : State → Nat → Prop) : Prop :=
       (n = 0 → exec i s = .next (s.finish [] s.nextPc)) ∧
       (2 ^ 32 < n → exec i s = .next (s.trapped ⟨0, 0, 0, false, 0⟩)) ∧
       (0 < n → n ≤ 2 ^ 32 → s.thr.level = .monitor → lo + n ≤ 2 ^ 52 →
         ∃ t, exec i s = .next t ∧ s.Did t [] s.nextPc ∧ t.thr.run = .access ∧ s.SameMem t ∧
           ∀ a o, lo ≤ a → a < lo + n → s.place a = .mem o → line t (o / 64))
     does (.cacheInv rs1 rs2) (fun t l => Tab.find l t.dir = none ∧ Tab.find l t.stashed = none ∧ ∀ e ∈ t.l1, e.line ≠ l) ∧
     does (.cacheWb rs1 rs2) (fun t l => ∀ d, Tab.find l t.dir = some d → d.dirty = false)) ∧
  (∀ (s s' : State) (rd rs1 rs2 : Reg) (first cnt kind : Nat), s.Ready [rs1, rs2] [rd] [] → kind ≤ 1 →
     let a := s.thr.rx rs1
     let w := s.thr.rx rs2
     let g := gspOf s.cur
     let c := s.thr.ctx
     let own := s.ownGrans
     let sel := (own.drop first).take cnt
     let field := first * 2 ^ 12 + (cnt - 1) * 2 ^ 16
     let gives (v : Word) (p : State → Prop) : Prop :=
       ∃ t, exec (.stashMap rd rs1 rs2) s = .next t ∧ s.Did t [(rd, v)] s.nextPc ∧ p t
     let granules : Prop := first < 16 ∧ 1 ≤ cnt ∧ cnt ≤ 16 ∧ first + cnt ≤ own.length ∧ own.Nodup ∧
       ∀ k ∈ own, k < (s.spindle g).grans.length
     -- 0000 unmap stash
     (granules → w = BitVec.ofNat 64 field → a = 0 →
       gives (BitVec.ofNat 64 (sel.filter (fun k => (s.stashOf g k).isSome)).length) (fun t =>
         (∀ k, t.stashOf g k = if k ∈ sel then none else s.stashOf g k) ∧ s.SameMem t)) ∧
     -- 0001 map stash
     (granules → w = BitVec.ofNat 64 (1 + field) → s.thr.level ≠ .monitor → a.toNat % 16384 = 0 →
       (∀ k ∈ sel, s.stashOf g k = none) → s.stashOverlap g c a.toNat (16384 * cnt) = false →
       s.mapCheck a.toNat = .ok () s' → gives 0 (fun t => s'.SameMem t ∧
         (∀ i, i < cnt → t.stashOf g (own.getD (first + i) 0) = some (a + BitVec.ofNat 64 (16384 * i))) ∧
         ∀ k, k ∉ sel → t.stashOf g k = s.stashOf g k)) ∧
     -- 0010 and 0011 map a window
     (w = BitVec.ofNat 64 (2 + kind) → s.thr.level = .supervisor → tbit a 56 = true →
       exec (.stashMap rd rs1 rs2) s = .next (s.trapped ⟨0, 0, 0, false, 0⟩)) ∧
     (w = BitVec.ofNat 64 (2 + kind) → s.thr.level ≠ .monitor → a.toNat % 4096 = 0 → s.window g c (1 - kind) ≠ some a →
       (s.thr.level = .supervisor → tbit a 56 = false) → s.mapCheck a.toNat = .ok () s' →
       gives (if (s.window g c kind).isSome then 1 else 0) (fun t => s'.SameMem t ∧
         t.window g c kind = some ((s.window g c kind).getD a) ∧ t.window g c (1 - kind) = s.window g c (1 - kind))) ∧
     -- 0100 and 0101 unmap a window
     (w = BitVec.ofNat 64 (4 + kind) → a = 0 →
       gives (if (s.window g c kind).isSome then 0 else 1) (fun t => s.SameMem t ∧
         t.window g c kind = none ∧ t.window g c (1 - kind) = s.window g c (1 - kind))))

/-- R199 to R201, R205: a copy of nothing fills its token at once; one that passes its checks and finds room queues with its locks
and empties its token; without room its thread leaves the rotation.
Where these rules leave a point open, what the model chose holds (log entry 21). -/
def Obligations.CopyIssue : Prop :=
  ∀ (s : State) (rd rs1 rs2 rs3 : Reg) (scope : BitVec 2),
    let lvl := s.thr.level
    let cl := s.cluster (ridOf s.cur)
    let dst := s.thr.rx rs1
    let src := s.thr.rx rs2
    let n := (s.thr.rx rs3).toNat
    let passes (sp : Span) : Prop := canonCheck lvl (ofInt 64 sp.lo) 0 = none ∧ canonCheck lvl (ofInt 64 sp.hi) 0 = none
    let starts (i : Instr) (c : Copy) (sps : List (Span × Bool)) : Prop :=
      (cl.copies.length < 64 → cl.locks.length + sps.length ≤ 128 →
        ∃ t, exec i s = .next t ∧ s.Awaits t rd ∧
          (t.cluster (ridOf s.cur)).copies = cl.copies ++ [{ c with id := s.nextId }] ∧
          (t.cluster (ridOf s.cur)).locks = cl.locks ++ sps.map (fun p => s.copyLock s.nextId p.1 p.2)) ∧
      (64 ≤ cl.copies.length ∨ 128 < cl.locks.length + sps.length →
        ∃ t, exec i s = .next t ∧ s.Waits t (.room .copies) ∧ s.SameMem t)
    (s.Ready [rs1, rs2, rs3] [rd] [] →
      (n = 0 → exec (.cpy rd rs1 rs2 rs3 scope) s = .next (s.finish [(rd, 0)] s.nextPc)) ∧
      (0 < n → n < 2 ^ 32 →
        let d : Span := ⟨dst.toNat, dst.toNat + n - 1⟩
        let r : Span := ⟨src.toNat, src.toNat + n - 1⟩
        passes d → passes r → dst.toNat + n ≤ src.toNat ∨ src.toNat + n ≤ dst.toNat →
        starts (.cpy rd rs1 rs2 rs3 scope) (s.copyOf dst src n .flat scope) [(d, true), (r, false)]) ∧
      (n = 0 → dst.toNat % 8 = 0 → exec (.cpyFill rd rs1 rs2 rs3 scope) s = .next (s.finish [(rd, 0)] s.nextPc)) ∧
      (0 < n → n ≤ 2 ^ 32 - 8 → n % 8 = 0 → dst.toNat % 8 = 0 →
        let d : Span := ⟨dst.toNat, dst.toNat + n - 1⟩
        passes d → starts (.cpyFill rd rs1 rs2 rs3 scope) (s.copyOf dst 0 n (.fill src) scope) [(d, true)])) ∧
    (s.Ready [rs1, rs2, rs3, rs3 + 1] [rd] [] → rs3 ≠ 0 → rs3.toNat % 2 = 0 →
      let h := fld (s.thr.rx rs3) 15 0
      let b := fld (s.thr.rx rs3) 39 16
      let ds := toSigned 32 (fld (s.thr.rx (rs3 + 1)) 31 0)
      let ss := toSigned 32 (fld (s.thr.rx (rs3 + 1)) 63 32)
      fld (s.thr.rx rs3) 63 40 = 0 →
      (h * b = 0 → exec (.cpy2d rd rs1 rs2 rs3 scope) s = .next (s.finish [(rd, 0)] s.nextPc)) ∧
      (0 < h * b → h * b < 2 ^ 32 → passes (rowSpan dst h b ds) → passes (rowSpan src h b ss) →
        (rowSpan src h b ss).meets (rowSpan dst h b ds) = false →
        starts (.cpy2d rd rs1 rs2 rs3 scope) (s.copyOf dst src (h * b) (.rect h b ds ss) scope)
          [(rowSpan dst h b ds, true), (rowSpan src h b ss, false)]))

/-! Strands. -/

/-- R207: strb binds a register to a well-formed descriptor, strx unbinds one, strq reads the counts. R29, R208, R210: a
group with a bound source pops an element, one with a bound destination pushes its result, and one whose strand is empty
parks on the descriptor's home. On a descriptor at b and a ring in memory, at monitor level, with no overflow elements and no other
group in flight there: the element, HEAD and TAIL; no other byte changes.
Where these rules leave a point open, what the model chose holds (log entry 27). -/
def Obligations.StrandBindingAndOrder : Prop :=
  (∀ (s s' : State) (xq rd rs1 : Reg) (b : Nat), 24 ≤ xq.toNat →
     let d := s.thr.rx rs1
     let w (i : Nat) : Word := s'.rd8 (b + 8 * i)
     let reads : Prop := s.resolve (descReq d .load) = .ok (.mem b) s'
     let good : Prop := descBad (s'.rdWords b 8) = false
     (s.Ready [rs1] [xq] [] → reads → good →
       ∃ t, exec (.strb xq rs1) s = .next t ∧ t.thr.strand xq = some d ∧ t.thr.pc = s.nextPc ∧ s'.SameMem t ∧
         ∀ r, r ≠ xq → t.thr.strand r = s.thr.strand r ∧ t.thr.rx r = s.thr.rx r) ∧
     (s.Ready [rs1] [xq] [] → reads → ¬good → exec (.strb xq rs1) s = .next (s.trapped ⟨7, 2, 0, false, 0⟩)) ∧
     (s.Ready [rs1] [] [] → reads → s.thr.strand xq ≠ none →
       exec (.strb xq rs1) s = .next (s.trapped ⟨7, 1, 0, false, 0⟩)) ∧
     (s.Ready [] [] [] → s.thr.strand xq ≠ none →
       ∃ t, exec (.strx xq) s = .next t ∧ t.thr.strand xq = none ∧ t.thr.rx xq = 0 ∧ t.thr.isEmpty xq = false ∧
         t.thr.pc = s.nextPc ∧ t.mem = s.mem ∧ ∀ r, r ≠ xq → t.thr.strand r = s.thr.strand r ∧ t.thr.rx r = s.thr.rx r) ∧
     (s.Ready [] [xq] [] → exec (.strx xq) s = .next (s.finish [] s.nextPc)) ∧
     (s.Ready [rs1] [rd] [] → reads →
       ∃ t, exec (.strq rd rs1) s = .next t ∧ s'.SameMem t ∧
         s.Did t [(rd, BitVec.ofNat 64 (fld (w 6) 63 32 * 2 ^ 32 + (w 3 - w 2).toNat % 2 ^ 32))] s.nextPc)) ∧
  (∀ (s : State) (xq rd rs1 : Reg) (d : Word) (b o : Nat), s.thr.level = .monitor → s.ocount b = 0 → s.thr.strand xq = some d →
     s.strandBusy b = false → s.strandClaimed b = false → s.strandRoom b = 0 → s.resolve (descReq d .rmw) = .ok (.mem b) s →
     let head := s.rd8 (b + 16)
     let tail := s.rd8 (b + 24)
     let cap := 2 ^ fld (s.rd8 (b + 8)) 4 0
     let at_ (i : Word) : Nat := ((s.rd8 b).toNat + 8 * (i.toNat % cap)) % 2 ^ 64
     let ws := (s.cluster (s.home b)).waits
     (s.Ready [] [rd] [] → s.thr.grants = [] → s.thr.popped = [] →
       (head ≠ tail → s.resolve (strandReq (at_ head) .load) = .ok (.mem o) s →
         ∃ t, exec (.addi rd xq 0) s = .next t ∧ s.Did t [(rd, s.rd8 o)] s.nextPc ∧ t.rd8 (b + 16) = head + 1 ∧
           ∀ a, a < b + 16 ∨ b + 24 ≤ a → t.mem.read a = s.mem.read a) ∧
       (head = tail → ws.length < 1024 →
         ∃ t, exec (.addi rd xq 0) s = .next t ∧ s.Waits t (.strandWait d) ∧ s.SameMem t ∧
           (t.cluster (s.home b)).waits = ws ++ [{ id := s.nextId, addr := b, op := .pop, key := some s.cur }]) ∧
       (head = tail → 1024 ≤ ws.length → exec (.addi rd xq 0) s = .next (s.trapped ⟨6, 1, 0, true, d⟩))) ∧
     (s.Ready [rs1] [] [] → (tail - head).toNat < cap → s.resolve (strandReq (at_ tail) .store) = .ok (.mem o) s →
       (o + 8 ≤ b ∨ b + 64 ≤ o) → (∀ w ∈ ws, w.addr ≠ b) →
       ∃ t, exec (.addi xq rs1 0) s = .next t ∧ s.Did t [] s.nextPc ∧ t.rd8 o = s.thr.rx rs1 ∧ t.rd8 (b + 24) = tail + 1 ∧
         ∀ a, (a < o ∨ o + 8 ≤ a) → (a < b + 24 ∨ b + 32 ≤ a) → t.mem.read a = s.mem.read a))


/-! Work creation. -/

/-- R118, R121, R122: callx to a T function links and goes to it, by the pointer or by the linkage cell that it names; a bad tag
traps; a call across to G writes the activation frame, empties a0 to a3 and goes on, and unless the region takes it the call
leaves as a record to the cluster's Hamper (R123).
Where these rules leave a point open, what the model chose holds (log entries 6, 28). -/
def Obligations.CallxResults : Prop :=
  ∀ (s s' : State) (rd rs1 : Reg) (o : Nat), (Instr.callx rd rs1).wf = true →
    s.Ready [rs1, 10, 11, 12, 13, 14, 15, 16, 17] [rd] [] →
    let p := s.thr.rx rs1
    let lvl := s.thr.level
    let call := exec (.callx rd rs1) s
    let cell := p &&& ~~~7
    let rid := ridOf s.cur
    let f := s.thr.rx 2
    let frame : List Word := [s.nextPc, s.thr.rx 8, 0xF, 0] ++ [10, 11, 12, 13, 14, 15, 16, 17].map s.thr.rx ++ [0, 0, 0, 0]
    (fld p 2 0 = 0 → call = .next (s.transfer lvl p none (s.finish [(rd, s.nextPc)] p))) ∧
    (tbit p 2 = true ∨ fld p 1 0 = 3 → call = .next (s.trapped ⟨1, 0, 0, false, p⟩)) ∧
    (fld p 2 0 = 2 → s.lands cell 8 .load (.mem o) s' →
      let q := s'.rd8 o
      (tbit q 2 = true ∨ 2 ≤ fld q 1 0 → call = .next (s.trapped ⟨1, 0, 0, false, cell⟩)) ∧
      (fld q 2 0 = 0 → targetCheck lvl q = none →
        ∃ t, call = .next t ∧ s.Did t [(rd, s.nextPc)] q ∧ s'.SameMem t)) ∧
    (fld p 2 0 = 1 → targetCheck lvl cell = none →
      (fld p 5 3 ≠ 0 → call = .next (s.trapped ⟨1, 0, 0, false, p⟩)) ∧
      (fld p 5 3 = 0 → s.feature s.thr.ctx 0 = true → s.thr.emptyOf [2, 8] = none → fld f 5 0 = 0 →
        s.storeWords f.toNat frame = .ok () s' → s.SameThread s' →
        let moved (t : State) : Prop := t.thr.pc = s.nextPc ∧
          (∀ r, t.thr.rx r = if r = rd ∧ r ≠ 0 then s.nextPc else s.thr.rx r) ∧
          (∀ r, t.thr.isEmpty r = (s.thr.isEmpty r || (10 ≤ r.toNat && r.toNat ≤ 13)))
        ((s'.region rid).holds s.thr.ctx cell = false ∨ (s'.cluster rid).reserved ≠ none →
          ∃ t, call = .next t ∧ moved t ∧ s'.SameMem t ∧
            (t.cluster rid).arrivals = (s'.cluster rid).arrivals ++ [{
              words := s'.callWords s.thr.ctx f p s.thr.cls 1 (replyTarget 0 s.cur 10 false), fmt := s.thr.fmt,
              sca := [s.thr.sca0, s.thr.sca1, s.thr.sca2, s.thr.sca3], sender := threadSender s.thr,
              fromRegion := false, counted := false, first := none, image := f }]) ∧
        (∀ k, (s'.region rid).holds s.thr.ctx cell = true → (s'.cluster rid).reserved = none →
          (s'.region rid).freeTag = some k → (s'.region rid).nodesOf 0x41 ≠ [] → ∃ t, call = .next t ∧ moved t ∧ s'.SameMem t ∧
            ((t.region rid).frame k).st = .live ∧ ((t.region rid).frame k).f = some f)))

/-- R128, R129: spawn starts a thread in the first candidate Spindle that can take it, else calls the function inline.
Where these rules leave a point open, what the model chose holds (log entries 6, 28). -/
def Obligations.SpawnResults : Prop :=
  ∀ (s : State) (rd rs1 rs2 : Reg), (Instr.spawn rd rs1 rs2).wf = true → s.Ready [rs1, rs2, 10, 11, 12, 13, 3] [rd] [] →
    let p := s.thr.rx rs1
    let w := s.thr.rx rs2
    let cand := if tbit w 10 then (upto 8).map (8 * ridOf s.cur + ·) else [fld w 9 0]
    let takes (g : Nat) : Bool := s.present (g / 8) && s.freeSlots g != [] && s.mayServe g s.thr.ctx
    fld p 2 0 = 0 → targetCheck s.thr.level p = none → fld w 63 11 = 0 →
    (∀ g, cand.find? takes = some g →
      ∃ t key, exec (.spawn rd rs1 rs2) s = .next t ∧ s.Did t [(rd, 1)] s.nextPc ∧ s.SameMem t ∧
        gspOf key = g ∧ Tab.find key s.threads = none ∧ key ≠ s.cur ∧
        let c := t.thread key
        c.pc = p ∧ c.run = .ready ∧ c.level = s.thr.level ∧ c.ctx = s.thr.ctx ∧ c.cls = s.thr.cls ∧ c.fmt = s.thr.fmt ∧
        c.sca0 = s.thr.sca0 ∧ c.sca1 = s.thr.sca1 ∧ c.sca2 = s.thr.sca2 ∧ c.sca3 = s.thr.sca3 ∧
        c.launch = s.thr.launch ∧ c.nidx = s.thr.nidx ∧ c.empty = 0 ∧ c.v = [] ∧ c.k = [] ∧
        (∀ r : Reg, c.rx r = if (10 ≤ r.toNat ∧ r.toNat ≤ 13) ∨ r = 3 then s.thr.rx r else 0) ∧
        ∀ k, k ≠ s.cur → k ≠ key → t.thread k = s.thread k) ∧
    (cand.find? takes = none → s.Ready [] [1] [] →
      exec (.spawn rd rs1 rs2) s = .next (s.finish [(rd, 0), (1, s.nextPc)] p))

/-- R130 to R134: the six forms of callat send the record to their Hamper with word 6 and word 7 as the device writes them,
and await a reply or answer 0; with two records in flight callat waits and callat.nb answers 1. `w` is the image as its load
gives it, and s'' the state after the image and the target have been read. R135 to R137: reply sends its value on its way,
counted as in flight, or does nothing when no reply was requested; launch takes the answer of the die's queue, and without it
leaves the rotation for it.
Where these rules leave a point open, what the model chose holds (log entry 29). -/
def Obligations.RemoteCalls : Prop :=
  (∀ (s s' s'' : State) (rd rs1 rs2 : Reg) (w : List Word) (h : Nat),
     let a := s.thr.rx rs1
     let th := s.thr
     let cls := min (fld (w.getD 6 0) 41 39) (s''.prioCeil th.ctx)
     let word6 := BitVec.ofNat 64 (th.ctx.toNat * 2 ^ 52 + fld (w.getD 6 0) 51 42 * 2 ^ 42 + cls * 2 ^ 39
       + fld (w.getD 6 0) 38 23 * 2 ^ 23)
     let gen := th.replygen + 1
     let asks := BitVec.ofNat 64 (gen.toNat * 2 ^ 48 + gspOf s.cur * 2 ^ 30 + slotOf s.cur * 2 ^ 26 + rd.toNat * 2 ^ 21 + 1)
     let sent (t : State) (w7 : Word) : Prop :=
       (t.cluster h).arrivals = (s''.cluster h).arrivals ++ [{
         words := w.take 6 ++ [word6, w7], fmt := th.fmt, sca := [th.sca0, th.sca1, th.sca2, th.sca3],
         sender := threadSender th, fromRegion := false, counted := true, first := none, image := a }] ∧
       t.thr.inflight = th.inflight + 1 ∧ t.thr.pc = s.nextPc ∧ s''.SameMem t
     let read : Prop := fld a 5 0 = 0 ∧ s.loadWords a.toNat 8 = .ok w s' ∧ recordCheck w = none ∧ s.SameThread s' ∧ s.SameThread s''
     let forms (call nb : Instr) : Prop :=
       (th.inflight < 2 → rd ≠ 0 → ∃ t, exec call s = .next t ∧ sent t asks ∧ t.thr.replygen = gen ∧
         (∀ r, t.thr.rx r = th.rx r) ∧ (∀ r, t.thr.isEmpty r = (th.isEmpty r || r == rd)) ∧
         Tab.find rd.toNat t.thr.awaits = some (.reply s.cur gen)) ∧
       (th.inflight < 2 → rd = 0 → ∃ t, exec call s = .next t ∧ sent t 0 ∧ ∀ r, t.thr.rx r = th.rx r) ∧
       (th.inflight < 2 → ∃ t, exec nb s = .next t ∧ sent t 0 ∧ t.thr.replygen = th.replygen ∧
         ∀ r, t.thr.rx r = if r = rd then 0 else th.rx r) ∧
       (2 ≤ th.inflight → (∃ t, exec call s = .next t ∧ s.Waits t (.room .records) ∧ s.SameMem t) ∧
         ∃ t, exec nb s = .next t ∧ s.Did t [(rd, 1)] s.nextPc ∧ s''.SameMem t)
     read →
     (s.Ready [rs1, rs2] [rd] [] → fld (th.rx rs2) 63 7 = 0 → s'.present (th.rx rs2).toNat = true → h = (th.rx rs2).toNat →
       s'' = s' →
       forms (.callatCl rd rs1 rs2) (.callatNbCl rd rs1 rs2)) ∧
     (s.Ready [rs1, rs2] [rd] [] → s'.affTarget (th.rx rs2) = .ok h s'' →
       forms (.callatAff rd rs1 rs2) (.callatNbAff rd rs1 rs2)) ∧
     (s.Ready [rs1] [rd] [] → h = s'.least (dieOf (ridOf s.cur)) → s'' = s' → forms (.callatLeast rd rs1) (.callatNbLeast rd rs1))) ∧
  (∀ (s s' : State) (rd rs1 rs2 : Reg) (w : List Word) (v : Word) (g : List Answer),
     let x := s.thr.rx rs1
     (s.Ready [rs1, rs2] [] [] → fld x 47 40 = 0 → fld x 20 1 = 0 →
       (tbit x 0 = false → exec (.reply rs1 rs2) s = .next (s.finish [] s.nextPc)) ∧
       (tbit x 0 = true → s.thr.inflight < 2 →
         ∃ t, exec (.reply rs1 rs2) s = .next t ∧ t.thr.inflight = s.thr.inflight + 1 ∧ t.thr.pc = s.nextPc ∧
           (∀ r, t.thr.rx r = s.thr.rx r) ∧ s.SameMem t ∧ ∃ at_, t.timed = s.timed ++ [(at_,
             .event .replyDelivery (.reply x (s.thr.rx rs2) s.thr.ctx (threadSender s.thr)))]) ∧
       (tbit x 0 = true → 2 ≤ s.thr.inflight →
         ∃ t, exec (.reply rs1 rs2) s = .next t ∧ s.Waits t (.room .records) ∧ s.SameMem t)) ∧
     (s.Ready [rs1] [rd] [] → fld x 7 0 = 0 → s.loadWords x.toNat 32 = .ok w s' → s.SameThread s' →
       (s.thr.level = .user ∧ lCtx w ≠ s.thr.ctx → exec (.launch rd rs1) s = .next (s.trapped ⟨4, 0, 0, false, x⟩)) ∧
       (¬(s.thr.level = .user ∧ lCtx w ≠ s.thr.ctx) →
         (s'.thr.grants = .done v 0 :: g →
           ∃ t, exec (.launch rd rs1) s = .next t ∧ s.Did t [(rd, v)] s.nextPc ∧ s'.SameMem t) ∧
         (s'.thr.grants = [] → (s'.die (dieOf (ridOf s.cur))).launchQ.length < 64 →
           ∃ t, exec (.launch rd rs1) s = .next t ∧ s.Waits t .launching ∧ (s.thr.level = .monitor → s.SameMem t)))))

/-- R138 to R140, R392: a barrier that every live thread has reached opens, a thread of it that came earlier goes on, and one that is
not complete holds its thread; every thread that executes bar leaves its position; yield sends the thread to the tail of its
ready queue; halt frees the slot once nothing that the thread started is in course, and lowers the live count.
Where these rules leave a point open, what the model chose holds (log entry 28). -/
def Obligations.ThreadControl : Prop :=
  ∀ (s : State) (rs1 : Reg) (a : Party),
    let i := (s.thr.rx rs1).toNat
    let g := gspOf s.cur
    (s.Ready [rs1] [] [] → i < 16 → s.party? s.thr.party = some a →
      (s.thr.grants = [] → a.arrived.getD 0 i + 1 < a.live →
        ∃ t, exec (.bar rs1) s = .next t ∧ s.Waits t (.barrier i) ∧ s.SameMem t ∧
          t.party? s.thr.party = some { a with arrived := a.arrived.put i (a.arrived.getD 0 i + 1) }) ∧
      (s.thr.grants = [] → a.live ≤ a.arrived.getD 0 i + 1 →
        ∃ t, exec (.bar rs1) s = .next t ∧ s.Did t [] s.nextPc ∧ s.SameMem t ∧ t.thr.run = .ready ∧
          (t.party? s.thr.party).map (fun b => b.arrived.getD 0 i) = some 0 ∧
          ∀ k ∈ a.keys, (s.thread k.2).run = .barrier i → (t.thread k.2).run = .ready ∨
            ((s.thread k.2).flying = true ∧ .done 0 0 ∈ (t.thread k.2).grants)) ∧
      (s.thr.grants ≠ [] → exec (.bar rs1) s = .next ((s.finish [] s.nextPc).makeReady s.cur))) ∧
    (s.Ready [rs1] [] [] → 16 ≤ i → exec (.bar rs1) s = .next (s.trapped ⟨0, 0, 0, false, 0⟩)) ∧
    (s.Ready [] [] [] →
      ∃ t, exec .yield s = .next t ∧ s.Did t [] s.nextPc ∧ t.thr.run = .ready ∧ s.SameMem t ∧
        (t.spindle g).ready = (s.spindle g).ready.filter (· != slotOf s.cur) ++ [slotOf s.cur]) ∧
    (s.Ready [] [] [] → s.thr.ops ≠ [] → ∃ t, exec .halt s = .next t ∧ s.Waits t .halting ∧ s.SameMem t) ∧
    (s.Ready [] [] [] → s.thr.ops = [] → s.thr.answers = none → s.party? s.thr.party = some a → 1 < a.live →
      ∃ t, exec .halt s = .next t ∧ Tab.find s.cur t.threads = none ∧ s.SameMem t ∧
        (t.party? s.thr.party).map Party.live = some (a.live - 1))

/-! Repetitions and system registers. -/

/-- R176, R180: rep captures its buffer and starts, skips it for a count of 0, and traps inside a repetition or on a bad count;
rep.stop, beside no buffered parcel, ends the repetition with its pass. -/
def Obligations.RepetitionControl : Prop :=
  ∀ (s s' : State) (rs1 rs2 : Reg) (len : BitVec 4) (stride : BitVec 2) (ps : List (BitVec 32)),
    let n := s.thr.rx rs1
    let m := s.thr.rx rs2
    let l := len.toNat + 1
    let next := s.thr.pc + BitVec.ofNat 64 (4 + 4 * l)
    let rep := Instr.rep rs1 rs2 len stride
    (s.Ready [rs1, rs2] [] [] →
      (fld n 63 32 ≠ 0 ∨ 2 ^ (3 * l) ≤ m.toNat ∨ s.thr.rep.active = true →
        exec rep s = .next (s.trapped ⟨0, 0, 0, false, 0⟩)) ∧
      (fld n 63 32 = 0 → m.toNat < 2 ^ (3 * l) → s.thr.rep.active = false → s.repFetch s.thr.pc.toNat m l = .ok ps s' →
        s.SameThread s' →
        (n = 0 → ∃ t, exec rep s = .next t ∧ s.Did t [] next ∧ s'.SameMem t) ∧
        (n ≠ 0 → ∃ t, exec rep s = .next t ∧ t.thr.pc = next ∧ (∀ r, t.thr.rx r = s.thr.rx r) ∧ s'.SameMem t ∧
          t.thr.rep.active = true ∧ t.thr.rep.len.toNat = l ∧ t.thr.rep.pos = 0 ∧ t.thr.rep.left.toNat = n.toNat ∧
          t.thr.rep.stride.toNat = stride.toNat + 1 ∧ t.thr.rep.stag.toNat = m.toNat ∧ t.thr.rep.buf = ps ∧
          t.thr.rep.susp = 0))) ∧
    (s.Ready [] [] [] →
      (s.thr.rep.active = false ∨ s.thr.rep.susp ≠ 0 → exec .repStop s = .next (s.finish [] s.nextPc)) ∧
      (s.thr.rep.active = true → s.thr.rep.susp = 0 →
        ∃ t, exec .repStop s = .next t ∧ t.thr.pc = s.nextPc ∧ s.SameMem t ∧
          t.thr.rep = (if s.thr.rep.pos = 0 then { s.thr.rep with active := false } else { s.thr.rep with left := 1 })))

/-- R38, R39, R142: the checks of a system-register access, in their order. -/
def Obligations.SystemRegisterChecks : Prop :=
  ∀ (s : State) (rd rs1 : Reg) (n : BitVec 12), s.Ready [rs1] [rd] [] →
    let i := n.toNat
    let ill := s.trapped ⟨0, 0, 0, false, 0⟩
    let priv := s.trapped ⟨10, 0, 0, false, 0⟩
    let low := s.thr.level.code < i / 1024
    let absent := 0x800 ≤ i ∧ i ≤ 0xBFF
    let all (t : State) : Prop := exec (.sysrd rd n) s = .next t ∧ exec (.syswr rd n rs1) s = .next t ∧
      exec (.sysset rd n rs1) s = .next t ∧ exec (.sysclr rd n rs1) s = .next t
    (absent → all ill) ∧ (¬absent → low → all priv) ∧ (¬absent → ¬low → sysAllocated i = false → all ill) ∧
    (¬absent → ¬low → sysAllocated i = true → i / 512 % 2 = 1 →
      exec (.syswr rd n rs1) s = .next ill ∧ exec (.sysset rd n rs1) s = .next ill ∧ exec (.sysclr rd n rs1) s = .next ill)

/-- R6, R41, R42, R44, R142: a system register's value goes to rd, and a write leaves the writable bits of its operand, the value or'ed
with it, or the value without its bits; another register reads as before, but the read views of fmt and the scales, and SDELEG
under another CTXTAB.
Where these rules leave a point open, what the model chose holds (log entries 17, 18, 19). -/
def Obligations.SystemRegisters : Prop :=
  ∀ (s : State) (rd rs1 : Reg) (n : BitVec 12),
    let val (s : State) (i : Nat) : Option Word := match s.sysGet i with
      | .ok v _ => some v
      | _ => none
    let cause : Word := 0xFFFFFFFF0000FF1F
    let all : Word := 0xFFFFFFFFFFFFFFFF
    let writable : List (Nat × Word) := [
      (0x000, 0x1F), (0x001, 0xFF07), (0x008, all), (0x009, all), (0x00A, cause), (0x00B, all), (0x00C, all),
      (0x400, 7), (0x401, all), (0x402, all), (0x403, cause), (0x404, all), (0x405, all), (0x406, 0x920),
      (0x410, 0x000FFFFFFFFFFF80), (0x411, 0xFFFF0001), (0x420, 0xFCFFFF), (0x421, all), (0x422, all), (0x423, all),
      (0x424, all), (0xC00, 7), (0xC01, all), (0xC02, all), (0xC03, cause), (0xC04, all), (0xC05, 0x3FFF), (0xC06, all)]
    let i := n.toNat
    let x := s.thr.rx rs1
    s.thr.strands = [] → i / 1024 ≤ s.thr.level.code → sysAllocated i = true →
    (s.Ready [] [rd] [] →
      ∃ v, val s i = some v ∧ exec (.sysrd rd n) s = .next (s.finish [(rd, v)] s.nextPc)) ∧
    (s.Ready [rs1] [rd] [] → (s.placeMem (s.place (s.descAddr s.thr.ctx 6))).isSome →
      ∀ m old, (i, m) ∈ writable → val s i = some old →
        let writes (instr : Instr) (new : Word) : Prop := ∃ t, exec instr s = .next t ∧ t.thr.pc = s.nextPc ∧
          (∀ r, t.thr.rx r = if r = rd ∧ r ≠ 0 then old else s.thr.rx r) ∧ val t i = some (new &&& m) ∧
          ∀ j, j ≠ i → ¬(0x420 ≤ i ∧ i ≤ 0x424 ∧ j + 0x210 = i) → ¬(i = 0x410 ∧ j = 0x406) → val t j = val s j
        writes (.syswr rd n rs1) x ∧ writes (.sysset rd n rs1) (old ||| x) ∧ writes (.sysclr rd n rs1) (old &&& ~~~x)) ∧
    (s.Ready [rs1] [rd] [] → 0x430 ≤ i → i ≤ 0x433 →
      let tab := (s.spindle (gspOf s.cur)).plyslot.set (i - 0x430) (x &&& 0x8FFF8FFF8FFF8FFF)
      (4 < (tableCtxs tab).length → exec (.syswr rd n rs1) s = .next (s.trapped ⟨0, 0, 0, false, 0⟩)) ∧
      ((tableCtxs tab).length ≤ 4 → ∃ t old, exec (.syswr rd n rs1) s = .next t ∧ val s i = some old ∧
        s.Did t [(rd, old)] s.nextPc ∧ (t.spindle (gspOf s.cur)).plyslot = tab))

/-- R147 to R150: an invalidation queues with its range and empties its token, waits while 64 are outstanding, and is refused at
user level; code.retire counts the references into its range, outside the rotation.
Where these rules leave a point open, what the model chose holds (log entries 20, 23). -/
def Obligations.InvalidationAndRetire : Prop :=
  ∀ (s : State) (rd rs1 rs2 rs3 : Reg),
    let die := gspOf s.cur / 192
    let a := s.thr.rx rs1
    let b := (s.thr.rx rs2).toNat
    let n := (s.thr.rx rs3).toNat
    let priv := s.trapped ⟨10, 0, 0, false, 0⟩
    let starts (i : Instr) (c : Option (BitVec 12)) (lo hi : Nat) : Prop :=
      ((s.die die).invs.length < 64 →
        ∃ t, exec i s = .next t ∧ s.Awaits t rd ∧
          (t.die die).invs = (s.die die).invs ++ [{ id := s.nextId, ctx := c, lo := lo, hi := hi }]) ∧
      (64 ≤ (s.die die).invs.length → ∃ t, exec i s = .next t ∧ s.Waits t (.room .invs) ∧ s.SameMem t)
    (s.Ready [rs1, rs2, rs3] [rd] [] →
      (s.thr.level = .user → exec (.tlbInv rd rs1 rs2 rs3) s = .next priv) ∧
      (s.thr.level ≠ .user → a.toNat < 4096 → b < 2 ^ 57 → b + n ≤ 2 ^ 57 →
        starts (.tlbInv rd rs1 rs2 rs3) (some (a.setWidth 12)) (if n = 0 then 0 else b / 4096 * 4096)
          (if n = 0 then 0 else b + n)) ∧
      (s.thr.level ≠ .user → 4096 ≤ a.toNat ∨ 2 ^ 57 ≤ b ∨ 2 ^ 57 < b + n →
        exec (.tlbInv rd rs1 rs2 rs3) s = .next (s.trapped ⟨0, 0, 0, false, 0⟩))) ∧
    (s.Ready [rs1] [rd] [] →
      (s.thr.level = .user → exec (.tlbInvCtx rd rs1) s = .next priv) ∧
      (s.thr.level ≠ .user → a.toNat < 4096 → starts (.tlbInvCtx rd rs1) (some (a.setWidth 12)) 0 (2 ^ 57))) ∧
    (s.Ready [] [rd] [] →
      (s.thr.level = .user → exec (.tlbInvAll rd) s = .next priv) ∧
      (s.thr.level ≠ .user → starts (.tlbInvAll rd) none 0 (2 ^ 57))) ∧
    (s.Ready [rs1, rs2] [rd] [] →
      let l := fld (s.thr.rx rs2) 51 0
      let c := BitVec.ofNat 12 (fld (s.thr.rx rs2) 63 52)
      (s.thr.level = .user → exec (.codeRetire rd rs1 rs2) s = .next priv) ∧
      (s.thr.level ≠ .user → 0 < l → a.toNat + l ≤ 2 ^ 57 →
        let k := ((s.references c).filter (fun w => a.toNat ≤ w.toNat ∧ w.toNat < a.toNat + l)).length
        ∃ t, exec (.codeRetire rd rs1 rs2) s = .next t ∧ s.Did t [(rd, BitVec.ofNat 64 (min k (2 ^ 64 - 1)))] s.nextPc ∧
          t.thr.run = .access ∧ s.SameMem t) ∧
      (s.thr.level ≠ .user → l = 0 ∨ 2 ^ 57 < a.toNat + l →
        exec (.codeRetire rd rs1 rs2) s = .next (s.trapped ⟨0, 0, 0, false, 0⟩)))

/-! Vectors. -/

/-- R151 to R156: the integer parcels, element by element; an inactive element keeps its value. -/
def Obligations.VectorIntegerResults : Prop :=
  ∀ (s : State) (p : VArgs), s.VReady p p.grp.n →
    let w := intWidth p.ty
    let n := 512 * p.grp.n / w
    let val (x : Nat) : Int := if p.ty.toNat < 4 then toSigned w x else x
    let a := s.thr.el p.vs1 p.grp.n w
    let b := s.thr.el2 p w
    let gives (i : Instr) (f : Nat → Int) : Prop := i.wf = true →
      ∃ t, exec i s = .next t ∧ s.VDid t p.vd p.grp.n w (fun i =>
        if s.thr.act p.mask n i then ofInt w (f i) else s.thr.el p.vd p.grp.n w i)
    gives (.vadd p) (fun i => a i + b i) ∧
    gives (.vsub p) (fun i => a i - b i) ∧
    gives (.vmul p) (fun i => a i * b i) ∧
    gives (.vmulh p) (fun i => val (a i) * val (b i) / (2 ^ w : Nat)) ∧
    gives (.vmin p) (fun i => min (val (a i)) (val (b i))) ∧
    gives (.vmax p) (fun i => max (val (a i)) (val (b i))) ∧
    gives (.vabs p) (fun i => (val (a i)).natAbs) ∧
    gives (.vneg p) (fun i => -(a i : Int)) ∧
    gives (.vand p) (fun i => (a i &&& b i : Nat)) ∧
    gives (.vor p) (fun i => (a i ||| b i : Nat)) ∧
    gives (.vxor p) (fun i => (a i ^^^ b i : Nat)) ∧
    gives (.vshl p) (fun i => (a i * 2 ^ (b i % w) : Nat)) ∧
    gives (.vshr p) (fun i => (a i / 2 ^ (b i % w) : Nat)) ∧
    gives (.vsra p) (fun i => toSigned w (a i) / (2 ^ (b i % w) : Nat)) ∧
    ((Instr.vsel p).wf = true → ∃ t, exec (.vsel p) s = .next t ∧
      s.VDid t p.vd p.grp.n w (fun i => if s.thr.act p.mask n i then a i else b i))

/-- R23, R152, R157, R171, R173: comparisons write a mask whose bits past the active elements are 0; mask operations; a chain
descriptor is checked and stored; k0 is all ones and a write to it is discarded. -/
def Obligations.MaskResults : Prop :=
  ∀ (s : State) (p : VArgs) (cond kd ka kb : BitVec 3) (rd : Reg),
    let k := p.vd.toNat % 8
    let writes (t : State) (d : Nat) (v : Word) : Prop := s.VNext t ∧ s.SameMem t ∧ t.thr.rng = s.thr.rng ∧
      (∀ q, t.thr.rv q = s.thr.rv q) ∧
      ∀ j, t.thr.rk j = if j = 0 then BitVec.allOnes 64 else if j = d then v else s.thr.rk j
    (∀ i : Instr, s.Ready (if p.s then [p.vs2] else []) [] (vregs p.vs1 p.grp.n ++ (if p.s then [] else vregs p.vs2 p.grp.n)) →
      i.wf = true →
      let mask (w : Nat) (c : Nat → Nat → Bool) (t : State) : Prop := ∃ v : Word, writes t k v ∧
        ∀ e, e < 64 → v.getLsbD e = (decide (e < 512 * p.grp.n / w) && s.thr.act p.mask (512 * p.grp.n / w) e &&
          c (s.thr.el p.vs1 p.grp.n w e) (s.thr.el2 p w e))
      (i = .vcmp cond p →
        let w := intWidth p.ty
        let val (x : Nat) : Int := if p.ty.toNat < 4 then toSigned w x else x
        ∃ t, exec i s = .next t ∧ t.thr.fflags = s.thr.fflags ∧ mask w (fun x y => match cond.toNat with
          | 0 => x == y
          | 1 => x != y
          | 2 => decide (val x < val y)
          | 3 => decide (val x ≤ val y)
          | 4 => decide (val y < val x)
          | _ => decide (val y ≤ val x)) t) ∧
      (i = .vfcmp cond p →
        let w := fltWidth p.ty
        let f := fltOf p.ty
        ∃ t, exec i s = .next t ∧ mask w (fun x y => (fltCond f cond.toNat x y).1) t ∧
          ∀ b, t.thr.fflags.getLsbD b = (s.thr.fflags.getLsbD b || (upto (512 * p.grp.n / w)).any (fun e =>
            s.thr.act p.mask (512 * p.grp.n / w) e &&
              (fltCond f cond.toNat (s.thr.el p.vs1 p.grp.n w e) (s.thr.el2 p w e)).2.getLsbD b)))) ∧
    (s.Ready [] [] [] →
      (∃ t, exec (.kand kd ka kb) s = .next t ∧ writes t kd.toNat (s.thr.rk ka.toNat &&& s.thr.rk kb.toNat) ∧ s.Quiet t) ∧
      (∃ t, exec (.kor kd ka kb) s = .next t ∧ writes t kd.toNat (s.thr.rk ka.toNat ||| s.thr.rk kb.toNat) ∧ s.Quiet t) ∧
      ∃ t, exec (.knot kd ka) s = .next t ∧ writes t kd.toNat (~~~(s.thr.rk ka.toNat)) ∧ s.Quiet t) ∧
    (s.Ready [] [rd] [] →
      exec (.kpop rd ka) s =
        .next (s.finish [(rd, BitVec.ofNat 64 (((upto 64).filter (s.thr.rk ka.toNat).getLsbD).length))] s.nextPc)) ∧
    (s.Ready [rd] [] [] → (Instr.vchn kd rd).wf = true →
      (chValid (s.thr.rx rd) = true →
        ∃ t, exec (.vchn kd rd) s = .next t ∧ writes t kd.toNat (s.thr.rx rd) ∧ s.Quiet t) ∧
      (chValid (s.thr.rx rd) = false → exec (.vchn kd rd) s = .next (s.trapped ⟨0, 0, 0, false, 0⟩)))

/-- R63 to R67, R72, R93, R153 to R161: the float and conversion parcels. Active elements are taken in ascending order, each rounded
by the mode with a draw of its lane where it needs one; the flags of all of them join FFLAGS. A mode above 4 traps. -/
def Obligations.VectorFloatResults : Prop :=
  ∀ (s : State) (p : VArgs) (c : VCvt),
    let th := s.thr
    let w := fltWidth p.ty
    let n := 512 * p.grp.n / w
    let mode := fld th.vrm 2 0
    let leaves (t : State) (vd : Reg) (g w : Nat) (r : List Nat × FSt) : Prop :=
      s.VNext t ∧ s.SameMem t ∧ s.Elems t vd g w (fun i => r.1.getD i 0 % 2 ^ w) ∧
      t.thr.fflags = th.fflags ||| r.2.fl ∧ t.thr.rng = r.2.rng
    let each (f : Nat → Nat → FRes) : List Nat × FSt := vEach (th.act p.mask n) (th.el p.vd p.grp.n w)
      (fun i => FSt.step (laneOf w i) (f i)) (upto n) { rng := th.rng }
    let f := fltOf p.ty
    let a := th.el p.vs1 p.grp.n w
    let b := th.el2 p w
    let d := th.el p.vd p.grp.n w
    (s.VReady p p.grp.n →
      let gives (i : Instr) (g : Nat → Nat → FRes) : Prop :=
        i.wf = true → ∃ t, exec i s = .next t ∧ leaves t p.vd p.grp.n w (each g)
      let ill (i : Instr) : Prop := i.wf = true → exec i s = .next (s.trapped ⟨0, 0, 0, false, 0⟩)
      (mode < 4 ∨ (mode = 4 ∧ s.feature th.ctx 6 = true) →
        gives (.vfadd p) (fun i r => f.fadd mode r (a i) (b i)) ∧
        gives (.vfsub p) (fun i r => f.fsub mode r (a i) (b i)) ∧
        gives (.vfmul p) (fun i r => f.fmul mode r (a i) (b i)) ∧
        gives (.vfma p) (fun i r => f.fma mode r (a i) (b i) (d i) false) ∧
        gives (.vfms p) (fun i r => f.fma mode r (a i) (b i) (d i) true)) ∧
      (5 ≤ mode → ill (.vfadd p) ∧ ill (.vfsub p) ∧ ill (.vfmul p) ∧ ill (.vfma p) ∧ ill (.vfms p)) ∧
      gives (.vfmin p) (fun i _ => f.fminmax false (a i) (b i)) ∧
      gives (.vfmax p) (fun i _ => f.fminmax true (a i) (b i))) ∧
    (s.Ready [] [] (vregs c.vs1 (cvtSrcN c) ++ vregs c.vd c.grp.n) → (Instr.vcvt c).wf = true →
      let ws := cvtWidth c.src
      let wd := cvtWidth c.dst
      let mode := if c.rnd = 7 then fld th.vrm 2 0 else c.rnd.toNat
      ((c.src = 13 ∨ c.dst = 13) → s.feature th.ctx 3 = true) →
      (cvtRounds c.src c.dst = true → mode < 4 ∨ (mode = 4 ∧ s.feature th.ctx 6 = true)) →
      ∃ t, exec (.vcvt c) s = .next t ∧ leaves t c.vd c.grp.n wd (vEach (th.act c.mask (cvtN c)) (th.el c.vd c.grp.n wd)
        (fun i => FSt.step (laneOf ws i) (fun r => cvtElem c.src c.dst (toSigned 8 (fld th.vrm 15 8)) mode r (th.el c.vs1 (cvtSrcN c) ws i)))
        (upto (cvtN c)) { rng := th.rng }))

/-- R72, R164: the reductions. The integer ones give the sum, or the least or greatest of the active elements by type; the float
one adds lane by lane, then beat by beat, then neighbours, and rounds once to its type. The rest of the register is 0.
Where these rules leave a point open, what the model chose holds (log entry 22). -/
def Obligations.ReductionResults : Prop :=
  ∀ (s : State) (p : VArgs), s.Ready [] [] (vregs p.vs1 p.grp.n ++ vregs p.vd 1) → p.s = false →
    let th := s.thr
    let w := intWidth p.ty
    let n := 512 * p.grp.n / w
    let val (x : Nat) : Int := if p.ty.toNat < 4 then toSigned w x else x
    let as := (upto n).filterMap (fun i => if th.act p.mask n i then some (th.el p.vs1 p.grp.n w i) else none)
    let lone (v : Nat) : Nat → Nat := fun i => if i = 0 then v else 0
    let low : Nat := if p.ty.toNat < 4 then 2 ^ (w - 1) else 0
    let high : Nat := if p.ty.toNat < 4 then 2 ^ (w - 1) - 1 else 2 ^ w - 1
    ((Instr.vredAdd p).wf = true →
      ∃ t, exec (.vredAdd p) s = .next t ∧ s.VDid t p.vd 1 w (lone (as.sum % 2 ^ w))) ∧
    ((Instr.vredMin p).wf = true →
      ∃ t v, exec (.vredMin p) s = .next t ∧ s.VDid t p.vd 1 w (lone v) ∧ (v = high ∨ v ∈ as) ∧ ∀ x ∈ as, val v ≤ val x) ∧
    ((Instr.vredMax p).wf = true →
      ∃ t v, exec (.vredMax p) s = .next t ∧ s.VDid t p.vd 1 w (lone v) ∧ (v = low ∨ v ∈ as) ∧ ∀ x ∈ as, val x ≤ val v) ∧
    ((Instr.vfredAdd p).wf = true → (fld th.vrm 2 0 < 4 ∨ (fld th.vrm 2 0 = 4 ∧ s.feature th.ctx 6 = true)) →
      let w := fltWidth p.ty
      let n := 512 * p.grp.n / w
      let f := fltOf p.ty
      let sum := fredSum (fld th.vrm 2 0) w p.grp.n
        (fun i => if th.act p.mask n i then f.decode (th.el p.vs1 p.grp.n w i) else .fin true 0 0) { rng := th.rng }
      let r := sum.2.step 0 (fun d => f.ofVal (fld th.vrm 2 0) d sum.1 false)
      ∃ t, exec (.vfredAdd p) s = .next t ∧ s.VNext t ∧ s.SameMem t ∧ s.Elems t p.vd 1 w (lone (r.1 % 2 ^ w)) ∧
        t.thr.fflags = th.fflags ||| r.2.fl ∧ t.thr.rng = r.2.rng)

/-- R152, R167 to R169: vector loads and stores at monitor level, where the accesses of the active elements land in memory: the
elements loaded, and every byte of memory after the stores, which ascend. -/
def Obligations.VectorMemoryResults : Prop :=
  ∀ (s : State) (p : VArgs) (o : Nat → Nat), s.thr.level = .monitor → s.poisoned = [] → tbit s.biascmd 63 = false →
    (s.cluster (ridOf s.cur)).locks = [] →
    let th := s.thr
    let w := intWidth p.ty
    let n := 512 * p.grp.n / w
    let act := th.act p.mask n
    let d := th.el p.vd p.grp.n w
    let unit (i : Nat) : Nat := ofInt 64 ((th.rx p.vs2).toNat +
      (i : Int) * (if p.vs1 = 0 then ((w / 8 : Nat) : Int) else (th.rx p.vs1).toInt))
    let index (i : Nat) : Nat := ((th.rx p.vs2).toNat + th.el p.vs1 p.grp.n w i * (w / 8)) % 2 ^ 64
    let lands (va : Nat → Nat) : Prop := ∀ i, i < n → act i = true →
      va i < 2 ^ 52 ∧ va i % (w / 8) = 0 ∧ s.place (va i) = .mem (o i)
    let loads (i : Instr) : Prop := i.wf = true → ∃ t, exec i s = .next t ∧ s.VNext t ∧ s.Quiet t ∧ s.SameMem t ∧
      s.Elems t p.vd p.grp.n w (fun i => if act i then s.rd (o i) (w / 8) else d i)
    let stores (i : Instr) : Prop := i.wf = true → ∃ t, exec i s = .next t ∧ s.VNext t ∧ s.Quiet t ∧
      (∀ q, t.thr.rv q = th.rv q ∧ t.thr.rk q = th.rk q) ∧
      (∀ a, t.isFull a = s.isFull a) ∧
      ∀ a, t.mem.read a = (upto n).foldl (fun b i =>
        if act i && decide (o i ≤ a ∧ a < o i + w / 8) then BitVec.ofNat 8 (d i / 256 ^ (a - o i)) else b) (s.mem.read a)
    (s.Ready [p.vs1, p.vs2] [] (vregs p.vd p.grp.n) → lands unit → loads (.vld p) ∧ stores (.vst p)) ∧
    (s.Ready [p.vs2] [] (vregs p.vd p.grp.n ++ vregs p.vs1 p.grp.n) → lands index → loads (.vldx p) ∧ stores (.vstx p))

/-- R56, R92, R168, R169: bit-plane parcels at monitor level on planes in memory, without a mask: element e of plane j is bit e of
the plane's run, plane 0 the sign; a load gives the value of the planes, a store writes their bits.
Where these rules leave a point open, what the model chose holds (log entries 21, 58). -/
def Obligations.BitPlaneResults : Prop :=
  ∀ (s : State) (p : VArgs) (o pl : Nat), s.thr.level = .monitor → s.poisoned = [] → tbit s.biascmd 63 = false →
    (s.cluster (ridOf s.cur)).locks = [] → s.Ready [p.vs1, p.vs2] [] (vregs p.vd p.grp.n) →
    s.feature s.thr.ctx 2 = true → p.mask = 0 →
    let n := 64 * p.grp.n
    let base := (s.thr.rx p.vs2).toNat
    let e0 := (s.thr.rx p.vs1).toNat
    let d := s.thr.el p.vd p.grp.n 8
    -- bit e of plane j, as the run that starts at offset o holds it
    let bit_ (t : State) (j e : Nat) : Bool := (t.mem.read (o + 64 * j + e / 8)).getLsbD (e % 8)
    base % 64 = 0 → base + 512 ≤ 2 ^ 52 → s.place base = .mem o → s.place (base + 511) = .mem (o + 511) →
    e0 % n = 0 → e0 + n ≤ 512 →
    ((Instr.vldBp p).wf = true → bpPlanes true p.ty s.thr.fmt = some pl →
      ∃ t, exec (.vldBp p) s = .next t ∧ s.VDid t p.vd p.grp.n 8 (fun i =>
        let q := (upto pl).foldl (fun x j => x + (if bit_ s j (e0 + i) then 2 ^ (7 - j) else 0)) 0
        ofInt 8 (bpnValue pl (fmtMidpt s.thr.fmt) (toSigned 8 q)))) ∧
    ((Instr.vstBp p).wf = true → bpPlanes false p.ty s.thr.fmt = some pl →
      ∃ t, exec (.vstBp p) s = .next t ∧ s.VNext t ∧ s.Quiet t ∧
        (∀ q, t.thr.rv q = s.thr.rv q ∧ t.thr.rk q = s.thr.rk q) ∧
        (∀ j i, j < pl → i < n → bit_ t j (e0 + i) = (d i / 2 ^ (7 - j) % 2 == 1)) ∧
        (∀ j e, j < pl → e < 512 → e < e0 ∨ e0 + n ≤ e → bit_ t j e = bit_ s j e) ∧
        ∀ a, a < o ∨ o + 64 * pl ≤ a → t.mem.read a = s.mem.read a)

/-- R162, R163, R165, R166: permutes, moves, packing and unpacking, element by element. -/
def Obligations.PermuteResults : Prop :=
  ∀ (s : State) (p : VArgs),
    let th := s.thr
    let w := intWidth p.ty
    let n := 512 / w
    let a := th.el p.vs1 1 w
    let b (w : Nat) := th.el p.vs2 1 w
    let x := th.rx p.vs2
    let imm := p.vs2.toNat
    let val (x : Nat) : Int := if p.ty.toNat < 4 then toSigned w x else x
    let writes (i : Instr) (m w : Nat) (f : Nat → Nat) : Prop := i.wf = true → ∃ t, exec i s = .next t ∧
      s.VDid t p.vd 1 w (fun i => if s.thr.act p.mask m i then f i else th.el p.vd 1 w i)
    (s.VReady p 1 →
      writes (.vperm p) n w (fun i => a ((if p.s then x.toNat else b w i) % n)) ∧
      writes (.vrot p) n w (fun i => a ((i + (if p.s then x.toNat else imm)) % n)) ∧
      writes (.vshuf p) n w (fun i => if i % 2 = 0 then a (i / 2) else b w (i / 2)) ∧
      writes (.vbcast p) n w (fun _ => a ((if p.s then x.toNat else imm) % n)) ∧
      writes (.vslide p) n w (fun i =>
        let j : Int := i + (if p.s then x.toInt else toSigned 5 imm)
        if 0 ≤ j ∧ j < n then a j.toNat else 0) ∧
      writes (.vmvVx p) n w (fun _ => x.toNat % 2 ^ w) ∧
      writes (.vpack p) n w (fun i =>
        let y := if i < n / 2 then th.el p.vs1 1 (2 * w) i else b (2 * w) (i - n / 2)
        if p.ty.toNat < 4 then ofInt w (min (max (toSigned (2 * w) y) (-(2 ^ (w - 1) : Nat))) ((2 ^ (w - 1) : Nat) - 1))
        else min y (2 ^ w - 1)) ∧
      writes (.vunpack p) (n / 2) (2 * w) (fun i => ofInt (2 * w) (val (a (imm % 2 * (n / 2) + i)))) ∧
      ((Instr.vins p).wf = true → ∃ t, exec (.vins p) s = .next t ∧ s.VDid t p.vd 1 w (fun i =>
        if i = p.vs1.toNat then x.toNat % 2 ^ w else th.el p.vd 1 w i))) ∧
    (s.Ready [] [p.vd] (vregs p.vs1 1) →
      ((Instr.vmvXv p).wf = true → exec (.vmvXv p) s =
        .next (s.finish [(p.vd, BitVec.ofInt 64 (val (a 0)))] s.nextPc)) ∧
      (p.s = false → (Instr.vext p).wf = true → exec (.vext p) s =
        .next (s.finish [(p.vd, BitVec.ofInt 64 (val (a imm)))] s.nextPc))) ∧
    (s.Ready [p.vs2] [p.vd] (vregs p.vs1 1) → p.s = true → (Instr.vext p).wf = true →
      exec (.vext p) s = .next (s.finish [(p.vd, BitVec.ofInt 64 (val (a (x.toNat % n))))] s.nextPc))

/-- R170, R172, R174, R175: a chain runs the stages of its descriptor on every element, and a bad descriptor traps; a special
function is computed by its unit, pending on vd until it lands, with its flags set.
Where these rules leave a point open, what the model chose holds (log entries 5, 22). -/
def Obligations.ChainAndFunctionResults : Prop :=
  ∀ (s : State) (p : VArgs),
    let th := s.thr
    let d := th.rk p.mask.toNat
    (s.VReady p 1 → (Instr.vx p).wf = true →
      let w := if chFlt d then fltWidth (chTy d) else intWidth (chTy d)
      let mode := fld th.vrm 2 0
      let r := vEach (fun _ => true) (fun _ => 0) (fun i => chRun d mode (laneOf w i)
        (fun sel => if sel = 0 then th.el p.vs1 1 w i else if sel = 1 then th.el2 p w i else th.el p.vd 1 w i)
        (upto 6) 0 (th.el p.vs1 1 w i)) (upto (512 / w)) { rng := th.rng }
      (chValid d = false → exec (.vx p) s = .next (s.trapped ⟨0, 0, 0, false, 0⟩)) ∧
      (chValid d = true → (chRounds d = true → mode < 4 ∨ (mode = 4 ∧ s.feature th.ctx 6 = true)) →
        ∃ t, exec (.vx p) s = .next t ∧ s.VNext t ∧ s.SameMem t ∧ s.Elems t p.vd 1 w (fun i => r.1.getD i 0 % 2 ^ w) ∧
          t.thr.fflags = th.fflags ||| r.2.fl ∧ t.thr.rng = r.2.rng)) ∧
    (s.Ready [] [] (vregs p.vs1 1 ++ vregs p.vd 1) →
      let w := fltWidth p.ty
      let n := 512 / w
      let pends (i : Instr) (op : Nat) : Prop := i.wf = true →
        let r (e : Nat) : FRes := sfElem (fltOf p.ty) op (th.el p.vs1 1 w e)
        ∃ t q, exec i s = .next t ∧ t.thr.pc = s.nextPc ∧ (∀ x, t.thr.rx x = th.rx x) ∧ t.thr.v = th.v ∧ s.SameMem t ∧
          t.thr.sfu = th.sfu ++ [q] ∧ q.vd = p.vd ∧ q.width = w ∧ q.mask = th.rk p.mask.toNat ∧
          q.due = s.cycle + (if 4 ≤ op ∧ w = 32 then 24 else 16) ∧
          (∀ e, e < n → th.act p.mask n e = true → elem w q.value.toNat e = (r e).bits % 2 ^ w) ∧
          ∀ b, t.thr.fflags.getLsbD b = (th.fflags.getLsbD b || (upto n).any (fun e =>
            th.act p.mask n e && (r e).fl.getLsbD b))
      pends (.vexp2 p) 0 ∧ pends (.vlog2 p) 1 ∧ pends (.vrcp p) 2 ∧ pends (.vrsqrt p) 3 ∧ pends (.vsin p) 4 ∧
      pends (.vcos p) 5)

/-! Matrix commands. -/

/-- R226, R230, R241: a head command that may run, with the unit free for it, is checked. A check that fails, of its line and
operands, of its scale arrays, or of the pages of its matrix, ends it with that status and changes no tile and no array; one that
passes them all, with no scale array to read, starts its first turn, for the time of R230 if it is a Ply command. For every command
that the queue of its window decodes.
Where these rules leave a point open, what the model chose holds (log entry 41). -/
def Obligations.CommandChecks : Prop :=
  ∀ (s : State) (g ctx kind : Nat) (cmd : Cmd) (i : Instr),
    s.curCmd = (g, ctx, kind) → ctx < 4096 → kind < 2 → (s.spindle g).head ctx kind = some cmd →
    cmd.st = .queued ∨ cmd.st = .waiting → cmd.fail = none → s.cmdReady g ctx kind = true →
    kind = 1 ∨ (s.spindle g).unit = none → decodeCommand kind cmd.line = some i →
    let j := cmd.job
    let c := BitVec.ofNat 12 ctx
    let ends (st : Nat) : Prop := ∃ t, exec i s = .next t ∧ s.CmdDone t g ctx kind cmd st 0 ∧
      (∀ tile, s.Tile t g ctx tile (s.acc g ctx tile)) ∧ s.UaBut t 0 [] 0 0
    (∀ st, s.cmdCheck g ctx kind cmd j = some st → ends st) ∧
    (s.cmdCheck g ctx kind cmd j = none →
      (∀ st, s.scaleCheck g c cmd j.scaleBytes = some (.stop st) → ends st) ∧
      (s.scaleCheck g c cmd j.scaleBytes = none → j.isNbm = true → s.matPages g c cmd j = none → ends 0x03) ∧
      (∀ mat, j.scaleBytes = [] → (if j.isNbm = true then s.matPages g c cmd j else some []) = some mat →
        ∃ t d, exec i s = .next t ∧
          (t.spindle g).head ctx kind = some { cmd with st := .running, started := true, ends := s.cycle + d, mat := mat } ∧
          t.timed = s.timed ++ [(s.cycle + d, .command g ctx kind)] ∧
          (kind = 0 → d = j.turnAc true ∧ (t.spindle g).unit = some c) ∧ 0 < d ∧
          (∀ tile, s.Tile t g ctx tile (s.acc g ctx tile)) ∧ s.UaBut t 0 [] 0 0 ∧ s.SameMem t))

/-- R228, R229, R231, R235, R240: the turn of a command that ends writes its tile. ply.zero and the sync commands end at once; a
product writes one k group, zeroing first when ZACC is set and the group is the first, and ends with its last.
Where these rules leave a point open, what the model chose holds (log entry 9). -/
def Obligations.CommandResults : Prop :=
  ∀ (s : State) (g ctx kind : Nat) (cmd : Cmd), s.TurnEnds g ctx kind cmd →
    let j := cmd.job
    let gs := s.cmdGrans g cmd.party
    let u := s.turned g ctx kind cmd
    let old := s.acc g ctx j.c.tile
    let gives (i : Instr) (p : State → Prop) : Prop :=
      decodeCommand kind cmd.line = some i → ∃ t, exec i s = .next t ∧ s.UaBut t 0 [] 0 0 ∧ p t
    let sum (q i n : Nat) : FVal := groupSum (16 * q) (min (16 * q + 16) j.c.k) (s.elemA g gs j i) (s.elemB g gs j · n)
      (j.scaleA cmd.scales i (16 * q)) (j.scaleB cmd.scales n (16 * q))
    let product (t : State) : Prop :=
      let exc := (cells j.c.m j.c.n).foldl (fun f c => f ||| groupExc (sum cmd.next c.1 c.2)) 0
      s.Tile t g ctx j.c.tile (fun i n => if i < j.c.m ∧ n < j.c.n then
        accAdd (if j.c.flag 16 && cmd.next == 0 then 0 else old i n) (sum cmd.next i n) else old i n) ∧
      (cdiv j.c.k 16 ≤ cmd.next + 1 → u.CmdDone t g ctx kind cmd 0 (cmd.exc ||| exc)) ∧
      (cmd.next + 1 < cdiv j.c.k 16 → ∃ c, (t.spindle g).head ctx kind = some c ∧ c.id = cmd.id ∧ c.next = cmd.next + 1 ∧
        c.exc = cmd.exc ||| exc ∧ (c.st = .running ∨ c.st = .paused))
    gives (.plyZero j.c) (fun t => s.Tile t g ctx j.c.tile (fun _ _ => 0) ∧ u.CmdDone t g ctx kind cmd 0 cmd.exc) ∧
    gives (.plySync j.c) (fun t => s.Tile t g ctx j.c.tile old ∧ u.CmdDone t g ctx kind cmd 0 cmd.exc) ∧
    gives (.nbmSync j.c) (fun t => s.Tile t g ctx j.c.tile old ∧ u.CmdDone t g ctx kind cmd 0 cmd.exc) ∧
    gives (.plyMma j.c) product ∧ gives (.plyMmaMx j.c) product ∧ gives (.plyMmaBp j.c) product ∧
    gives (.plyLdacc j.c) (fun t =>
      let el (i n : Nat) : Nat × Flags :=
        let x := s.opBits g gs (j.c.a.bitAt i n j.wa) j.wa
        ldaccElem (if j.raw then f64.decode x else fmtVal j.fa x)
      s.Tile t g ctx j.c.tile (fun i n => if i < j.c.m ∧ n < j.c.n then BitVec.ofNat 64 (el i n).1 else old i n) ∧
      u.CmdDone t g ctx kind cmd 0 (cmd.exc ||| (cells j.c.m j.c.n).foldl (fun f c => f ||| (el c.1 c.2).2) 0)) ∧
    (let stripe (t : State) : Prop :=
      let q := cmd.next
      let hi := min (512 * q + 512) j.c.k
      let part (i n : Nat) : Word := (upto (cdiv (hi - 512 * q) 16)).foldl (fun p t =>
        let k := 512 * q + 16 * t
        accAdd p (groupSum k (min (k + 16) hi) (s.elemA g gs j i) (s.matElem cmd j · n)
          (j.scaleA cmd.scales i k) (j.scaleB cmd.scales n k))) 0
      (∀ i n, i < j.c.m → n < j.c.n →
        let e := i * j.c.n + n
        t.acc g ctx j.c.tile (e / 32) (e % 32) =
          accAdd (if j.c.flag 16 && q == 0 then 0 else old (e / 32) (e % 32)) (f64.decode (part i n).toNat)) ∧
      (∀ h c b i n, c < 4096 → b < 4 → i < 32 → n < 32 → ¬(h = g ∧ c = ctx ∧ b = j.c.tile ∧ 32 * i + n < j.c.m * j.c.n) →
        t.acc h c b i n = s.acc h c b i n) ∧
      (cdiv j.c.k 512 ≤ q + 1 → ∃ exc, u.CmdDone t g ctx kind cmd 0 (cmd.exc ||| exc)) ∧
      (q + 1 < cdiv j.c.k 512 → ∃ c, (t.spindle g).head ctx kind = some c ∧ c.id = cmd.id ∧ c.next = q + 1)
     gives (.nbmGemv j.c) stripe ∧ gives (.nbmGemvBp j.c) stripe)

/-- R232, R234: ply.stacc writes the elements of its operand, by R67 and a random word that only a stochastic mode uses, all eight
planes of a bp element, and clears the tile when CLR is set; ply.tr writes the transpose. No other scratchpad byte changes. -/
def Obligations.CommandStores : Prop :=
  ∀ (s : State) (g ctx kind : Nat) (cmd : Cmd), s.TurnEnds g ctx kind cmd →
    let j := cmd.job
    let gs := s.cmdGrans g cmd.party
    let u := s.turned g ctx kind cmd
    let old := s.acc g ctx j.c.tile
    let gives (i : Instr) (p : State → Prop) : Prop :=
      decodeCommand kind cmd.line = some i → ∃ t, exec i s = .next t ∧ p t
    (j.c.a.off + j.spanA ≤ 16384 * gs.length →
      gives (.plyStacc j.c) (fun t =>
        let el (i n : Nat) (v : Nat) : Prop :=
          if j.fa = 11 ∧ !j.raw then
            planeBits (t.opByte g gs) (j.c.a.off + i / 16 * j.c.a.lds) (32 * (i % 16) + n) 8 = v % 256
          else t.opBits g gs (j.c.a.bitAt i n j.wa) j.wa = v % 2 ^ j.wa
        (∀ i n, i < j.c.m → n < j.c.n → if j.raw then el i n (old i n).toNat else
          ∃ r, el i n (j.staccElem (j.scaleC cmd.scales) r (old i n)).bits) ∧
        s.UaBut t g gs j.c.a.off j.spanA ∧
        s.Tile t g ctx j.c.tile (fun i n => if (j.c.flag 20 ∧ i < j.c.m) ∧ n < j.c.n then 0 else old i n) ∧
        ∃ exc, u.CmdDone t g ctx kind cmd 0 (cmd.exc ||| exc))) ∧
    (j.c.b.off + j.spanB ≤ 16384 * gs.length →
      gives (.plyTr j.c) (fun t =>
        let w := fmtWidth j.fa
        (∀ r c, r < j.c.m → c < j.c.n →
          t.opBits g gs (j.c.b.bitAt c r w) w = s.opBits g gs (j.c.a.bitAt r c w) w) ∧
        s.UaBut t g gs j.c.b.off j.spanB ∧ s.Tile t g ctx j.c.tile old ∧
        u.CmdDone t g ctx kind cmd 0 cmd.exc))

/-! Graph nodes. -/

/-- R246, R248, R249, R254 to R256: a word or floating-point node fires on the words at its ports, the constant standing for port b
when IMMB is set, and sends its result to consumers A and B.
Where these rules leave a point open, what the model chose holds (log entry 14). -/
def Obligations.WordNodeResults : Prop :=
  ∀ (s : State) (n : NodeWord) (a b c : Word), s.NodeTurn n → (∀ d ∈ abOf n, s.Accepts 0 d) →
    let v := n.imm.toNat / 2 ^ 24
    let k := n.imm.toNat % 2 ^ 24
    let gives (i : Instr) (ports : List Nat) (w : Word) : Prop := i.wf = true →
      (∀ p ∈ ports, s.head p 0 = .data [[a, b, c].getD p 0]) →
      ∃ t, exec i s = .next t ∧ s.Pure t ∧ s.Fired t (ports.map (fun p => (p, 1))) (s.sent 0 [w] (abOf n)) s.nst
        (fun j => s.cnt j + if j ≤ 2 then 1 else 0)
    let two : List Nat := if n.immb then [0] else [0, 1]
    let signed (p q : Word) : Word := if p.slt q then 1 else 0
    ((n.immb = true → b = (BitVec.ofNat 24 k).signExtend 64) →
      gives (.nodeAdd n) two (a + b) ∧ gives (.nodeSub n) two (a - b) ∧ gives (.nodeMul n) two (a * b) ∧
      (v = 0 → gives (.nodeMulh n) two ((a.signExtend 128 * b.signExtend 128).extractLsb' 64 64)) ∧
      (v = 1 → gives (.nodeMulh n) two ((a.signExtend 128 * b.setWidth 128).extractLsb' 64 64)) ∧
      (v = 2 → gives (.nodeMulh n) two ((a.setWidth 128 * b.setWidth 128).extractLsb' 64 64)) ∧
      (v = 0 → gives (.nodeDiv n) two (if b = 0 then -1 else a.sdiv b)) ∧
      (v = 1 → gives (.nodeDiv n) two (if b = 0 then -1 else a / b)) ∧
      (v = 2 → gives (.nodeDiv n) two (if b = 0 then a else a.srem b)) ∧
      (v = 3 → gives (.nodeDiv n) two (if b = 0 then a else a % b)) ∧
      gives (.nodeAnd n) two (a &&& b) ∧ gives (.nodeOr n) two (a ||| b) ∧ gives (.nodeXor n) two (a ^^^ b) ∧
      gives (.nodeShl n) two (a <<< b.setWidth 6) ∧ gives (.nodeShr n) two (a >>> b.setWidth 6) ∧
      gives (.nodeSra n) two (a.sshiftRight' (b.setWidth 6)) ∧
      (v = 0 → gives (.nodeCmp n) two (if a = b then 1 else 0)) ∧ (v = 1 → gives (.nodeCmp n) two (if a = b then 0 else 1)) ∧
      (v = 2 → gives (.nodeCmp n) two (signed a b)) ∧ (v = 3 → gives (.nodeCmp n) two (1 - signed a b)) ∧
      (v = 4 → gives (.nodeCmp n) two (if a < b then 1 else 0)) ∧ (v = 5 → gives (.nodeCmp n) two (if a < b then 0 else 1)) ∧
      gives (.nodeSel n) (two ++ [2]) (if a ≠ 0 then b else c) ∧
      (v = 0 → gives (.nodeMin n) two (if b.slt a then b else a)) ∧ (v = 1 → gives (.nodeMin n) two (if b < a then b else a)) ∧
      (v = 0 → gives (.nodeMax n) two (if a.slt b then b else a)) ∧ (v = 1 → gives (.nodeMax n) two (if a < b then b else a))) ∧
    ((n.immb = true → b = BitVec.ofNat 64 (k * 256)) →
      let f (r : FRes) : Word := BitVec.ofNat 64 r.bits
      let x := a.toNat % 2 ^ 32
      let y := b.toNat % 2 ^ 32
      gives (.nodeFadd n) two (f (f32.fadd v 0 x y)) ∧ gives (.nodeFmul n) two (f (f32.fmul v 0 x y)) ∧
      gives (.nodeFfma n) (two ++ [2]) (f (f32.fma v 0 x y (c.toNat % 2 ^ 32) false)) ∧
      gives (.nodeFmin n) two (f (f32.fminmax false x y)) ∧ gives (.nodeFmax n) two (f (f32.fminmax true x y))) ∧
    gives (.nodeFcvt n) [0] (fcvtWord (n.imm.toNat / 2 ^ 28) (n.imm.toNat / 2 ^ 24 % 16) (n.imm.toNat / 2 ^ 21 % 8) a)

/-- R60 to R62, R99, R257, R258, R260, R261: digit arithmetic and stream control. A digit result has the digits of one of the forms
of its exact value, cut at 64 with MISMATCH.
Where these rules leave a point open, what the model chose holds (log entries 2, 33). -/
def Obligations.StreamNodeResults : Prop :=
  ∀ (s : State) (n : NodeWord), s.NodeTurn n →
    let accepts (cls : BitVec 2) : Prop := ∀ d ∈ abOf n, s.Accepts cls d
    let one : Nat → Nat := fun j => s.cnt j + if j ≤ 2 then 1 else 0
    let fires (i : Instr) (takes : List (Nat × Nat)) (out : List Tok) (nst : List Word) (cnt : Nat → Nat) (m : Bool) : Prop :=
      ∃ t, exec i s = .next t ∧ s.Pure t ∧ s.Fired t takes out nst cnt m
    let good (ps : List Word) : Prop := n.cls = 1 → ∀ p ∈ ps, digMalformed p = false ∧ digReserved p = false
    let c := n.cls.toNat
    (∀ x y, s.head 0 1 = .data x → s.head 1 1 = .data y →
      let a := dnumOf x
      let b := dnumOf y
      let e := max a.e b.e
      let len (d : DNum) : Nat := (e - d.e).toNat + d.ds.length
      let k := max (len a) (len b)
      let at_ (d : DNum) : Int := digitSum d.ds * (2 ^ (k - len d) : Nat)
      let digits (i : Instr) (e : Int) (k : Nat) (v : Int) : Prop :=
        i.wf = true → accepts 1 → -128 ≤ e → e ≤ 127 → k ≤ 64 ∨ n.strict = false →
        ∃ ds, ds.length = k ∧ (∀ d ∈ ds, d = 0 ∨ d = 1 ∨ d = -1) ∧ digitSum ds = v ∧
          fires i [(0, x.length), (1, y.length)] (s.sent 1 (DNum.groups { e := e, ds := ds.take 64 }) (abOf n)) s.nst one
            (decide (64 < k))
      digits (.nodeDadd n) (e + 1) (k + 1) (at_ a + at_ b) ∧
      digits (.nodeDmul n) (a.e + b.e + 1) (a.ds.length + b.ds.length) (digitSum a.ds * digitSum b.ds) ∧
      ((Instr.nodeDcmp n).wf = true → accepts 0 → fires (.nodeDcmp n) [(0, x.length), (1, y.length)]
        (s.sent 0 [if at_ a < at_ b then -1 else if at_ a = at_ b then 0 else 1] (abOf n)) s.nst one false)) ∧
    (∀ x, s.head 0 1 = .data x → (Instr.nodeDtow n).wf = true → accepts 0 →
      let a := dnumOf x
      let q : Int := a.e - a.ds.length + 1
      let v : Int := if 0 ≤ q then digitSum a.ds * (2 ^ q.toNat : Nat) else digitSum a.ds / (2 ^ (-q).toNat : Nat)
      let w : Int := max (-(2 ^ 63)) (min v (2 ^ 63 - 1))
      fires (.nodeDtow n) [(0, x.length)] (s.sent 0 [BitVec.ofInt 64 w] (abOf n)) s.nst one (decide (w ≠ v))) ∧
    (∀ a, s.head 0 0 = .data [a] →
      ((Instr.nodeWtod n).wf = true → accepts 1 →
        fires (.nodeWtod n) [(0, 1)] (s.sent 1 (DNum.groups { e := 63, ds := (upto n.imm.toNat).map (fun j =>
          let b : Int := if a.getMsbD j then 1 else 0
          if j = 0 then -b else b) }) (abOf n)) s.nst one false) ∧
      ((Instr.nodeWsplit n).wf = true → accepts 0 →
        let w := 32 / 2 ^ n.imm.toNat
        ∃ t, exec (.nodeWsplit n) s = .next t ∧ s.Pure t ∧
          s.Fired t [(0, 1)] ((upto (64 / w)).flatMap (fun i =>
            s.sent 0 [(a >>> (w * i)) &&& (BitVec.ofNat 64 (2 ^ w - 1))] (abOf n))) s.nst
            (fun j => s.cnt j + if j = 0 then 1 else if j ≤ 2 then 64 / w else 0)) ∧
      ((Instr.nodeWjoin n).wf = true → accepts 0 →
        let w := 32 / 2 ^ n.imm.toNat
        let ps := s.nst ++ [a &&& (BitVec.ofNat 64 (2 ^ w - 1))]
        (ps.length * w < 64 → fires (.nodeWjoin n) [(0, 1)] [] ps (fun j => s.cnt j + if j = 0 then 1 else 0) false) ∧
        (ps.length * w = 64 → (∀ p ∈ s.nst, p.toNat < 2 ^ w) → fires (.nodeWjoin n) [(0, 1)]
          (s.sent 0 [((upto ps.length).map (fun i => ps.getD i 0 <<< (w * i))).foldl (· ||| ·) 0] (abOf n)) [] one false))) ∧
    (∀ ps, s.head 0 c = .data ps → (Instr.nodeDrop n).wf = true →
      fires (.nodeDrop n) [(0, ps.length)] [] s.nst (fun j => s.cnt j + if j = 0 then 1 else 0) false) ∧
    (∀ ps, s.head 0 c = .data ps → good ps → accepts n.cls →
      let pass (i : Instr) (takes : List (Nat × Nat)) : Prop :=
        i.wf = true → fires i takes (s.sent n.cls ps (abOf n)) s.nst one false
      (∀ d, d = [(n.imm.toNat / 4 % 256, n.imm.toNat % 4), (n.imm.toNat / 4096 % 256, n.imm.toNat / 1024 % 4)] →
        (∀ x ∈ d, s.Accepts n.cls x) → (Instr.nodeFan n).wf = true →
        fires (.nodeFan n) [(0, ps.length)] (s.sent n.cls ps (abOf n ++ d)) s.nst
          (fun j => s.cnt j + if j ≤ 4 then 1 else 0) false) ∧
      (∀ b, s.head 1 0 = .data [b] →
        pass (.nodeGate n) [(0, ps.length), (1, 1)] ∧
        ((Instr.nodeSteer n).wf = true →
          let k := if b ≠ 0 then 0 else 1
          fires (.nodeSteer n) [(0, ps.length), (1, 1)] (s.sent n.cls ps [(abOf n).getD k (255, 3)]) s.nst
            (fun j => s.cnt j + if j = 0 ∨ j = k + 1 then 1 else 0) false)) ∧
      (∀ qs : Nat → List Word, (∀ p, p ≤ n.imm.toNat → s.head p c = .data (qs p)) → qs 0 = ps →
        pass (.nodeJoin n) ((upto (n.imm.toNat + 1)).map (fun p => (p, (qs p).length))))) ∧
    (∀ sel ps, s.head 2 0 = .data [sel] → s.cnt 5 < 2 → good ps → accepts n.cls →
      let p := if sel ≠ 0 then 0 else 1
      s.head p c = .data ps → (Instr.nodeMerge n).wf = true →
      fires (.nodeMerge n) [(p, ps.length), (2, 1)] (s.sent n.cls ps (abOf n)) s.nst one false) ∧
    (let step : Word := (BitVec.ofNat 24 n.imm.toNat).signExtend 64
     let i (takes : List (Nat × Nat)) (k x m : Word) (f : Nat) : Prop := (Instr.nodeIter n).wf = true → accepts 0 →
       (k ≠ m → fires (.nodeIter n) takes (s.sent 0 [x + k * step] (abOf n)) [k + 1, x, m]
         (fun j => s.cnt j + if j = 0 then f else if j ≤ 2 then 1 else 0) false) ∧
       (k = m → fires (.nodeIter n) takes (s.sent 2 [endWord (n.imm.toNat / 2 ^ 24) m.toNat false] (abOf n)) []
         (fun j => if 1 ≤ j ∧ j ≤ 2 then 0 else s.cnt j + if j = 0 then f else 0) false)
     (∀ x m, s.nst = [] → s.head 0 0 = .data [x] → s.head 1 0 = .data [m] → i [(0, 1), (1, 1)] 0 x m 1) ∧
     (∀ k x m, s.nst = [k, x, m] → i [] k x m 0))

/-- R263 to R266, R268 to R270: memory-edge nodes whose accesses land on memory. A load sees the frame's own buffered stores at
its port first; a store is buffered and changes no memory; an atomic and a cut follow the commit.
Where these rules leave a point open, what the model chose holds (log entries 34, 35). -/
def Obligations.MemoryNodeResults : Prop :=
  ∀ (s : State) (n : NodeWord), s.NodeTurn n →
    let imm := n.imm.toNat
    let port := imm % 8
    let via : Via := .port s.rid port
    let accepts (cls : BitVec 2) : Prop := ∀ d ∈ abOf n, s.Accepts cls d
    let count (f e j : Nat) : Nat := s.cnt j + if j = 0 then f else if j ≤ 2 then e else 0
    let ends (f j : Nat) : Nat := if 1 ≤ j ∧ j ≤ 2 then 0 else s.cnt j + if j = 0 then f else 0
    (∀ a o u, (Instr.nodeLdp n).wf = true → n.cls = 0 → accepts 0 → s.head 0 0 = .data [a] →
      let w := 2 ^ (imm / 16 % 4)
      (s.took [(0, 1)]).nodeAt via { va := a.toNat, n := w, al := w, k := .load, plain := decide (w = 8) } = .ok (.mem o) u →
      let v := ofBytes (u.forward port a.toNat (toBytes w (u.rd o w)))
      ∃ t, exec (.nodeLdp n) s = .next t ∧ u.SameMem t ∧ t.reg.stores = s.reg.stores ∧ s.Fired t [(0, 1)]
        (s.sent 0 [if n.imm.getLsbD 6 then sextW (8 * w) v else BitVec.ofNat 64 v] (abOf n)) s.nst (count 1 1)) ∧
    (∀ a e ds u, (Instr.nodeLdp n).wf = true → n.cls = 1 → accepts 1 → s.head 0 0 = .data [a] → s.head 1 0 = .data [e] →
      a.toNat % 64 = 0 → e.toNat ≤ 511 →
      let p := if imm / 4096 % 16 = 0 then 8 else imm / 4096 % 16
      Acc.each (fun j s => s.portLoad port (a.toNat + 64 * j + e.toNat / 8) 1 1) (upto p) (s.took [(0, 1), (1, 1)]) =
        .ok ds u →
      let bits := (upto p).map (fun j =>
        let b : Int := (ds.getD j 0 / 2 ^ (e.toNat % 8) % 2 : Nat)
        if j = 0 then -b else b)
      let mid : List Int := if n.imm.getLsbD 8 ∧ p < 8 then [1] else []
      ∃ t, exec (.nodeLdp n) s = .next t ∧ u.SameMem t ∧ t.reg.stores = s.reg.stores ∧ s.Fired t [(0, 1), (1, 1)]
        (s.sent 1 (DNum.groups { e := 7, ds := bits ++ mid }) (abOf n)) s.nst (count 1 1)) ∧
    (∀ a v l u, (Instr.nodeStp n).wf = true → accepts 0 → s.head 0 0 = .data [a] → s.head 1 0 = .data [v] →
      let w := 2 ^ (imm / 16 % 4)
      (s.took []).nodeAt via { va := a.toNat, n := w, al := w, k := .store, plain := decide (w = 8) } = .ok l u →
      let old := s.reg.stores.getD [] port
      old.length < 64 →
      ∃ t, exec (.nodeStp n) s = .next t ∧ u.SameMem t ∧
        t.reg.stores.getD [] port =
          old ++ [{ node := BitVec.ofNat 8 s.nodeIx, tag := s.tag, addr := a, data := toBytes w v.toNat }] ∧
        (∀ q, q ≠ port → t.reg.stores.getD [] q = s.reg.stores.getD [] q) ∧
        s.Fired t [(0, 1), (1, 1)] (s.sent 0 [0] (abOf n)) s.nst (count 1 1)) ∧
    (∀ x o u p (steps : Word), (Instr.nodeLdl n).wf = true → accepts 0 → s.head p 0 = .data [x] →
      (s.nst = [] ∧ p = 0 ∧ steps = 0) ∨ (s.nst = [1, steps] ∧ p = 1) →
      (s.pop p 1).nodeAt via { va := x.toNat, n := 8, al := 8, k := .load } = .ok (.mem o) u →
      let v := ofBytes (u.forward port x.toNat (toBytes 8 (u.rd o 8)))
      let gives (out : List Tok) (nst : List Word) (cnt : Nat → Nat) : Prop := ∃ t, exec (.nodeLdl n) s = .next t ∧
        u.SameMem t ∧ t.reg.stores = s.reg.stores ∧ s.Fired t [(p, 1)] out nst cnt
      (n.imm.getLsbD 8 = true ∧ v = 0 → gives (s.sent 2 [endWord 0 steps.toNat false] [(n.caNode.toNat, n.caPort.toNat)]) []
        (fun j => if j = 1 then 0 else s.cnt j)) ∧
      (¬(n.imm.getLsbD 8 = true ∧ v = 0) → gives (s.sent 0 [BitVec.ofNat 64 v] (abOf n)) [1, steps + 1] (count 0 1))) ∧
    (∀ j i base f, (Instr.nodeAg n).wf = true → accepts 0 → s.reg.draining = false →
      (s.nst = [] ∧ j = 0 ∧ i = 0 ∧ s.head 0 0 = .data [base] ∧ f = 1) ∨ (s.nst = [j, i, base] ∧ f = 0) →
      let istride : Word := (BitVec.ofNat 16 (imm / 2 ^ 16)).signExtend 64
      let gives (takes : List (Nat × Nat)) (out : List Tok) (nst : List Word) (cnt : Nat → Nat) : Prop :=
        ∃ t, exec (.nodeAg n) s = .next t ∧ s.Pure t ∧ s.Fired t takes out nst cnt
      ∀ n0 : Word, s.head 1 0 = .data [n0] → n0.toNat < 2 ^ 32 →
      (n.imm.getLsbD 8 = false → j = 0 →
        (i.toNat < n0.toNat → gives [] (s.sent 0 [base + i * istride] (abOf n)) [j, i + 1, base] (count f 1)) ∧
        (n0.toNat ≤ i.toNat →
          gives [(0, 1), (1, 1)] (s.sent 2 [endWord 0 n0.toNat false] (abOf n)) [] (ends f))) ∧
      (n.imm.getLsbD 8 = true → ∀ c : Word, s.head 2 0 = .data [c] →
        let n1 := fld c 63 32
        (j.toNat < n1 → i.toNat < n0.toNat →
          gives [] (s.sent 0 [base + j * (c.setWidth 32).signExtend 64 + i * istride] (abOf n)) [j, i + 1, base] (count f 1)) ∧
        (j.toNat < n1 → n0.toNat ≤ i.toNat →
          gives [] (s.sent 2 [endWord 0 n0.toNat false] (abOf n)) [j + 1, 0, base] (ends f)) ∧
        (n1 ≤ j.toNat → gives [(0, 1), (1, 1), (2, 1)]
          (s.sent 2 [endWord 1 (n0.toNat * n1) false] (abOf n)) [] (ends f)))) ∧
    (∀ a v e m u y z, (Instr.nodeAtom n).wf = true → accepts 0 → s.reg.buffered s.tag = [] →
      s.head 0 0 = .data [a] → s.head 1 0 = .data [v] →
      let op := imm / 16 % 16
      (op = 9 → s.head 2 0 = .data [e]) →
      let w := if n.imm.getLsbD 8 then 8 else 4
      let ports := [(0, 1), (1, 1)] ++ if op = 9 then [(2, 1)] else []
      (s.took ports).nodeAt via { va := a.toNat, n := w, al := w, k := .rmw, plain := false } = .ok (.mem m) u →
      let old := u.rd m w
      let new := amoNew op (8 * w) old (v.toNat % 2 ^ (8 * w)) (e.toNat % 2 ^ (8 * w))
      let r : Word := if n.imm.getLsbD 8 then BitVec.ofNat 64 old else sextW 32 old
      ((u.memStore m (toBytes w new)).homeTakes m).emit 0 [r] (abOf n) [0, 1] = .ok () y →
      y.cut s.rid (tagIdx s.tag) = .ok () z → z.reg.runs s.tag = true →
      ∃ t, exec (.nodeAtom n) s = .next t ∧ s.Fired t ports (s.sent 0 [r] (abOf n)) s.nst (count 1 1) ∧
        t.frm.marks = s.frm.marks + 1 ∧ u.Stored y m w (BitVec.ofNat 64 new) ∧ z.SameMem t) ∧
    (∀ ps u, (Instr.nodeFence n).wf = true → accepts n.cls → s.head 0 n.cls.toNat = .data ps →
      (n.cls = 1 → ∀ p ∈ ps, digMalformed p = false ∧ digReserved p = false) →
      (n.cls = 2 → ∀ p ∈ ps, 1 ≤ ctlCode p ∧ ctlCode p ≤ 5) →
      (s.took [(0, ps.length)]).commit s.rid s.tag = .ok () u →
      ∃ t, exec (.nodeFence n) s = .next t ∧ u.SameMem t ∧ t.reg.buffered s.tag = [] ∧
        s.Fired t [(0, ps.length)] (s.sent n.cls ps (abOf n)) s.nst (count 1 1))

/-- R252, R253: control tokens at the data ports of a node of any class but control: an END, a MARK, a FLUSH, a RESET or a SWITCH at
the one data port of a node, and the ENDs that close paired streams, with MISMATCH in RSTAT or the fault of a strict node.
Where these rules leave a point open, what the model chose holds (log entry 33). -/
def Obligations.ControlTokens : Prop :=
  ∀ (s : State) (i : Instr) (o : NOp), opNode i = some o → o.raw = false → o.more s = none → s.nodeMay = true →
    s.reg.tileOf s.nodeIx ∉ s.reg.busy → (∃ i ∈ s.reg.nodesOf 0x41, i ≠ s.nodeIx ∧ i ∉ s.frm.rets) → (∀ d ∈ o.dsts, s.Accepts 2 d) →
    let fires (takes : List (Nat × Nat)) (out : List Tok) (nst : List Word) (cnt : Nat → Nat) (m : Bool) : Prop :=
      ∃ t, exec i s = .next t ∧ s.Pure t ∧ s.Fired t takes out nst cnt m
    (∀ p c v, o.ports = [(p, c)] → c ≠ 2 → s.head p c = .ctl v →
      (ctlCode v = 1 → o.own = false → fires [(p, 1)] ((upto o.dsts.length).flatMap (fun k =>
          s.sent 2 [endWord (endLevel v) (s.cnt (k + 1)) (endMism v)] [o.dsts.getD k (255, 3)])) s.nst
        (fun j => if 1 ≤ j ∧ j ≤ o.dsts.length then 0 else s.cnt j) false) ∧
      (ctlCode v = 2 ∨ (ctlCode v = 3 ∧ s.nst = []) → fires [(p, 1)] (s.sent 2 [v] o.dsts) s.nst s.cnt false) ∧
      (ctlCode v = 4 → fires [(p, 1)] (s.sent 2 [v] o.dsts) [] s.cnt false) ∧
      (ctlCode v = 5 → fires [(p, 1)] [] s.nst s.cnt false)) ∧
    (∀ es, 2 ≤ o.ports.length → o.own = false → o.reset s = none →
      (reqPorts o.opc o.n).map (fun p => s.head p (o.cls p)) = es.map Item.ctl → es ≠ [] → (∀ e ∈ es, ctlCode e = 1) →
      (∀ p ∈ o.ports, ∀ v, s.head p.1 p.2 = .ctl v → ctlCode v = 1) →
      let l := endLevel (es.getD 0 0)
      let m := es.any endMism || es.any (fun e => endLevel e != l) || s.cnt 5 == 1
      (m = false ∨ o.n.strict = false →
        fires ((reqPorts o.opc o.n).map (fun p => (p, 1))) (s.sent 2 [endWord l (s.cnt 0) m] o.dsts) s.nst
          (fun j => if j ≤ o.dsts.length ∨ j = 5 then 0 else s.cnt j) m) ∧
      (m = true → o.n.strict = true → ∀ u, s.frameFault s.rid (tagIdx s.tag) (some s.nodeIx) ⟨8, 2, 0, false, 0⟩ = .ok () u →
        exec i s = .next u))

/-- R272 to R274, R283: accumulators, and the nodes that make control tokens and constants. An accumulator keeps its sum and what it
has received; when its ENDs and as many values as they count have come, it emits the sum and an END and starts anew.
Where these rules leave a point open, what the model chose holds (log entry 33). -/
def Obligations.AccumulatorAndControlResults : Prop :=
  ∀ (s : State) (n : NodeWord), s.NodeTurn n →
    let imm := n.imm.toNat
    let accepts (cls : BitVec 2) : Prop := ∀ d ∈ abOf n, s.Accepts cls d
    let fires (i : Instr) (takes : List (Nat × Nat)) (out : List Tok) (nst : List Word) (cnt : Nat → Nat) : Prop :=
      ∃ t, exec i s = .next t ∧ s.Pure t ∧ s.Fired t takes out nst cnt
    let count (e j : Nat) : Nat := s.cnt j + if j = 0 then 1 else if 1 ≤ j ∧ j ≤ 2 then e else 0
    (let folds (i : Instr) (start : List Word) (fold : List Word → Word → List Word) (res : List Word → List Word) : Prop :=
       ∀ (sum : List Word) (c e T L v : Word), i.wf = true → accepts 0 → s.head 0 0 = .data [v] → sum.length = start.length →
         (s.nst = [] ∧ sum = start ∧ c = 0 ∧ e = 0 ∧ T = 0 ∧ L = 0) ∨ s.nst = sum ++ [c, e, T, L] →
         let x := fold sum v
         let c' := c.toNat + 1
         let met := e.toNat = imm % 256 ∧ (tbit T 63 = true ∨ fld T 62 0 ≤ c')
         let m := !tbit T 63 && decide (fld T 62 0 < c')
         c' < 2 ^ 64 →
         (¬met → fires i [(0, 1)] [] (x ++ [c + 1, e, T, L]) (count 0)) ∧
         (met → m = false ∨ n.strict = false → ∃ t, exec i s = .next t ∧ s.Pure t ∧ s.Fired t [(0, 1)]
           ((res x).flatMap (fun w => s.sent 0 [w] (abOf n)) ++ s.sent 2 [endWord L.toNat (res x).length m] (abOf n)) []
           (fun j => if 1 ≤ j ∧ j ≤ 2 then 0 else count 0 j) m)
     let f (r : FRes) : Word := BitVec.ofNat 64 r.bits
     let op (k : Nat) (start : Word) (g : Word → Word → Word) : Prop :=
       imm / 2 ^ 28 = k → folds (.nodeAcc n) [start] (fun l v => [g (l.getD 0 0) v]) id
     op 0 0 (· + ·) ∧ op 1 0x80000000 (fun x v => f (f32.fadd 0 0 (x.toNat % 2 ^ 32) (v.toNat % 2 ^ 32))) ∧
     op 2 0x7FFFFFFFFFFFFFFF (fun x v => if v.slt x then v else x) ∧
     op 3 0x8000000000000000 (fun x v => if x.slt v then v else x) ∧
     op 4 (-1) (fun x v => if v < x then v else x) ∧ op 5 0 (fun x v => if x < v then v else x) ∧
     op 6 0 (· ||| ·) ∧ op 7 (-1) (· &&& ·) ∧ op 8 0 (· ^^^ ·) ∧
     (let w : Int := toSigned 8 (imm / 256)
      folds (.nodeAccx n) [0, 0, 0, 0] (fun l v => fsumx l (fsumxOne w v)) (fun l =>
        if n.imm.getLsbD 16 then l else [f (ofFixed128 w 0 0 ((l.getD 0 0).toNat + 2 ^ 64 * (l.getD 1 0).toNat))]))) ∧
    (∀ ps, s.head 0 n.cls.toNat = .data ps →
      let takes := [(0, ps.length)]
      let c := if n.cls = 0 then (ps.getD 0 0).toNat % 2 ^ 32 else 0
      (accepts 2 → (Instr.nodeEnd n).wf = true → fires (.nodeEnd n) takes
        (s.sent 2 [endWord (imm / 256 % 256) c false] (abOf n)) s.nst (fun j => if 1 ≤ j ∧ j ≤ 2 then 0 else count 0 j)) ∧
      (accepts 2 → (Instr.nodeFlush n).wf = true → fires (.nodeFlush n) takes (s.sent 2 [3] (abOf n)) s.nst (count 0)) ∧
      (accepts 2 → (Instr.nodeReset n).wf = true → fires (.nodeReset n) takes (s.sent 2 [4] (abOf n)) s.nst (count 0)) ∧
      (accepts 0 → (Instr.nodeConst n).wf = true →
        fires (.nodeConst n) takes (s.sent 0 [n.imm.signExtend 64] (abOf n)) s.nst (count 1)) ∧
      ((Instr.nodeSwitch n).wf = true → ∃ t, exec (.nodeSwitch n) s = .next t ∧ s.SameMem t ∧
        t.reg.target = some imm ∧ t.reg.stores = s.reg.stores ∧ (s.reg.taken = [] → s.Fired t takes [] s.nst (count 0))) ∧
      ((Instr.nodeMark n).wf = true → s.Accepts n.cls (n.caNode.toNat, n.caPort.toNat) →
        s.Accepts 2 (n.cbNode.toNat, n.cbPort.toNat) →
        (n.cls = 1 → ∀ p ∈ ps, digMalformed p = false ∧ digReserved p = false) →
        (n.cls = 2 → ∀ p ∈ ps, 1 ≤ ctlCode p ∧ ctlCode p ≤ 5) →
        ∀ u, (s.took []).cut s.rid (tagIdx s.tag) = .ok () u → u.reg.runs s.tag = true →
        ∃ t, exec (.nodeMark n) s = .next t ∧ u.SameMem t ∧ t.frm.marks = s.frm.marks + 1 ∧
          s.Fired t takes (s.sent n.cls ps [(n.caNode.toNat, n.caPort.toNat)] ++
            s.sent 2 [BitVec.ofNat 64 (2 + (s.frm.marks + 1).toNat * 2 ^ 16)] [(n.cbNode.toNat, n.cbPort.toNat)]) s.nst
            (fun j => s.cnt j + if j ≤ 1 then 1 else 0)))

/-- R275 to R277: an arg node fires once for a frame and sends the argument it names; a ret node commits the frame's stores and
answers its caller on the first token; the last ret of a frame without a caller ends the frame.
Where these rules leave a point open, what the model chose holds (log entry 33). -/
def Obligations.FrameNodeResults : Prop :=
  ∀ (s : State) (n : NodeWord), s.nodeMay = true → s.reg.tileOf s.nodeIx ∉ s.reg.busy →
    let k := tagIdx s.tag
    let goesOn : Prop := ∃ i ∈ s.reg.nodesOf 0x41, i ≠ s.nodeIx ∧ i ∉ s.frm.rets
    ((Instr.nodeArg n).wf = true → goesOn → (∀ d ∈ abOf n, s.Accepts 0 d) → s.nodeIx ∉ s.frm.argsFired →
      s.reg.target = none ∨ s.frm.started = true →
      let j := n.imm.toNat
      let gives (v : Word) (u : State) : Prop := ∃ t, exec (.nodeArg n) s = .next t ∧ u.SameMem t ∧
        s.Fired t [] (s.sent 0 [v] (abOf n)) s.nst (fun i => s.cnt i + if 1 ≤ i ∧ i ≤ 2 then 1 else 0) ∧
        t.frm.argsFired = s.frm.argsFired ++ [s.nodeIx] ∧ t.reg.stores = s.reg.stores
      (s.frm.f = none → gives (if j = 8 then 0 else s.frm.args.getD j 0) s) ∧
      (∀ f, s.frm.f = some f →
        (j = 8 → gives f s) ∧
        (j < 8 → ∀ o u, s.nodeAt (.cluster s.rid)
            { va := (f + 32 + 8 * BitVec.ofNat 64 j).toNat, n := 8, al := 8, k := .load } = .ok (.mem o) u →
          gives (u.rd8 o) u))) ∧
    ((Instr.nodeRet n).wf = true → s.nodeIx ∉ s.frm.rets →
      let j := n.imm.toNat % 4
      let void := n.imm.getLsbD 4
      let marked (t : State) : Prop := t.frm.rets = s.frm.rets ++ [s.nodeIx]
      let quiet (u : State) : Prop := ∃ t, exec (.nodeRet n) s = .next t ∧ u.SameMem t ∧ marked t ∧
        s.Fired t [(0, 1)] [] s.nst s.cnt ∧ t.frm.status = s.frm.status ∧ t.frm.results = s.frm.results
      ∀ u, s.commit s.rid s.tag = .ok () u →
      (goesOn → ∀ e, s.head 0 0 = .ctl e → ctlCode e = 1 ∨ void = true → quiet u) ∧
      (goesOn → ∀ v, s.head 0 0 = .data [v] →
        (void = true ∨ (∃ w, s.frm.caller = .unit w) ∨ (∃ w, s.frm.caller = .record w ∧ ¬(j = 0 ∧ tbit w 0 = true)) → quiet u) ∧
        (void = false → ∀ w, s.frm.caller = .record w → j = 0 → tbit w 0 = true → u.reg.inflight < 4 →
          ∃ t d, exec (.nodeRet n) s = .next t ∧ marked t ∧ s.Fired t [(0, 1)] [] s.nst s.cnt ∧
            t.reg.inflight = u.reg.inflight + 1 ∧ u.SameMem t ∧
            t.timed = u.timed ++ [(u.cycle + d, .event .replyDelivery (.reply w v s.reg.ctxId (2 * s.rid + 1)))]) ∧
        (void = false → ∀ f u1 u2, s.frm.f = some f →
          let status := s.frm.status &&& ~~~(1#64 <<< j)
          u.actWrite s.rid s.reg.ctxId f (f.toNat + 96 + 8 * j) v = .ok () u1 →
          u1.actWrite s.rid s.reg.ctxId f (f.toNat + 16) status = .ok () u2 →
          let results (t : State) : Prop := exec (.nodeRet n) s = .next t ∧ u2.SameMem t ∧ marked t ∧
            t.frm.status = status ∧ t.frm.results = s.frm.results.set j v ∧ t.reg.toks = s.left [(0, 1)]
          (∀ c, s.frm.caller = .node c → ∃ t, results t ∧ s.Fired t [(0, 1)] [] s.nst s.cnt) ∧
          (∀ op key th, s.frm.caller = .thread op → s.opThread op = some (.inl key, th) →
            BitVec.ofNat 5 (10 + j) ∈ th.awaiting (.op op) → ∃ t, results t ∧ (t.thread key).rx (BitVec.ofNat 5 (10 + j)) = v ∧
              (t.thread key).isEmpty (BitVec.ofNat 5 (10 + j)) = false ∧ (t.thread key).calleeStatus = (s.thread key).calleeStatus))) ∧
      (¬goesOn → s.nodeIx ∈ s.reg.nodesOf 0x41 → (∃ w, s.frm.caller = .unit w) → s.reg.buffered s.tag = [] → s.reg.area = none →
        (∃ v, s.head 0 0 = .data [v]) → ∃ t, exec (.nodeRet n) s = .next t ∧ s.SameMem t ∧
          (t.reg.frame k).st = .free ∧ (t.reg.frame k).gen = s.frm.gen ∧ (∀ x ∈ t.reg.toks, x.tag ≠ s.frm.tag k) ∧
          ∀ q, q ≠ k → t.reg.frame q = s.reg.frame q))

/-- R278 to R281: what call, tail and hsend write and where the callee or the record goes. A T callee goes through the cluster's
Hamper; a G callee whose image the region holds starts there under the lowest free tag.
Where these rules leave a point open, what the model chose holds (log entries 6, 37). -/
def Obligations.CallNodeResults : Prop :=
  ∀ (s : State) (n : NodeWord),
    let k := tagIdx s.tag
    let goesOn : Prop := ∃ i ∈ s.reg.nodesOf 0x41, i ≠ s.nodeIx ∧ i ∉ s.frm.rets
    (∀ p f args q s1 s2 s3, (Instr.nodeCall n).wf = true → s.CallTurn p args → goesOn → s.head 1 0 = .data [f] →
      fld f 5 0 = 0 →
      let ref : CallRef := { rid := s.rid, tag := s.tag, node := BitVec.ofNat 8 s.nodeIx, f := f }
      (s.took []).nodePointer p = .ok q s1 →
      s1.nodeWriteWords f.toNat ([s.reg.image ||| 1, BitVec.ofNat 64 (s.tag.toNat + s.rid * 2 ^ 16 + s.nodeIx * 2 ^ 23), 0xF, 0]
        ++ (upto 8).map (fun i => args.getD i 0) ++ [0, 0, 0, 0]) = .ok () s2 →
      (s2.onFrm (fun g => { g with calls := g.calls ++ [ref] })).cut s.rid k = .ok () s3 → s3.reg.runs s.tag = true →
      (fld q 1 0 = 0 → ∃ t, exec (.nodeCall n) s = .next t ∧ s3.SameMem t ∧
        s.Fired t [] [] s.nst (fun j => s.cnt j + if j = 0 then 1 else 0) ∧ t.frm.calls = s.frm.calls ++ [ref] ∧
        (t.cluster s.rid).arrivals = (s3.cluster s.rid).arrivals ++ [s3.callRecord q f 2 0]) ∧
      (fld q 1 0 = 1 → s.reg.holds s.reg.ctxId (q &&& ~~~7) = true → (s3.cluster s.rid).reserved = none →
        ∀ c, s3.reg.freeTag = some c → c ≠ k → ∃ t, exec (.nodeCall n) s = .next t ∧ s3.SameMem t ∧
          t.reg.toks = s.reg.toks ∧ t.frm.calls = s.frm.calls ++ [ref] ∧
          let g := t.reg.frame c
          g.st = .live ∧ g.gen = (s3.reg.frame c).gen + 1 ∧ g.f = some f ∧ g.caller = .node ref ∧ g.status = 0xF ∧
            g.cls = s.frm.cls ∧ g.fmt = s.frm.fmt ∧ g.sca = s.frm.sca)) ∧
    (∀ p f args q s1 s2 s3 s4, (Instr.nodeTail n).wf = true → s.CallTurn p args → s.frm.f = some f → s.reg.area = none →
      s.nodePointer p = .ok q s1 → s1.nodeWriteWords (f.toNat + 32) args = .ok () s2 →
      s2.nodeWriteWords (f.toNat + 96) [0, 0, 0, 0] = .ok () s3 → s3.commit s.rid s.tag = .ok () s4 → fld q 1 0 = 0 →
      ∃ t r, exec (.nodeTail n) s = .next t ∧ s4.SameMem t ∧ (t.reg.frame k).st = .free ∧
        (∀ x ∈ t.reg.toks, x.tag ≠ s.frm.tag k) ∧ (∀ j, j ≠ k → t.reg.frame j = s.reg.frame j) ∧
        (t.cluster s.rid).arrivals = (s4.cluster s.rid).arrivals ++ [r] ∧
        (∀ c, s.frm.caller = .node c → r = s4.callRecord q f 2 0) ∧
        (∀ op w th c, s.frm.caller = .thread op → s4.opThread op = some (w, th) →
          th.callees.find? (fun q => q.1 == op) = some c → r = s4.callRecord q f 1 (replyTarget 0 c.2.2 10 false))) ∧
    (∀ a b ws h u1 u2 y z, (Instr.nodeHsend n).wf = true → s.NodeTurn n → (∀ d ∈ abOf n, s.Accepts 0 d) →
      let mode := n.imm.toNat % 4
      let ports := if mode = 2 then [(0, 1)] else [(0, 1), (1, 1)]
      s.head 0 0 = .data [a] → (mode ≠ 2 → s.head 1 0 = .data [b]) → s.reg.buffered s.tag = [] → s.reg.inflight < 4 →
      fld a 5 0 = 0 → (s.took ports).nodeWords a.toNat 8 = .ok ws u1 → recordCheck ws = none →
      (match mode with
        | 0 => b.toNat < 128 ∧ s.present b.toNat = true ∧ h = b.toNat ∧ u2 = u1
        | 1 => ∃ o, u1.nodeAt (.cluster s.rid) { va := b.toNat / 8 * 8, n := 8, al := 1, k := .load } = .ok (.mem o) u2 ∧
            h = u2.home o
        | _ => h = u1.least (dieOf s.rid) ∧ u2 = u1) →
      let r : HRecord := {
        words := u2.recordWords s.reg.ctxId ws 0, fmt := s.frm.fmt, sca := s.frm.sca, sender := 2 * s.rid + 1
        fromRegion := true, counted := true, first := none, image := a }
      ((u2.sendRecord h r).onRegion s.rid (fun g => { g with inflight := g.inflight + 1 })).emit 0 [0] (abOf n) [0, 1] =
        .ok () y →
      y.cut s.rid k = .ok () z → z.reg.runs s.tag = true →
      ∃ t, exec (.nodeHsend n) s = .next t ∧ z.SameMem t ∧
        s.Fired t ports (s.sent 0 [0] (abOf n)) s.nst (fun j => s.cnt j + if j ≤ 2 then 1 else 0) ∧
        t.reg.inflight = s.reg.inflight + 1 ∧ t.frm.marks = s.frm.marks + 1 ∧
        (t.cluster h).arrivals = (u2.cluster h).arrivals ++ [r])

/-! Events. Each statement says what an event does when its operand `ev` names a unit. -/

/-- R18, R135, R136, R148, R174, R183, R201, R202, R372, R434: what completes beside a thread's own groups. A special-function result
lands in the active elements of its destination; a completed access and an answer from elsewhere make their thread ready; a reply
fills the register that awaits it; a copy moves its last unit, ends, and fills its token with its byte count and status; an invalidation
leaves no entry that it selects, and ends once what used one has completed; a launch record is taken with its serial number, or
answered with its status, or comes again.
Where these rules leave a point open, what the model chose holds (log entries 2, 12, 23, 55). -/
def Obligations.CompletionEvents : Prop :=
  ∀ s : State,
    let gives (i : Instr) (P : State → Prop) : Prop := ∃ t, exec i s = .next t ∧ P t
    let others (t : State) (key : Nat) : Prop := ∀ k, k ≠ key → t.thread k = s.thread k
    let fills (u t : State) (id : Nat) (v : Word) : Prop := ∀ k r, r ≠ 0 →
      u.findThread (fun h => h.awaiting (.op id) != []) = some (.inl k) → (u.thread k).awaiting (.op id) = [r] →
      (t.thread k).rx r = v ∧ (t.thread k).isEmpty r = false
    let ready (key : Nat) (g : List Answer) : Thread := { s.thread key with run := .ready, rot := 0, grants := (s.thread key).grants ++ g }
    let answered (t : State) (key : Nat) (a : Answer) : Prop := if (s.thread key).flying = true then
        t.thread key = { s.thread key with grants := (s.thread key).grants ++ [a] } ∧
          .event .memoryAccessCompletion (.access key none) ∈ t.agenda
      else t.thread key = ready key [a]
    (∀ key p, s.ev = .unit key → (Tab.find key s.threads).isSome = true →
      (s.thread key).sfu.filter (fun q => decide (q.due ≤ s.cycle)) = [p] → 0 < p.width → p.width ∣ 512 →
      let old := (s.thread key).rv p.vd.toNat
      gives .sfuResult (fun t => others t key ∧ s.SameMem t ∧
        (t.thread key).sfu = (s.thread key).sfu.filter (fun q => decide (s.cycle < q.due)) ∧
        (∀ i, i < 512 / p.width → elem p.width ((t.thread key).rv p.vd.toNat).toNat i =
          elem p.width (if 64 < 512 / p.width ∨ p.mask.getLsbD i = true then p.value else old).toNat i) ∧
        ∀ q, q ≠ p.vd.toNat → (t.thread key).rv q = (s.thread key).rv q)) ∧
    (∀ key, s.ev = .access key none → (s.thread key).run = .access →
      gives .memoryAccessCompletion (fun t => others t key ∧ s.SameMem t ∧ t.thread key = ready key [] ∧
        (t.spindle (gspOf key)).ready = (s.spindle (gspOf key)).ready.filter (· != slotOf key) ++ [slotOf key])) ∧
    (∀ id a r key party, s.ev = .access id (some a) → s.remotes.find? (fun r => r.id == id) = some r →
      r.waiter = .thread key party → (s.thread key).run = .remote id →
      (a ≠ .withdrawn → gives .memoryAccessCompletion (fun t => others t key ∧ s.SameMem t ∧ answered t key a ∧
        ∀ q ∈ t.remotes, q.id ≠ id)) ∧
      (a = .withdrawn → s.mustStop (s.thread key) = false → gives .memoryAccessCompletion (fun t => others t key ∧ s.SameMem t ∧
        (t.thread key).run = .ready ∧ (t.thread key).pc = (s.thread key).pc ∧ (t.thread key).grants = (s.thread key).grants ∧
        ∀ q ∈ t.remotes, q.id ≠ id))) ∧
    (∀ w v c sender, s.ev = .reply w v c sender →
      let r := replyReg w
      let u := s.flightEnd sender
      let who := u.findThread (fun h => h.ctx == c && h.isEmpty r && Tab.find r.toNat h.awaits == some (.reply (replyKey w) (replyGen w)))
      (∀ rid, sender = 2 * rid + 1 → (u.region rid).inflight = (s.region rid).inflight - 1) ∧
      (who = none → exec .replyDelivery s = .next u) ∧
      (∀ k, who = some (.inl k) → r ≠ 0 → gives .replyDelivery (fun t => (t.thread k).rx r = v ∧ (t.thread k).isEmpty r = false ∧
        (∀ q, q ≠ r → (t.thread k).rx q = (u.thread k).rx q ∧ (t.thread k).isEmpty q = (u.thread k).isEmpty q) ∧
        ∀ j, j ≠ k → t.thread j = u.thread j))) ∧
    (∀ rid c fail, s.ev = .pair rid (2 * c.id + if fail = true then 1 else 0) →
      (s.cluster rid).copies.find? (fun x => x.id == c.id) = some c → c.far = none → s.lockBlocked rid c.id = false →
      let ends (u t : State) (done status : Nat) : Prop := (∀ x ∈ (t.cluster rid).copies, x.id ≠ c.id) ∧
        (∀ l ∈ (t.cluster rid).locks, l.id ≠ c.id) ∧ fills u t c.id (BitVec.ofNat 64 (done * 2 ^ 32 + status))
      let n := c.unit c.done
      (fail = true → gives .copyEngineRun (fun t => ends s t c.done 2)) ∧
      (fail = false → c.len ≤ c.done → gives .copyEngineRun (fun t => ends s t c.done 0)) ∧
      (fail = false → c.done + n = c.len → c.kind = .flat → ∀ o q u1 u2,
        s.engineAt rid c.ctx c.level c.party (c.dstAt c.done) n .store = (.at (.mem o), u1) →
        u1.engineAt rid c.ctx c.level c.party (c.srcAt c.done) n .load = (.at (.mem q), u2) →
        (∀ e, u2.findThread (fun h => h.awaiting (.op c.id) != []) ≠ some (.inr e)) →
        gives .copyEngineRun (fun t => ends u2 t c.len 0 ∧
          ∀ a, t.mem.read a = if o ≤ a ∧ a < o + n then u2.mem.read (q + (a - o)) else u2.mem.read a))) ∧
    (∀ id d i, s.ev = .unit id → d < 4 → (s.die d).invs.find? (fun j => j.id == id) = some i →
      (∀ e, e < d → ∀ j ∈ (s.die e).invs, j.id ≠ id) →
      let hit (e : TlbEnt) : Prop := (i.ctx = none ∨ i.ctx = some e.ctx) ∧ e.base < i.hi ∧ i.lo < e.base + e.size
      let uses := if i.lo < i.hi then s.usesOf i.ctx i.lo i.hi true else []
      let left := match i.users with
        | none => uses
        | some l => l.filter uses.contains
      (left ≠ [] → gives .tlbInvComplete (fun t => t.threads = s.threads ∧
        t.timed = s.timed ++ [(s.cycle + 1, .event .tlbInvComplete (.unit id))])) ∧
      (left = [] → gives .tlbInvComplete (fun t => (∀ j ∈ (t.die d).invs, j.id ≠ id) ∧ fills s t id 0)) ∧
      (left = [] → i.users = none → i.lo < i.hi → gives .tlbInvComplete (fun t =>
        ((∀ k l, Tab.find k t.utlb = some l → ∀ e ∈ l, ¬hit e) ∧ (∀ k, ∀ e ∈ (t.cluster k).tlb, ¬hit e) ∧
          ∀ k, ∀ e ∈ (t.die k).tlb, ¬hit e)))) ∧
    (∀ die r, s.ev = .record die r → (s.thread r.sender).run = .launching →
      let st := s.launchStatus die r.words
      let room := (s.die die).launchQ.length < 64
      (room → st ≠ 0 → gives .launchAccept (fun t => answered t r.sender (.done (BitVec.ofNat 64 st) 0) ∧
        (t.die die).launchQ = (s.die die).launchQ ∧ t.launches = s.launches)) ∧
      (room → st = 0 → gives .launchAccept (fun t =>
        answered t r.sender (.done (BitVec.ofNat 64 (s.nextSerial * 256)) 0) ∧
        (t.die die).launchQ = (s.die die).launchQ ++ [s.nextSerial] ∧ t.nextSerial = s.nextSerial + 1 ∧
        ∃ l, Tab.find s.nextSerial t.launches = some l ∧ l.words = r.words ∧ l.ctx = lCtx r.words ∧
          l.cls = min (lClass r.words) (s.prioCeil (lCtx r.words)))) ∧
      (¬room → gives .launchAccept (fun t => t.threads = s.threads ∧
        t.timed = s.timed ++ [(s.cycle + 1, .event .launchAccept (.record die r))])))

/-- R77, R82, R177, R393 to R395, R415: what the clock does to a Spindle's slots. An encoding that no table accepts raises T-ILL; a slot
of a repetition issues the buffered parcel beside the stream's group and advances; a quantum of 13 rotations ends in the ready queue, unless
that is empty; an interval withholds at most seven rotations in eight; a context that has left the slot table loses its Ply state to a
record; a slot table names at most four contexts.
Where these rules leave a point open, what the model chose holds (log entries 4, 16, 19, 41). -/
def Obligations.SlotEvents : Prop :=
  ∀ s : State,
    let gives (i : Instr) (P : State → Prop) : Prop := ∃ t, exec i s = .next t ∧ P t
    (s.Ready [] [] [] → exec .illegalEncoding s = .next (s.trapped ⟨0, 0, 0, false, 0⟩)) ∧
    (∀ u ps p rd rs1 imm, s.fetchGroup = .ok ps u → decodeParcels ps = some (.addi rd rs1 imm) →
      groupPartner (.addi rd rs1 imm) ps = none → (Instr.addi rd rs1 imm).wf = true → (Instr.vadd p).wf = true →
      u.thr.repReads = false → decodeV (u.thr.rep.buf.getD u.thr.rep.pos.toNat 0) = some (.vadd p) →
      u.Ready (rs1 :: (if p.s then [p.vs2] else [])) [rd]
        (vregs p.vs1 p.grp.n ++ (if p.s then [] else vregs p.vs2 p.grp.n) ++ vregs p.vd p.grp.n) →
      let w := intWidth p.ty
      let r := u.thr.rep
      gives .repetitionIssue (fun t => t.thr.pc = u.thr.pc + BitVec.ofNat 64 (groupLen ps) ∧
        (∀ q, t.thr.rx q = (u.thr.wx rd (u.thr.rx rs1 + imm)).rx q) ∧ u.SameMem t ∧
        u.Elems t p.vd p.grp.n w (fun i => if u.thr.act p.mask (512 * p.grp.n / w) i then
          ofInt w (u.thr.el p.vs1 p.grp.n w i + u.thr.el2 p w i) else u.thr.el p.vd p.grp.n w i) ∧
        t.thr.rep.len = r.len ∧ t.thr.rep.stride = r.stride ∧ t.thr.rep.stag = r.stag ∧
        (r.pos.toNat + 1 < r.len.toNat → t.thr.rep.pos = r.pos + 1 ∧ t.thr.rep.left = r.left ∧ t.thr.rep.buf = r.buf ∧
          t.thr.rep.active = r.active) ∧
        (r.len.toNat ≤ r.pos.toNat + 1 → t.thr.rep.pos = 0 ∧ t.thr.rep.left = r.left - 1 ∧
          (t.thr.rep.active = true ↔ r.left ≠ 1) ∧
          ∀ k, k < 16 → k < r.buf.length → t.thr.rep.buf.getD k 0 = r.stagger k (r.buf.getD k 0)))) ∧
    (∀ key, s.ev = .unit key →
      ((s.thread key).run = .rotating → 13 ≤ (s.thread key).rot → (s.thread key).beats = 0 →
        (s.spindle (gspOf key)).ready ≠ [] → gives .quantumExpiry (fun t =>
        t.thread key = { s.thread key with run := .ready, rot := 0 } ∧ (∀ k, k ≠ key → t.thread k = s.thread k) ∧ s.SameMem t ∧
        (t.spindle (gspOf key)).ready = (s.spindle (gspOf key)).ready.filter (· != slotOf key) ++ [slotOf key])) ∧
      ((s.spindle (gspOf key)).ready = [] ∨ (s.thread key).rot < 13 ∨ (s.thread key).beats ≠ 0 →
        exec .quantumExpiry s = .next s)) ∧
    gives .csaInterval (fun t => t.threads = s.threads ∧ s.SameMem t ∧ ∀ g p, Tab.find g s.spindles = some p →
      (t.spindle g).withheld ≤ 437 ∧ (t.spindle g).pos = p.pos ∧ (t.spindle g).ready = p.ready ∧
      ∀ h n, s.ev = .held h → h.find? (fun q => q.1 == g / 8) = some n → (t.spindle g).withheld = min n.2 437) ∧
    (∀ g c b k u, s.ev = .unit g → (s.spindle g).tiles = [c] → (∀ i, i < 16 → (s.spindle g).entry i = none) →
      s.isFrozen c = false → (s.spindle g).plyIdle c = true → s.plyPlace c = some (b, k, u) →
      gives .plySlotBoundary (fun t => (t.spindle g).tiles = [] ∧ (∀ kind, kind < 2 → (t.spindle g).cmds c.toNat kind = []) ∧
        (∀ m i j, m < 4 → i < 32 → j < 32 → t.acc g c.toNat m i j = 0) ∧
        t.mem = ((u.pwrWords (plyRec b k) ((s.spindle g).record g c.toNat)).pwr8 (b + 24) (BitVec.ofNat 64 (k + 1))).mem)) ∧
    (∀ g r v, s.ev = .slotWrite g r v →
      let ws := (s.spindle g).plyslot.set r.toNat (v &&& 0x8FFF8FFF8FFF8FFF)
      ((tableCtxs ws).length ≤ 4 → gives .plyslotWrite (fun t => (t.spindle g).plyslot = ws ∧
        ∀ h, h ≠ g → (t.spindle h).plyslot = (s.spindle h).plyslot)) ∧
      (4 < (tableCtxs ws).length → exec .plyslotWrite s = .next s))

/-- R279, R284, R416 to R418: the events of a region. A completion consumes the tokens parked for its call and emits the results to A
under an END that counts them, and the status to B; the sequencer's switch waits for the retirement of its configuration and gives
the carried tokens of the next one their ports; a withheld token walks again; a drain begins when its limit has passed, and ends
with the region's image in its block.
Where these rules leave a point open, what the model chose holds (log entries 35, 36). -/
def Obligations.GraphEvents : Prop :=
  ∀ s : State,
    let gives (i : Instr) (P : State → Prop) : Prop := ∃ t, exec i s = .next t ∧ P t
    (∀ c rid k n args, s.ev = .completion c →
      let ref : CallRef := { rid := c.rid, tag := c.tag, node := c.node, f := c.f }
      let f := (s.region rid).frame k
      let u : State := { s with curNode := (rid, c.node.toNat, f.tag k) }
      let a := (n.caNode.toNat, n.caPort.toNat)
      let b := (n.cbNode.toNat, n.cbPort.toNat)
      let nr := n.imm.toNat % 8
      s.regions.findSome? (fun (i, r) => (r.frames.find? (fun (_, f) => f.calls.contains ref)).map (fun q => (i, q.1))) = some (rid, k) →
      k < 256 → f.st = .live ∨ f.st = .quiescent → (s.region rid).draining = false →
      ((s.region rid).nodes[c.node.toNat]?).bind decodeNode = some (.nodeCall n) →
      (∃ i ∈ u.reg.nodesOf 0x41, i ≠ u.nodeIx ∧ i ∉ u.frm.rets) → u.Accepts 0 a → u.Accepts 0 b → u.argStream = some args →
      (∀ x ∈ u.reg.carry, x.tag ≠ u.tag) →
      gives .callCompletion (fun t => u.SameMem t ∧
        u.Fired t [(0, 1), (1, 1), (2, args.length + 1)]
          (u.sent 0 (c.res.take nr) [a] ++ u.sent 2 [endWord 0 nr false] [a] ++ u.sent 0 [c.status] [b]) u.nst
          (fun j => if j = 1 then 0 else u.cnt j + if j = 2 then 1 else 0) ∧
        ∀ x ∈ t.frm.calls, ¬(x.f = c.f ∧ x.node = c.node))) ∧
    (∀ rid p, s.ev = .unit rid →
      let r := s.region rid
      (r.target = none ∨ r.draining = true → exec .configurationSwitch s = .next s) ∧
      (r.target = some p → r.retired = false → r.draining = false →
        (∀ x ∈ r.toks, (r.frame (tagIdx x.tag)).st ≠ .quiescent) →
        gives .configurationSwitch (fun t => s.SameMem t ∧ t.threads = s.threads ∧
          let q := t.region rid
          q.rpc = r.rpc ∧ q.target = some p ∧ q.frames = r.frames ∧ q.nodes = r.nodes ∧
          (∀ i, i < 64 → (i ∈ q.taken ↔ i ∈ r.taken ∨ i ∉ r.busyTiles)) ∧
          ∀ x, (x ∈ q.toks ∨ x ∈ q.carry) ↔ (x ∈ r.toks ∨ x ∈ r.carry))) ∧
      (r.target = some p → r.retired = true → r.draining = false → r.toks = [] →
        gives .configurationSwitch (fun t => s.SameMem t ∧ t.threads = s.threads ∧
          let q := t.region rid
          q.rpc = p ∧ q.target = none ∧ q.frames = r.frames ∧ q.nodes = r.nodes ∧
          q.toks = r.carry.filter (fun x => q.here x.node.toNat) ∧ q.carry = r.carry.filter (fun x => !q.here x.node.toNat)))) ∧
    (∀ rid x, (∀ q ∈ s.images, q.2.page = none) →
      let tag := BitVec.ofNat 16 (x / 256)
      let here (w : Withheld) : Bool := w.node.toNat == x % 256 && w.tag == tag
      (s.ev = .pair (2 * rid) x → (∃ w ∈ (s.region rid).withheld, here w = true) → gives .portRewalk (fun t =>
        (t.region rid).withheld = (s.region rid).withheld.map (fun w => if here w = true then { w with again := true } else w) ∧
        t.agenda = s.agenda ++ [.fire rid (x % 256) tag] ∧ (t.region rid).failed = (s.region rid).failed)) ∧
      (s.ev = .pair (2 * rid) x → (∀ w ∈ (s.region rid).withheld, here w = false) → exec .portRewalk s = .next s) ∧
      (s.ev = .pair (2 * rid + 1) x → (∃ w ∈ (s.region rid).withheld, here w = true) →
        gives .portRewalk (fun t => (x / 2 ^ 24, x % 256, tag) ∈ (t.region rid).failed))) ∧
    (∀ rid x w, s.ev = .pair (2 * rid) x →
      (s.region rid).withheld.find? (fun w => w.node.toNat + 256 * w.tag.toNat == x) = some w → w.moving = false →
      let ends := w.since + max 1 (fld s.drainlim 15 0) * 4000
      (s.cycle < ends → gives .regionDrain (fun t => t.regions = s.regions ∧
        t.timed = s.timed ++ [(ends, .event .regionDrain (.pair (2 * rid) x))])) ∧
      (ends ≤ s.cycle → (s.region rid).draining = false → gives .regionDrain (fun t =>
        (t.region rid).draining = true ∧ (t.region rid).drain = true ∧ (t.region rid).toks = (s.region rid).toks ∧
        t.agenda = s.agenda ++ [.event .regionDrain (.pair (2 * rid + 1) x)]))) ∧
    (∀ rid x b o, s.ev = .pair (2 * rid + 1) x →
      let r := s.region rid
      r.draining = true → s.canFire rid = false → (∀ e ∈ r.remote, e.answer ≠ none) →
      (∀ w ∈ r.withheld, w.node.toNat + 256 * w.tag.toNat ≠ x) →
      (∀ q ∈ r.frames, q.1 < 256 → q.2.st ≠ .live ∧ q.2.st ≠ .quiescent) → r.area = some b →
      (∀ i, i < 2 ^ 20 → s.place (b + i) = .mem (o + i)) → r.rpc < 16 → r.toks.length + r.carry.length ≤ 65280 →
      gives .regionDrain (fun t =>
        (t.region rid).ctx = none ∧ (t.region rid).toks = [] ∧ (t.region rid).carry = [] ∧
        (∀ k, k < 256 → ((t.region rid).frame k).st = .free ∧ ((t.region rid).frame k).gen = (r.frame k).gen) ∧
        (∃ m, Tab.find b t.images = some m ∧ m.rid = rid ∧ m.ctx = r.ctxId ∧ m.page = none) ∧
        (∀ j, j < 16 → t.rd8 (o + 64 + 8 * j) = r.rcfg.getD j 0) ∧ t.rd8 (o + 192) = BitVec.ofNat 64 (r.rpc + r.rstat * 256) ∧
        t.rd8 (o + 200) = BitVec.ofNat 64 (r.toks.length + r.carry.length) ∧
        (∀ k, k < 256 → t.rd8 (o + 768 + 8 * k) = (r.frame k).cut) ∧
        ∀ i x, (r.toks ++ r.carry)[i]? = some x →
          t.rd8 (o + 4096 + 16 * i) = x.pay ∧ t.rd8 (o + 4104 + 16 * i) = x.route))

/-- R381 to R390, R376 to R379: the events of a Hamper, a dispatcher and an Itinerary. An arriving record folds into the newest that
matches, takes a free way, or spills; a refused record comes again before its sender's later ones; a reload takes the head of a
ring; a due record is dispatchable, or discarded where its context is not active; a decision claims and places an entry; a node of
an Itinerary goes to the least loaded cluster; an end counts down its successors; an abandoned instance fills DONE with 0x07.
Where these rules leave a point open, what the model chose holds (log entries 6, 15, 31, 32). -/
def Obligations.DispatchEvents : Prop :=
  ∀ s : State,
    let gives (i : Instr) (P : State → Prop) : Prop := ∃ t, exec i s = .next t ∧ P t
    (∀ rid r, s.ev = .record rid r →
      let k := s.cluster rid
      let a6 := r.words.getD 6 0
      (∀ e, k.foldInto r.words = some e → ∀ d ∈ k.records, d.num = e.num → gives .hamperArrival (fun t =>
        ∃ x ∈ (t.cluster rid).records, x.num = d.num ∧ x.arrival = d.arrival ∧ x.way = d.way ∧ x.set = d.set ∧
          x.record.fmt = d.record.fmt ∧ x.record.sca = d.record.sca ∧
          let w (j : Nat) : Word := d.record.words.getD (2 + j) 0
          let a (j : Nat) : Word := r.words.getD (2 + j) 0
          let w6 := d.record.words.getD 6 0
          let x6 := x.record.words.getD 6 0
          let op := recOp w6
          recNfold x6 = min 0xFFFF (recNfold w6 + 1) ∧ recCls x6 = max (recCls w6) (recCls a6) ∧
          x.record.words.getD 0 0 = d.record.words.getD 0 0 ∧ x.record.words.getD 1 0 = d.record.words.getD 1 0 ∧
          x.record.words.getD 7 0 = d.record.words.getD 7 0 ∧
          (op = 0x0C → ∀ j, j < 4 → x.record.words.getD (2 + j) 0 = w j + 1) ∧
          (op = 0x0F → recNslot w6 < 4 → recNslot x6 = recNslot w6 + 1 ∧
            ∀ j, j < 4 → x.record.words.getD (2 + j) 0 = if j = recNslot w6 then a 0 else w j) ∧
          (op ≠ 0x0C → op ≠ 0x0E → op ≠ 0x0F → ∀ j, j < 4 →
            let gets (v : Word) : Prop := x.record.words.getD (2 + j) 0 = v
            if recFmask w6 / 2 ^ j % 2 = 0 then gets (w j) else
            (op = 1 → gets (w j)) ∧ (op = 2 → gets (a j)) ∧ (op = 3 → gets (w j + a j)) ∧
            (op = 4 → gets (BitVec.ofInt 64 (max (-(2 ^ 63)) (min (2 ^ 63 - 1) ((w j).toInt + (a j).toInt))))) ∧
            (op = 5 → gets (if (a j).toInt < (w j).toInt then a j else w j)) ∧
            (op = 6 → gets (if (w j).toInt < (a j).toInt then a j else w j)) ∧
            (op = 7 → gets (if (a j).toNat < (w j).toNat then a j else w j)) ∧
            (op = 8 → gets (if (w j).toNat < (a j).toNat then a j else w j)) ∧
            (op = 9 → gets (w j ||| a j)) ∧ (op = 0xA → gets (w j &&& a j)) ∧ (op = 0xB → gets (w j ^^^ a j))))) ∧
      (∀ way, k.foldInto r.words = none → k.freeWay (hamperSet r.words) = some way → gives .hamperArrival (fun t =>
        (∃ x, (t.cluster rid).records = k.records ++ [x] ∧ x.way = way ∧ x.set = hamperSet r.words ∧ x.due = false ∧
          x.arrival = r.first.getD (s.cycle / 2) ∧ x.record.fmt = r.fmt ∧ x.record.sca = r.sca ∧
          (recOp a6 ≠ 0x0F → x.record.words = r.words) ∧
          (recOp a6 = 0x0F → recNslot a6 = 0 → (x.record.words.drop 2).take 4 = [r.words.getD 2 0, 0, 0, 0] ∧
            recNslot (x.record.words.getD 6 0) = 1)) ∧
        ∀ j, r.counted = true → r.sender = 2 * j + 1 → (t.region j).inflight = (s.region j).inflight - 1)) ∧
      (k.foldInto r.words = none → k.freeWay (hamperSet r.words) = none →
        (s.spillCap (recCtx a6) = none → gives .hamperArrival (fun t => s.SameMem t ∧
          (t.cluster rid).records = k.records ∧
          (t.cluster rid).refused = k.refused ++ [(s.cycle + 512, { r with first := none })])) ∧
        (∀ cap, s.spillCap (recCtx a6) = some cap → r.sender % 2 = 1 →
          let h := s.ringHead (recCtx a6) rid cap
          let tail := s.prd8 (h + 8)
          (tail - s.prd8 h).toNat < 2 ^ cap → recOp a6 ≠ 0x0F → gives .hamperArrival (fun t =>
            (t.cluster rid).records = k.records ∧ (t.cluster rid).refused = k.refused ∧
            t.mem = ((s.pwrWords (ringEntry h cap tail) (r.words.set 6 (setFld a6 4 4 1) ++ [r.fmt] ++ (upto 4).map (fun i => r.sca.getD i 0))).pwr8
              (h + 8) (tail + 1)).mem)))) ∧
    (∀ rid r, s.ev = .record rid r →
      ((∃ q ∈ (s.cluster rid).refused, q.2 = r) → gives .recordRetry (fun t =>
        (t.cluster rid).arrivals = r :: (s.cluster rid).arrivals ∧
        (t.cluster rid).refused.length + 1 = (s.cluster rid).refused.length ∧ t.threads = s.threads ∧ s.SameMem t)) ∧
      ((∀ q ∈ (s.cluster rid).refused, q.2 ≠ r) → gives .recordRetry (fun t => ∀ j, t.cluster j = s.cluster j))) ∧
    (∀ rid c cap way, s.ev = .pair rid c → c < 4096 → s.spillCap (BitVec.ofNat 12 c) = some cap →
      let k := s.cluster rid
      let h := s.ringHead (BitVec.ofNat 12 c) rid cap
      let head := s.prd8 h
      let at_ := ringEntry h cap head
      let ws := s.prdWords at_ 8
      let w6 := ws.getD 6 0
      let ws' := ws.set 6 (setFld w6 41 39
        (min (s.prioCeil (BitVec.ofNat 12 c)) (max (recCls w6) (s.lentClass (ws.getD 7 0) (BitVec.ofNat 12 c)))))
      s.prd8 (h + 8) ≠ head → k.foldInto ws' = none → k.freeWay (hamperSet ws') = some way →
      gives .hamperReload (fun t => t.mem = (s.pwr8 h (head + 1)).mem ∧ t.threads = s.threads ∧
        ∃ x, (t.cluster rid).records = k.records ++ [x] ∧ x.way = way ∧ (recOp w6 ≠ 0x0F → x.record.words = ws') ∧
          x.record.fmt = s.prd8 (at_ + 64) ∧ x.record.sca = s.prdWords (at_ + 72) 4)) ∧
    (∀ rid num e, s.ev = .pair rid num → (s.cluster rid).records.find? (fun e => e.num == num) = some e →
      let linger := e.arrival + 256 * recLinger (e.record.words.getD 6 0)
      let live := s.ctxActive (recCtx (e.record.words.getD 6 0))
      linger ≤ s.cycle / 2 →
      (live = true → e.due = false → gives .recordDue (fun t =>
        (∃ x, (t.cluster rid).entries = (s.cluster rid).entries ++ [x] ∧ x.what = .record num ∧ x.arrival = e.arrival ∧ x.cls = e.cls) ∧
        ∀ d ∈ (t.cluster rid).records, d.num = num → d.due = true)) ∧
      (live = false → (s.cluster rid).claimed num = false → gives .recordDue (fun t => (∀ d ∈ (t.cluster rid).records, d.num ≠ num) ∧
        (∀ x ∈ (t.cluster rid).entries, x.what ≠ .record num) ∧ t.threads = s.threads))) ∧
    (∀ rid x h p d i u v, s.ev = .unit rid → (s.cluster rid).entries = [x] → (s.cluster rid).reserved = none → x.cls < 8 →
      x.what = .record h.num → (s.cluster rid).records.find? (fun e => e.num == h.num) = some h →
      let w (j : Nat) : Word := h.record.words.getD j 0
      let c := recCtx (w 6)
      (∀ e ∈ (s.cluster rid).records, e.due = true → s.ctxActive (recCtx (e.record.words.getD 6 0)) = true) →
      (s.ctx c).saved = false → (s.ctx c).saving = false → s.admits c = true → recCall (w 6) = 0 →
      (s.onCluster rid (fun k => { k with reserved := none })).entryOf rid c (w 1) = .ok p u → fld p 1 0 = 0 → u.dispatchWord rid c p = .ok d v → dispatchSize d = some (1, 0) →
      v.plan rid c 0 true none [1] [] = some [(i, 1)] →
      let g := 8 * rid + i
      gives .dispatchDecision (fun t =>
        (t.cluster rid).entries = [] ∧ (∀ e ∈ (t.cluster rid).records, e.num ≠ h.num) ∧
        (t.cluster rid).decisions = (v.cluster rid).decisions + 1 ∧
        let n := t.thread (16 * g + (v.freeSlots g).headD 0)
        n.pc = (p &&& ~~~7) ∧ n.ctx = c ∧ n.cls = min x.cls (s.prioCeil c) ∧ n.run = .ready ∧ n.fmt = h.record.fmt ∧
        n.level = (if c = 0 then .supervisor else .user) ∧ n.empty = 0 ∧
        n.rx 4 = BitVec.ofNat 64 (0x00FFFFFFFFE00000 + i * 0x40000) ∧ n.rx 10 = w 2 ∧ n.rx 11 = w 3 ∧ n.rx 12 = w 4 ∧
        n.rx 13 = w 5 ∧ n.rx 14 = w 0 ∧ n.rx 15 = w 7 ∧ n.rx 16 = w 6 ∧ n.rx 2 = 0)) ∧
    (∀ n d i ns (m : INode) u v, s.itin? n = some (d, i) → s.itNodes d i.ctx i.head = .ok ns u → i.next ns = some m → s.ev = .pair n m.ix →
      let sent (t : State) (firing : Nat) : Prop := t.mem = v.mem ∧
        (∃ x, (t.cluster (v.least d)).entries = (v.cluster (v.least d)).entries ++ [x] ∧ x.what = .itin i.serial m.ix firing ∧
          x.cls = min (nodeClass ns m.ix) (v.prioCeil i.ctx)) ∧
        ∃ j ∈ (t.die d).itins, j.serial = i.serial ∧ (m.ix, firing) ∈ j.running
      (m.fixed = false → u.itPut d i.ctx i.head { m with st := 1 } = .ok () v → i ∈ (v.die d).itins →
        gives .itinNodeDispatch (fun t => sent t 0)) ∧
      (m.fixed = true → exec .itinNodeDispatch s = .next u) ∧
      (m.fixed = true → ∀ v1, i ∈ (v.die d).itins →
        u.itPut d i.ctx i.head { m with st := 1, avail := if m.fpred = 0 then m.avail + 1 else m.avail - m.rin } = .ok () v1 →
        v1.itChanges d i.ctx i.head (fun x => { x with infl := x.infl + m.rout }) (m.fixedSuccs ns) = .ok () v →
        gives .itinFixedFiring (fun t => sent t (i.fired.getD 0 m.ix)))) ∧
    (∀ n d i ns (m : INode) firing u v, s.itin? n = some (d, i) → s.itNodes d i.ctx i.head = .ok ns u → ns[m.ix]? = some m → firing < 2 ^ 32 →
      s.ev = .pair n (m.ix * 2 ^ 32 + firing) → (m.ix, firing) ∈ i.running →
      (if m.fixed = true then
          (if m.st = 3 ∧ (∀ q ∈ i.parked, q.1 = m.ix → q.2 = firing) then u.itChange d i.ctx i.head m.ix (fun x => { x with st := 1 })
            else .ok () u).bind (fun _ y =>
            y.itChanges d i.ctx i.head (fun x => { x with infl := x.infl - m.rout, avail := x.avail + m.rout }) (m.fixedSuccs ns))
        else (u.itChange d i.ctx i.head m.ix (fun x => { x with st := 2 })).bind (fun _ y =>
          y.itChanges d i.ctx i.head (fun x => { x with left := x.left - 1 }) m.succs)) = .ok () v →
      gives .itinNodeDone (fun t => t.mem = v.mem ∧ ∀ j ∈ (t.die d).itins, j.serial = n → (m.ix, firing) ∉ j.running)) ∧
    (∀ n d i l u, s.ev = .unit n → s.itin? n = some (d, i) → s.itinIdle d i = true → Tab.find n s.launches = some l →
      s.doneFill l 0x07 = .ok () u → gives .itineraryInstanceAbandon (fun t => t.mem = u.mem ∧ Tab.find n t.launches = none ∧
        (∀ j ∈ (t.die d).itins, j.serial ≠ n) ∧ ∀ k, ∀ e ∈ (t.cluster k).entries, ∀ j f, e.what ≠ .itin n j f)) ∧
    (∀ n d i, s.ev = .unit n → s.itin? n = some (d, i) → s.itinIdle d i = false → exec .itineraryInstanceAbandon s = .next s)

/-- R360, R361, R422, R423, R427 to R429: the events of storage. A page that was read goes into its frame, full, its sixteen entries
and its slot are installed, and a thread that waited issues again; a Read or a Write that fails is tried once more, then reported;
a migration takes a frame of the target's reserve, copies the page with its full/empty bits, and exchanges the entry for one that
names the new frame; a drained party goes into a block of its context's pool, or stays, and one that stays runs on when its last
page has come; a queued party comes back from its block.
Where these rules leave a point open, what the model chose holds (log entries 23, 39, 42, 43, 59). -/
def Obligations.StorageEvents : Prop :=
  ∀ s : State,
    let gives (i : Instr) (P : State → Prop) : Prop := ∃ t, exec i s = .next t ∧ P t
    let apart (a n b m : Nat) : Prop := a + n ≤ b ∨ b + m ≤ a
    let reads (d : Nat) (q : PageReq) (id : Nat) : Prop :=
      (upto 4).findSome? (fun d => ((s.die d).reqs.find? (fun q => q.reading && q.id == id)).map (fun q => (d, q))) = some (d, q) ∧
      (s.die d).reqs = [q] ∧ (s.die d).reqWait = []
    (∀ id d q slot data o pe sa, s.ev = .storage id 0 data → reads d q id → q.waiters = [] → q.slot = some slot →
      data.length = 65536 →
      let frame := fld (s.prd8 (s.slotAddr d slot)) 51 16 * 65536
      let v : State := { s with mem := s.mem.writeN o data }
      s.place frame = .mem o → o % 65536 = 0 → pe % 8 = 0 → (∀ j, j < 128 → s.place (q.entry + j) = .mem (pe + j)) →
      (∀ j, j < 32 → s.place (s.slotAddr d slot + j) = .mem (sa + j)) → apart o 65536 pe 128 → apart o 65536 sa 32 →
      apart pe 128 sa 32 → (∀ i, i < 16 → s.rd8 (pe + 8 * i) = q.pte) →
      gives .ramblerReadComplete (fun t =>
        (t.die d).reqs = [] ∧ (∀ i, i < 65536 → t.mem.read (o + i) = data.getD i 0) ∧
        (∀ i, i < 8192 → t.isFull (o + 8 * i) = true) ∧
        (∀ i, i < 16 → t.rd8 (pe + 8 * i) =
          (let e := (q.pte &&& ~~~0x7E0FFFFFFFFFF0C0) ||| BitVec.ofNat 64 frame ||| 0x0080000000000000
           if fld (v.bdWord q.pte 2) 40 40 = 1 then e else e &&& ~~~8)) ∧
        t.rd8 sa = ((s.rd8 sa &&& ~~~3) ||| 1) ∧ t.rd8 (sa + 8) = BitVec.ofNat 64 (q.ctx.toNat * 2 ^ 52 + q.entry) ∧
        t.rd8 (sa + 16) = q.pte)) ∧
    (∀ id d q data key p a j, s.ev = .storage id 0 data → reads d q id → q.waiters = [.thread key p] → s.party? p = some a →
      a.pend = [q.entry] → a.keys = [(j, key)] → (s.thread key).run = .page q.entry →
      (a.swap = .staying → gives .ramblerReadComplete (fun t => (t.thread key).run = .ready ∧
        ∃ b, t.party? p = some b ∧ b.swap = .running ∧ b.pend = [])) ∧
      (a.swap = .draining → gives .ramblerReadComplete (fun t => t.thread key = s.thread key ∧
        ∃ b, t.party? p = some b ∧ b.swap = .draining ∧ b.pend = []))) ∧
    (∀ id d q data st, s.ev = .storage id st data → st ≠ 0 → reads d q id →
      (q.retried = false → gives .ramblerReadComplete (fun t => s.SameMem t ∧ t.threads = s.threads ∧
        (t.die d).reqs = [{ q with retried := true, id := s.nextId }] ∧
        (s.bdPortUp q.pte = false → t.timed = s.timed ++ [(s.cycle + 1, .event .ramblerReadComplete (.unit s.nextId))]))) ∧
      (q.retried = true → q.waiters = [] → q.slot = none → gives .ramblerReadComplete (fun t => (t.die d).reqs = []))) ∧
    (∀ g x k c, s.ev = .pair g (2 * x) → (s.spindle g).findCmd x = some (k, c) → c.st ≠ .filling → gives .ramblerReadComplete (fun t =>
      t.agenda = s.agenda ++ [.command g (k / 2) (k % 2)] ∧ s.SameMem t)) ∧
    (∀ id d e st data sa, s.ev = .storage id st data →
      (upto 4).findSome? (fun d => ((s.die d).evicts.find? (fun e => e.id == id)).map (fun e => (d, e))) = some (d, e) →
      e.cmd ≠ none → (s.die d).evicts = [e] → (s.die d).reqs = [] →
      (st = 0 → (∀ j, j < 32 → s.place (s.slotAddr d e.slot + j) = .mem (sa + j)) → gives .ramblerWriteComplete (fun t =>
        (t.die d).evicts = [] ∧ t.rd8 sa = (s.rd8 sa &&& ~~~3))) ∧
      (st ≠ 0 → e.retried = false → gives .ramblerWriteComplete (fun t =>
        (t.die d).evicts = [{ e with retried := true, id := s.nextId }] ∧ s.SameMem t)) ∧
      (st ≠ 0 → e.retried = true → gives .ramblerWriteComplete (fun t => (t.die d).evicts = [] ∧ (t.die d).rbErr ≠ 0))) ∧
    (∀ c va die lvl a e frame u, s.ev = .migrate c va die → s.walkVa die c va.toNat = .leaf lvl a e →
      let size := pageSize (ptePS e)
      let base := va.toNat / size * size
      let rc := rootCtx c va.toNat
      let src := s.dieAt (field (pteADDR e) 41 0)
      (s.reservesOk src die = false → exec .migrationBegin s = .next s) ∧
      (s.migratable e die = true → s.reservesOk src die = true → (∀ m ∈ s.migrations, ¬(m.ctx = rc ∧ m.va = base)) → ptePS e ≠ 1 →
        s.prd8 a = e → s.resTake die (ptePS e) = some (frame, u) →
        gives .migrationBegin (fun t => t.mem = u.mem ∧
          (∃ m, t.migrations = u.migrations ++ [m] ∧ m.ctx = rc ∧ m.va = base ∧ m.size = size ∧ m.old = pteADDR e ∧
            m.new = frame ∧ m.src = src ∧ m.dst = die ∧ m.st = .invalidating ∧ m.waiters = []) ∧
          let hit (x : TlbEnt) : Prop := x.ctx = rc ∧ x.base < base + size ∧ base < x.base + x.size
          (∀ k l, Tab.find k t.utlb = some l → ∀ x ∈ l, ¬hit x) ∧ (∀ k, ∀ x ∈ (t.cluster k).tlb, ¬hit x) ∧
          ∀ k, ∀ x ∈ (t.die k).tlb, ¬hit x))) ∧
    (∀ id m, s.ev = .unit id → s.migrations.find? (fun m => m.id == id && m.st == .invalidating) = some m → s.memOk →
      let left := m.users.filter (s.usesOf (some m.ctx) m.va (m.va + m.size) false).contains
      (left ≠ [] → gives .migrationCopy (fun t => s.SameMem t ∧ t.threads = s.threads ∧
        t.timed = s.timed ++ [(s.cycle + 1, .event .migrationCopy (.unit id))])) ∧
      (left = [] →
      let a := s.frameOff m.old
      let b := s.frameOff m.new
      a % 8 = 0 → b % 8 = 0 → apart a m.size b m.size → gives .migrationCopy (fun t =>
        (∀ i, i < m.size → t.mem.read (b + i) = s.mem.read (a + i)) ∧
        (∀ x, x < b ∨ b + m.size ≤ x → t.mem.read x = s.mem.read x) ∧
        (∀ i, 8 * i < m.size → t.isFull (b + 8 * i) = s.isFull (a + 8 * i)) ∧
        ∀ x ∈ t.migrations, x.id = id → x.st = .copying))) ∧
    (∀ id m e key p pe ra, s.ev = .unit id → s.migrations.find? (fun m => m.id == id && m.st == .copying) = some m →
      m.ptes = [e] → m.waiters = [.thread key p] → (s.thread key).run = .page m.entry → (s.thread key).party = p →
      let n := (s.die m.src).resCount
      n + 1 < 2 ^ 32 → (∀ j, j < 8 → s.place (m.entry + j) = .mem (pe + j)) →
      (∀ j, j < 8 → s.place (s.resAt m.src n + j) = .mem (ra + j)) → apart pe 8 ra 8 →
      gives .migrationInstall (fun t => (∀ x ∈ t.migrations, x.id ≠ id) ∧ (t.thread key).run = .ready ∧
        (s.rd8 pe = e → t.rd8 pe = ((e &&& ~~~0x000FFFFFFFFFF000) ||| BitVec.ofNat 64 m.new) ∧
          (t.die m.src).resCount = n + 1 ∧ t.rd8 ra = BitVec.ofNat 64 (m.old + ptePS e)))) ∧
    (∀ p a, s.ev = .unit p → s.party? p = some a → a.swap = .draining → s.partySavable p a = true →
      (s.ctx a.ctx).saving = false → a.block = none →
      (s.takeBlock a.ctx = none → s.poolError a.ctx = none → a.pend ≠ [] → gives .partySwapOut (fun t => s.SameMem t ∧ t.threads = s.threads ∧
        t.party? p = some { a with swap := .staying })) ∧
      (s.takeBlock a.ctx = none → s.poolError a.ctx = none → a.pend = [] → gives .partySwapOut (fun t => s.SameMem t ∧
        t.party? p = some { a with swap := .running })) ∧
      (∀ b u o j key, s.takeBlock a.ctx = some (b, u) → s.awaitsSlot a = false → a.keys = [(j, key)] →
        (s.thread key).party = p → (s.thread key).pidx.toNat = j → (∀ i, i < 2 ^ 20 → s.place (b + i) = .mem (o + i)) → a.pend ≠ [] →
        gives .partySwapOut (fun t => Tab.find key t.threads = none ∧
          (∃ c, t.party? p = some c ∧ c.swap = .out ∧ c.block = some b ∧ c.keys = [] ∧ c.pend = a.pend ∧
            ∃ e, c.saved = a.saved ++ [e] ∧ e.key = key ∧ e.area = b + 4096 + 3072 * j) ∧
          let at_ := o + 4096 + 3072 * j
          (∀ r : Reg, t.rd8 (at_ + 8 * r.toNat) = (s.thread key).rx r) ∧ t.rd8 (at_ + 2424) = (s.thread key).pc ∧
          ∀ r q, r < 32 → q < 8 → t.rd8 (at_ + 272 + 64 * r + 8 * q) = ((s.thread key).rv r).extractLsb' (64 * q) 64))) ∧
    (∀ p a b o e, s.ev = .unit p → s.party? p = some a → a.swap = .queued → s.partyFits a = true → a.block = some b → a.saved = [e] →
      a.keys = [] → (∀ i, i < 2 ^ 20 → s.place (b + i) = .mem (o + i)) → e.area = areaAddr b e.rest.pidx.toNat →
      s.stillStopped e = false → s.poisoned = [] → (∀ i, e.rest.run ≠ .barrier i) →
      gives .partySwapIn (fun t =>
        (∃ c, t.party? p = some c ∧ c.swap = .running ∧ c.block = none ∧ c.saved = [] ∧ c.pend = []) ∧
        let n := t.thread (16 * gspOf e.key + (s.freeSlots (gspOf e.key)).headD 0)
        let at_ := o + 4096 + 3072 * e.rest.pidx.toNat
        (∀ r : Reg, r ≠ 0 → n.rx r = s.rd8 (at_ + 8 * r.toNat)) ∧ n.pc = s.rd8 (at_ + 2424) ∧ n.run = .ready ∧
        n.ctx = e.rest.ctx))

/-- R288, R398, R411, R412: the context commands. SAVE stops the context's dispatch and ends when no party, region or Ply state of it is
left to save; RESUME queues what is held; FREEZE clears ACTIVE, drops what runs and posts a notice; REINJECT sets a faulted frame
going with the tokens of its record; ABANDON frees it and poisons the results of the thread that called it.
Where these rules leave a point open, what the model chose holds (log entries 38, 40). -/
def Obligations.ContextEvents : Prop :=
  ∀ (s : State) (c : BitVec 12),
    let gives (i : Instr) (P : State → Prop) : Prop := ∃ t, exec i s = .next t ∧ P t
    let ended (t : State) (result : Nat) : Prop := t.ctxcmd = ((s.ctxcmd &&& 0xFFFF) ||| BitVec.ofNat 64 (result * 2 ^ 16))
    (s.ev = .ctx c →
      gives .ctxcmdSave (fun t => (t.ctx c).saving = true ∧ t.agenda = s.agenda ++ [.event .saveComplete (.ctx c)] ∧
        t.threads = s.threads ∧ s.SameMem t) ∧
      ((s.ctx c).saving = true → (∀ q ∈ s.parties, q.2.ctx ≠ c) → (∀ q ∈ s.regions, q.2.ctx ≠ some c) →
        (∀ q ∈ s.spindles, q.2.hasPly c = false) → gives .saveComplete (fun t =>
          (t.ctx c).saved = true ∧ (t.ctx c).saving = false ∧ ended t 0 ∧ t.threads = s.threads ∧ s.SameMem t)) ∧
      (∀ p a, s.partiesOf c = [(p, a)] → s.party? p = some a → s.regionsOf c = [] → a.held = false → a.swap = .running →
        s.partySavable p a = false → gives .saveComplete (fun t => t.ctxcmd = s.ctxcmd ∧ (t.ctx c).saving = (s.ctx c).saving)) ∧
      (∀ p a, s.partiesOf c = [(p, a)] → s.party? p = some a → a.held = true → a.swap = .running →
        gives .ctxcmdResume (fun t => (t.ctx c).saved = false ∧ ended t 0 ∧
          (∃ b, t.party? p = some b ∧ b.held = false ∧ b.swap = .queued) ∧
          ∃ x ∈ (t.cluster a.rid).entries, x.what = .resume p ∧ x.cls = min a.cls (s.prioCeil c))) ∧
      (s.faultedAt c s.ctxarg = none → gives .ctxcmdReinject (fun t => ended t 2 ∧ t.regions = s.regions ∧ s.SameMem t) ∧
        gives .ctxcmdAbandon (fun t => ended t 2 ∧ t.regions = s.regions ∧ s.SameMem t)) ∧
      (∀ rid k, s.faultedAt c s.ctxarg = some (.inl rid, k) → k < 256 →
        let r := s.region rid
        let f := r.frame k
        let toks := s.cutRead f.cut.toNat
        let cause := s.prd8 (f.cut.toNat + 16)
        let status := BitVec.ofNat 64 (fld cause 63 32 * 2 ^ 32 + fld cause 31 24 * 2 ^ 16 + fld cause 11 8 * 2 ^ 8 + 16)
        (r.nodes ≠ [] →
          (∀ i, i < fld (s.prd8 f.cut.toNat) 47 32 →
            tokBad r (f.tag k) (s.prd8 (f.cut.toNat + 32 + 16 * i)) (s.prd8 (f.cut.toNat + 40 + 16 * i)) = false) →
          (∀ x ∈ toks, x.tag = f.tag k ∧ x.port ≠ 3 ∧ r.here x.node.toNat = true ∧ ∃ o m q, r.node x.node.toNat = some (o, m) ∧
            (dataPorts o m).find? (fun p => p.1 == x.port.toNat) = some (x.port.toNat, q) ∧ (x.cls = 2 ∨ q = x.cls.toNat)) →
          (∀ x ∈ toks, (x.cls = 1 → digMalformed x.pay = false ∧ digReserved x.pay = false) ∧
            (x.cls = 2 → 1 ≤ ctlCode x.pay ∧ ctlCode x.pay ≤ 5 ∧ ctlClean x.pay = x.pay)) →
          gives .ctxcmdReinject (fun t => ended t 0 ∧ ((t.region rid).frame k).st = .live ∧ ((t.region rid).frame k).nst = [] ∧
            (t.region rid).toks = r.toks ++ toks ∧ s.SameMem t)) ∧
        (∀ w, f.caller = .record w → gives .ctxcmdAbandon (fun t => ended t 0 ∧ ((t.region rid).frame k).st = .free ∧
          ((t.region rid).frame k).gen = f.gen)) ∧
        (∀ op a u key th, f.caller = .thread op → f.f = some a →
          (s.sequencer rid).actWrite rid r.ctxId a (a.toNat + 16) status = .ok () u → u.opThread op = some (.inl key, th) →
          gives .ctxcmdAbandon (fun t => ended t 0 ∧ ((t.region rid).frame k).st = .free ∧ (t.thread key).poison = 15 ∧
            (t.thread key).calleeF = a ∧ (t.thread key).calleeStatus = status)))) ∧
    (∀ kind cls, s.ev = .freeze c kind cls →
      (s.isFrozen c = true → exec .ctxcmdFreeze s = .next s) ∧
      (s.isFrozen c = false → (∀ key, (s.thread key).flying = false ∨ (s.thread key).grants = []) →
        gives .ctxcmdFreeze (fun t => (t.ctx c).frozen = true ∧ (∀ q ∈ t.parties, q.2.ctx ≠ c) ∧ (∀ q ∈ t.images, q.2.ctx ≠ c) ∧
          t.notices = s.notices ++ [BitVec.ofNat 64 (c.toNat * 2 ^ 52 + kind * 2 ^ 12 + cls % 16)]) ∧
        (kind = 0xF → ¬(tbit s.ctxcmd 63 = true ∧ fld s.ctxcmd 15 12 = 1 ∧ BitVec.ofNat 12 (fld s.ctxcmd 11 0) = c) →
          gives .ctxcmdFreeze (fun t => ended t 0)) ∧
        (∀ o, s.threads = [] → s.spindles = [] → s.clusters = [] → s.regions = [] → (s.ctx c).plyBlocks = [] →
          (∀ j, j < 8 → s.place (s.descAddr c 0 + j) = .mem (o + j)) → gives .ctxcmdFreeze (fun t =>
            t.ctxActive c = false ∧ t.rd8 o = (s.rd8 o &&& ~~~1)))))

/-- R431 to R435, R437 to R444: the events of the Utsen ports and of the host link.
Where these rules leave a point open, what the model chose holds (log entries 44, 45, 46). -/
def Obligations.LinkEvents : Prop :=
  ∀ s : State,
    let gives (i : Instr) (P : State → Prop) : Prop := ∃ t, exec i s = .next t ∧ P t
    let port (t : State) (p : Nat) : Word := t.uport.getD 0 p
    (∀ p, s.ev = .unit p →
      (p < 18 → gives .uportRead (fun t => port t p = (port s p &&& 1) ∧ ∀ q, q ≠ p → port t q = port s q)) ∧
      (p < 18 → s.devnum ≠ none → s.boot.recovery = false → gives .utsenPortUp (fun t =>
        port t p = (port s p ||| 1) ∧ t.boot.trained = true ∧ t.threads = s.threads ∧ s.SameMem t)) ∧
      (s.devnum = none ∨ s.boot.recovery = true → exec .utsenPortUp s = .next s) ∧
      (∀ r key q, p < 18 → s.remotes = [r] → r.port = some p → r.waiter = .thread key q → (s.thread key).run = .remote r.id →
        gives .utsenPortDown (fun t => port t p = (port s p &&& ~~~1) ∧ t.remotes = [] ∧
          let g := (s.thread key).grants ++ [.lost]
          t.thread key = if (s.thread key).flying = true then { s.thread key with grants := g }
            else { s.thread key with run := .ready, rot := 0, grants := g })) ∧
      (p < 18 → (∀ r ∈ s.remotes, r.port ≠ some p) → gives .utsenPortDown (fun t =>
        port t p = (port s p &&& ~~~1) ∧ t.remotes = s.remotes ∧ t.threads = s.threads))) ∧
    (∀ p again, s.ev = .pair p again → p < 18 → tbit (port s p) 0 = true → (∀ r ∈ s.remotes, r.port ≠ some p) →
      let n := (if again = 0 then 0 else s.uportFails.getD 0 p) + 1
      gives .flitRetransmit (fun t => fld (port t p) 31 16 = min 0xFFFF (fld (port s p) 31 16 + 1) ∧
        (tbit (port t p) 0 = true ↔ n ≤ 16) ∧ t.threads = s.threads)) ∧
    (∀ q, s.ev = .utsen q →
      let w (i k : Nat) : Word := s.uimport.getD 0 (4 * i + k)
      let perm (i b : Nat) : Prop := tbit (w i 0) b = true
      let fits (i n : Nat) : Prop := tbit (w i 0) 63 = true ∧ fld (w i 0) 31 22 = q.dev.toNat ∧ fld (w i 0) 11 0 = q.ctx.toNat ∧
        (w i 1).toNat ≤ q.off ∧ q.off + n ≤ (w i 2).toNat + 1
      let ok (n b : Nat) : Prop := ∃ i, i < 1024 ∧ fits i n ∧ perm i b
      let tells (a : Answer) (t : State) : Prop := t.answersOut = s.answersOut ++ [(s.nextId, a)]
      let here := s.inStacks q.off = true ∧ s.isPoisoned q.off (opSize q.op) = false
      (∀ n, q.op = .read n → (¬ok n 62 → gives .utsenRequest (fun t => tells .refused t ∧ s.SameMem t)) ∧
        (ok n 62 → here → gives .utsenRequest (fun t => tells (.data (s.mem.readN q.off n)) t ∧ s.SameMem t))) ∧
      (∀ bs, q.op = .write bs → (¬ok bs.length 61 → gives .utsenRequest (fun t => tells .refused t ∧ s.SameMem t)) ∧
        (ok bs.length 61 → here → gives .utsenRequest (fun t => tells (.done 0 0) t ∧
          ∀ a, t.mem.read a = if q.off ≤ a ∧ a < q.off + bs.length then bs.getD (a - q.off) 0 else s.mem.read a))) ∧
      (∀ n0 n1 e0 e1, q.op = .cas2 n0 n1 e0 e1 → ok 16 60 → here →
        let a := s.rd8 q.off
        let b := s.rd8 (q.off + 8)
        gives .utsenRequest (fun t => tells (.done a b) t ∧
          (a = e0 → b = e1 → t.rd8 q.off = n0 ∧ t.rd8 (q.off + 8) = n1) ∧ (¬(a = e0 ∧ b = e1) → s.SameMem t))) ∧
      (∀ empty, q.op = .feLoad empty → ok 8 60 → here → q.off % 8 = 0 → (∀ x ∈ (s.cluster (s.home q.off)).waits, x.addr ≠ q.off) →
        (s.isFull q.off = true → gives .utsenRequest (fun t => tells (.done (s.rd8 q.off) 0) t ∧ t.isFull q.off = !empty ∧
          ∀ a, t.mem.read a = s.mem.read a)) ∧
        (s.isFull q.off = false → (s.cluster (s.home q.off)).waits.length < 1024 → gives .utsenRequest (fun t =>
          t.answersOut = s.answersOut ∧ t.remoteWaits = s.remoteWaits ++ [s.nextId] ∧ s.SameMem t))) ∧
      (q.op = .pop → gives .utsenRequest (fun t => tells .refused t ∧ s.SameMem t))) ∧
    (∀ n d l, s.ev = .pair n d → Tab.find n s.launches = some l → gives .utsenRequest (fun t =>
      Tab.find n t.launches = some { l with remoteLeft := l.remoteLeft - 1 })) ∧
    (s.boot.recovery = true → (∀ a, s.ev = .host a → exec .hostWindowAccess s = .next s) ∧
      ∀ o v, s.ev = .regWrite (0xF000000000 + o) v → o ≤ 0x3FFF → s.inStacks (0xF000000000 + o) = false →
        exec .platformRegisterWrite s = .next s) ∧
    (∀ a, s.ev = .host a → a.off < 0x10000000 → s.boot.recovery = false →
      let o := s.cwbase.toNat + a.off
      (a.write = true → a.off % 64 + a.data.length ≤ 64 → gives .hostWindowAccess (fun t =>
        (∀ x, t.mem.read x = if o ≤ x ∧ x < o + a.data.length then a.data.getD (x - o) 0 else s.mem.read x) ∧
        t.hostReads = s.hostReads)) ∧
      (a.write = false → a.off % 64 + a.len ≤ 64 → gives .hostWindowAccess (fun t =>
        t.hostReads = s.hostReads ++ [s.mem.readN o a.len] ∧ s.SameMem t))) ∧
    (∀ h, s.ev = .unit h →
      let l := h / 64 * 64
      gives .hostSnoop (fun t => s.SameMem t ∧ t.threads = s.threads ∧ Tab.find l t.aper = none ∧ l ∉ t.hardMod ∧
        t.snoopAnswers = s.snoopAnswers ++ [(l, if l ∈ s.hardMod then 2 else if Tab.find l s.aper = none then 0 else 1)])) ∧
    (∀ rate width, s.ev = .pair rate width →
      (1 ≤ rate → rate ≤ 6 → width = 1 ∨ width = 2 ∨ width = 4 → gives .hostLinkTraining (fun t =>
        t.linkRate = rate ∧ t.linkWidth = width ∧ ∀ v, (v ∈ t.msixPend ↔ v ∈ s.msixPend ∧ tbit (s.msix.getD 0 (2 * v + 1)) 32 = true) ∧
          (v ∈ s.msixPend → tbit (s.msix.getD 0 (2 * v + 1)) 32 = false → v ∈ t.msixSent))) ∧
      (rate = 0 ∨ 6 < rate → exec .hostLinkTraining s = .next s)) ∧
    (∀ page, s.ev = .unit page →
      let line (l : Nat) : Prop := (s.cwbase.toNat + 4096 * page) / 64 ≤ l ∧ l < (s.cwbase.toNat + 4096 * page) / 64 + 64
      (s.flipRuns page false = true → gives .biasFlipHost (fun t => page ∈ t.hostBias ∧ s.SameMem t ∧
        t.biascmd = (s.biascmd &&& 0x1FFFF) ∧ (∀ l, line l → Tab.find l t.dir = none ∧ Tab.find l t.stashed = none) ∧ t.flipWaits = [] ∧
        ∀ key p, s.flipWaits = [.thread key p] → (s.thread key).party = p → (s.thread key).run = .page flipEntry →
          (t.thread key).run = .ready)) ∧
      (s.flipRuns page false = false → exec .biasFlipHost s = .next s)) ∧
    (∀ page, s.ev = .flip page [] → s.flipRuns page.toNat true = true → (∀ l ∈ s.hostModified, l / 4096 ≠ page.toNat) →
      gives .biasFlipDevice (fun t => page.toNat ∉ t.hostBias ∧ (∀ l ∈ t.hostLines, l / 4096 ≠ page.toNat) ∧ s.SameMem t ∧
        t.biascmd = (s.biascmd &&& 0x1FFFF))) ∧
    (∀ v, s.ev = .word v →
      let w := v &&& 0x000003FFF0000000
      exec .cwbaseWrite s = .next (if w.toNat + 0x10000000 ≤ s.dieSize 0 then { s with cwbase := w } else s)) ∧
    (∀ o v, s.ev = .regWrite o v → s.inStacks o = false →
      let goes (t : State) : Prop := exec .platformRegisterWrite s = .next t
      (o = 0xE000000008 → goes { s with ctxarg := v }) ∧ (o = 0xE000000010 → goes { s with drainlim := v &&& 0xFFFF }) ∧
      (o = 0xF000000000 → s.boot.recovery = false → goes { s with hcpage := v &&& 0x0FFFF001 }) ∧ (o = 0xF000000010 → goes s) ∧
      (o = 0xF000010000 → goes { s with pwrlim := BitVec.ofNat 64 (min (max (v.toNat % 4096) 600) 2600) }) ∧
      (∀ d, d < 576 → o = 0xD000010000 + 8 * d → goes { s with uroute := s.uroute.put d (v &&& 0x3FFFF) }) ∧
      (o = 0xE000000000 →
        (tbit s.ctxcmd 63 = true → goes s) ∧
        (tbit s.ctxcmd 63 = false →
          let c := BitVec.ofNat 12 (fld v 11 0)
          let u : State := { s with ctxcmd := v &&& 0xFFFF }
          let result (n : Nat) : State := { s with ctxcmd := (v &&& 0xFFFF) ||| BitVec.ofNat 64 (n * 2 ^ 16) }
          let busy (i : Instr) (a : EvArg) : State :=
            { s with ctxcmd := (v &&& 0xFFFF) ||| 0x8000000000000000, agenda := .event i a :: s.agenda }
          let bad := c = 0 ∨ u.ctxActive c = false
          let cmd := fld v 15 12
          (cmd = 0 ∨ 5 < cmd → ∃ t, goes t ∧ t.ctxcmd = (result 3).ctxcmd) ∧
          (cmd = 1 → bad → ∃ t, goes t ∧ t.ctxcmd = (result 1).ctxcmd) ∧
          (cmd = 1 → ¬bad → (s.ctx c).saved = true → ∃ t, goes t ∧ t.ctxcmd = (result 2).ctxcmd) ∧
          (cmd = 1 → ¬bad → (s.ctx c).saved = false → goes (busy .ctxcmdSave (.ctx c))) ∧
          (cmd = 2 → ¬bad → (s.ctx c).saved = true → goes (busy .ctxcmdResume (.ctx c))) ∧
          (cmd = 3 → ¬bad → u.isFrozen c = false → goes (busy .ctxcmdFreeze (.freeze c 0xF 0))) ∧
          (cmd = 4 → ¬bad → goes (busy .ctxcmdReinject (.ctx c))) ∧
          (cmd = 5 → ¬bad → goes (busy .ctxcmdAbandon (.ctx c)))))) ∧
    (∀ j, s.ev = .unit j → s.boot.recovery = false →
      exec .platformRegisterWrite s = .next { s with hostReads := s.hostReads ++ [toBytes 8 (s.hostifRead j).toNat] }) ∧
    (let b := s.hcBase
     let head := s.rd8 (b + 8)
     let at_ := b + 64 + 8 * (head.toNat % 15)
     (s.hcServed = false ∨ s.rd8 b = head → exec .hostRecordTake s = .next s) ∧
     (∀ v u, s.hcServed = true → s.rd8 b ≠ head →
       s.launchTake 0 (BitVec.ofNat 64 (b + 256 + 256 * (head.toNat % 15))) (s.rdWords (b + 256 + 256 * (head.toNat % 15)) 32) =
         some (v, u) →
       gives .hostRecordTake (fun t => t.rd8 (b + 8) = head + 1 ∧ t.rd8 at_ = v ∧ (1 ∈ t.msixPend ∨ 1 ∈ t.msixSent) ∧
         t.launches = u.launches ∧ ∀ a, ¬(b + 8 ≤ a ∧ a < b + 16) → ¬(at_ ≤ a ∧ a < at_ + 8) → t.mem.read a = s.mem.read a)))

/-- R446 to R452: boot, management and power.
Where these rules leave a point open, what the model chose holds (log entries 7, 16, 47, 48). -/
def Obligations.PlatformEvents : Prop :=
  ∀ s : State,
    let gives (i : Instr) (P : State → Prop) : Prop := ∃ t, exec i s = .next t ∧ P t
    let tells (t : State) (l : List Byte) : Prop := t.mgmtOut = s.mgmtOut ++ [l]
    (s.boot.done = true → s.boot.recovery = false → (∀ img ports, s.ev ≠ .boot img ports) → exec .powerOnReset s = .next s) ∧
    (∀ img ports, s.ev = .boot img ports → s.boot.done = true → s.boot.recovery = false → s.boot.booted = false →
      let load := imgNum img 8 8
      let size := imgNum img 16 8
      (s.imgOk true img = false → exec .powerOnReset s = .next s) ∧
      (s.imgOk true img = true → gives .powerOnReset (fun t =>
        (∀ a, t.mem.read a = if load ≤ a ∧ a < load + size then img.getD (4096 + (a - load)) 0 else s.mem.read a) ∧
        t.boot.booted = true ∧ t.supPorts = ports ∧ t.boot.supervisorHash = Config.sha384 ((img.drop 4096).take size) ∧
        t.threads = s.threads))) ∧
    (s.ev = .nil → s.boot.done = false → s.threads = [] →
      (s.imgOk false s.boot.flash = true → gives .powerOnReset (fun t =>
        let load := imgNum s.boot.flash 8 8
        let size := imgNum s.boot.flash 16 8
        (∀ a, t.mem.read a = if load ≤ a ∧ a < load + size then s.boot.flash.getD (4096 + (a - load)) 0 else 0) ∧
        (∀ a, t.isFull a = true) ∧ t.boot.booted = s.boot.booted ∧ t.boot.recovery = false ∧ t.boot.done = true ∧ t.boot.entry = load ∧
        t.supPorts = s.supPorts ∧
        (t.thread 0).level = .monitor ∧ (t.thread 0).pc = BitVec.ofNat 64 load ∧ (t.thread 0).run = .ready ∧
        (∀ k, k ≠ 0 → Tab.find k t.threads = none) ∧ (t.spindle 0).ready = (s.spindle 0).ready.filter (· != 0) ++ [0])) ∧
      (s.imgOk false s.boot.flash = false → s.imgOk false s.boot.doe = false → gives .powerOnReset (fun t =>
        t.boot.recovery = true ∧ t.boot.done = true ∧ t.boot.booted = s.boot.booted ∧ t.threads = [] ∧ t.mem = []))) ∧
    (∀ rid, s.ev = .unit rid →
      (s.quietCluster rid = false → exec .clusterPowerDown s = .next s) ∧
      (s.quietCluster rid = true → gives .clusterPowerDown (fun t => (t.cluster rid).powered = false ∧ s.SameMem t ∧
        t.threads = s.threads ∧ (∀ q ∈ t.dir, rid ∉ q.2.sharers) ∧ (∀ q ∈ t.stashed, q.2.gsp / 8 ≠ rid) ∧
        (∀ e ∈ t.l1, e.rid ≠ rid) ∧ ∀ q ∈ t.aper, q.2 ≠ rid))) ∧
    gives .mgmtGetCertificates (fun t => tells t Config.certificates ∧ t.threads = s.threads ∧ s.SameMem t) ∧
    (∀ nonce, s.ev = .bytes nonce → nonce.length = 32 → s.boot.monitorHash.length = 48 → gives .mgmtAttestation (fun t => ∃ r, tells t r ∧
      r.length = 3613 ∧ r.take 32 = nonce ∧ (r.drop 32).take 8 = toBytes 8 (s.disc 0).toNat ∧
      (r.drop 40).take 8 = toBytes 8 (s.disc 7).toNat ∧ (r.drop 96).take 48 = s.boot.monitorHash ∧
      (s.boot.supervisorHash.length = 48 → (r.drop 144).take 48 = s.boot.supervisorHash) ∧
      (∀ l, Config.ed25519Sign (r.take 240) = l → l.length = 64 → (r.drop 240).take 64 = l) ∧
      ∀ l, Config.mldsaSign (r.take 240) = l → l.length = 3309 → r.drop 304 = l)) ∧
    (∀ n, s.ev = .devnum n →
      (s.boot.trained = true ∨ 576 ≤ n.toNat → gives .mgmtSetDeviceNumber (fun t => t.devnum = s.devnum ∧ tells t [1])) ∧
      (s.boot.trained = false → n.toNat < 576 → gives .mgmtSetDeviceNumber (fun t => t.devnum = some n ∧ t.own = n.toNat ∧ tells t [0]))) ∧
    (∀ v, s.ev = .word v → gives .mgmtSetPowerLimit (fun t => t.pwrlim.toNat = min (max (v.toNat % 4096) 600) 2600 ∧ tells t [0])) ∧
    gives .mgmtReadSensors (fun t => (∃ l, tells t l) ∧ t.threads = s.threads ∧ s.SameMem t) ∧
    gives .mgmtReadErrors (fun t => tells t (s.corrected.flatMap (fun q => toBytes 8 q.1 ++ toBytes 8 q.2) ++ s.uncorrected.flatMap (toBytes 8)) ∧
      t.corrected = s.corrected ∧ t.uncorrected = s.uncorrected) ∧
    (∀ warm, s.ev = .flag warm → gives .mgmtReset (fun t =>
      t.regions = [] ∧ t.ctxtab = 0 ∧ t.mdeleg = 0x3FFF ∧ t.drainlim = 0x14 ∧ t.pwrlim = 2600 ∧
      t.ctxcmd = 0 ∧ t.hcpage = 0 ∧ t.cwbase = 0 ∧ t.devnum = none ∧ t.cycle = 0 ∧ t.part = s.part ∧ t.boot.flash = s.boot.flash ∧
      t.boot.booted = false ∧ t.aper = [] ∧
      (warm = true → t.hardMod = s.hardMod ∧ s.SameMem t ∧ (s.boot.done = true → s.boot.recovery = false →
        (t.thread 0).level = .monitor ∧ (t.thread 0).pc = BitVec.ofNat 64 s.boot.entry ∧ (t.thread 0).run = .ready ∧
        ∀ k, k ≠ 0 → Tab.find k t.threads = none)) ∧
      (warm = false → t.threads = [] ∧ t.clusters = [] ∧ t.boot.done = false ∧ t.agenda = [.event .powerOnReset .nil] ∧ ∀ l, l ∈ t.hardMod ↔ l ∈ s.hardMod ∨ ∃ r, (l, r) ∈ s.aper))) ∧
    (∀ p, s.ev = .unit p → p < 8 → gives .storagePortLinkDown (fun t =>
      (∀ i, i < 8 → t.supPorts.getLsbD i = (s.supPorts.getLsbD i && i != p)) ∧ t.threads = s.threads ∧ s.SameMem t ∧
      ∀ d ∈ s.dies,
        (∀ q ∈ d.2.reqs, q.reading = true → fld (s.bdWord q.pte 2) 35 32 = p → .event .ramblerReadComplete (.unit q.id) ∈ t.agenda) ∧
        ∀ e ∈ d.2.evicts, fld (s.bdWord e.saved 2) 35 32 = p → .event .ramblerWriteComplete (.unit e.id) ∈ t.agenda)) ∧
    (∀ up, s.ev = .ports up → s.boot.booted = true → gives .storagePortLinkDown (fun t => t.supPorts = up ∧ t.threads = s.threads ∧
      s.SameMem t))

/-! The step, the reset, encodings, and the invariant of memory. -/

/-- R77 to R79, R82, R392, with the model's own order of moves (log entry 4): an issue slot runs the group that the bytes at pc
form, by `exec` of what its first parcels decode to, or as a pair with its V-parcel, of which both read what the group found;
a node fires as its word decodes, a command runs as its line decodes, an event is run; when no move is left the next ac begins. -/
def Obligations.StepRunsDecoded : Prop :=
  ∀ s : State, (s.agenda = [] → ∃ t, step s = .next t ∧ t.cycle = s.cycle + 1) ∧
    ∀ (m : Move) (rest : List Move), s.agenda = m :: rest →
    let u : State := { s with agenda := rest }
    (∀ i a, m = .event i a → step s = exec i { u with ev := a }) ∧
    (∀ key, m = .issue key →
      let v : State := { u with cur := key }
      let w := v.onThr (fun t => { t with rot := t.rot + 1 })
      v.thr.run = .rotating → v.thr.beats = 0 → ¬(w.mustStop v.thr = true ∧ v.thr.fresh = true) → v.thr.repeating = false →
      v.thr.flying = false →
      (∀ ps x, w.fetchGroup = .ok ps x →
        let y := x.onThr (fun t => { t with len := BitVec.ofNat 64 (groupLen ps), resumed := false, flight := { parcels := ps } })
        (decodeParcels ps = none → step s = exec .illegalEncoding y) ∧
        ∀ i, decodeParcels ps = some i →
          (groupPartner i ps = none → step s = exec i y) ∧
          ∀ p, groupPartner i ps = some p → step s = .next (y.issuePair i p) ∧
            ∀ rd rs1 imm q, i = .addi rd rs1 imm → i.wf = true → decodeV p = some (.vadd q) → (Instr.vadd q).wf = true →
              y.Ready (rs1 :: (if q.s then [q.vs2] else [])) [rd]
                (vregs q.vs1 q.grp.n ++ (if q.s then [] else vregs q.vs2 q.grp.n) ++ vregs q.vd q.grp.n) →
              let n := intWidth q.ty
              ∃ t, step s = .next t ∧ t.thr.pc = y.nextPc ∧ (∀ r, t.thr.rx r = (y.thr.wx rd (y.thr.rx rs1 + imm)).rx r) ∧
                y.SameMem t ∧ y.Elems t q.vd q.grp.n n (fun j => if y.thr.act q.mask (512 * q.grp.n / n) j then
                  ofInt n (y.thr.el q.vs1 q.grp.n n j + y.thr.el2 q n j) else y.thr.el q.vd q.grp.n n j)) ∧
      ∀ o, v.thr.level = .monitor → v.thr.flight.reached = [] → v.probing = false → (∀ j, j < 3 → fld (v.thr.pc + BitVec.ofNat 64 (4 * j)) 63 52 = 0 ∧
          v.place (v.thr.pc + BitVec.ofNat 64 (4 * j)).toNat = .mem (o + 4 * j)) → v.isPoisoned o 12 = false →
        tbit v.biascmd 63 = false →
        let a := BitVec.ofNat 32 (v.rd o 4)
        let b := BitVec.ofNat 32 (v.rd (o + 4) 4)
        let c := BitVec.ofNat 32 (v.rd (o + 8) 4)
        w.fetchGroup = .ok (if isA a then (if isX b ∧ acceptsX a then [a, b, c] else [a, b]) else [a]) w) ∧
    (∀ rid node tag, m = .fire rid node tag →
      let v : State := { u with curNode := (rid, node, tag) }
      let d := ((v.region rid).nodes[node]?).bind decodeNode
      (∀ i, d = some i → step s = exec i v) ∧ (d = none → step s = .next v)) ∧
    (∀ g ctx kind, m = .command g ctx kind →
      let v : State := { u with curCmd := (g, ctx, kind) }
      (∀ c i, (v.spindle g).head ctx kind = some c → decodeCommand kind c.line = some i → step s = exec i v) ∧
      (∀ c, (v.spindle g).head ctx kind = some c → decodeCommand kind c.line = none → c.fail = none →
        v.cmdReady g ctx kind = true →
        step s = .next (v.cmdEnd g ctx kind 0x01 0)) ∧
      ((v.spindle g).head ctx kind = none → step s = .next v))

/-- Every step answers a next state: no instruction stops the model.
Where these rules leave a point open, what the model chose holds (log entries 11, 56). -/
def Obligations.StepAlwaysNext : Prop := ∀ s : State, s.runs

/-- R41, R44, R342, R394, R410, R420, R433, R440, R452, R453: what reset leaves where the spec gives a value; no thread is placed
(R447), and the boot ROM runs next.
What the spec gives no reset value for is the model's choice (log entry 3) and is not stated. -/
def Obligations.ResetState : Prop :=
  let s := State.reset
  let reads (p : Place) : Word := (s.regRead p).1
  (∀ a, s.mem.read a = 0 ∧ s.isFull a = true) ∧ s.cycle = 0 ∧ s.mdeleg = 0x3FFF ∧ s.threads = [] ∧
  (∀ g r, r < 4 → (s.spindle g).plyslot.getD r 1 = 0) ∧
  (∀ o, reads (.ctl o) = if o = 0x10 then 0x14 else 0) ∧ (∀ o, reads (.utsen o) = 0) ∧
  reads (.hostif 0) = 0 ∧ reads (.hostif 8) = 0 ∧ reads (.hostif 0x10) = 0 ∧ reads (.hostif 0x18) = 0 ∧
  (∀ o, 0x2000 ≤ o → o < 0x4000 → reads (.hostif o) = 0xFFFFFFFFFFFFFFFF) ∧
  (∀ o, reads (.power o) = if o = 0 then 2600 else 0) ∧
  fld (s.disc 4) 49 32 = 0 ∧ fld (s.disc 5) 15 8 = 0 ∧ s.disc 7 = 0 ∧
  step s = exec .powerOnReset { s with agenda := [], ev := .nil }

/-- R104: the command opcodes of each window. And words that the spec's worked encodings write out (R88, R90, R95, R97, R103, R104, R126, R130, R139, R145, R146, R176, R180, R207
and the programs of 15 to 17), and what they stand for. -/
def Obligations.DecodeSpecWords : Prop :=
  let d (p : BitVec 32) (i : Instr) : Prop := decodeParcels [p] = some i
  let v (s : Bool) (ty : BitVec 3) (vs2 vs1 vd : Reg) (g : VGrp) : VArgs := ⟨s, ty, 0, vs2, vs1, vd, g⟩
  let none : BitVec 8 × BitVec 2 := (0xFF, 3)
  let n (a b : BitVec 8 × BitVec 2) (immb : Bool) (imm : BitVec 32) : NodeWord := ⟨a.1, a.2, b.1, b.2, false, 0, immb, imm⟩
  decodeParcels [0x00200593, 0x10000005] = some (.addi 11 0 0x0000004000001002) ∧
  decodeParcels [0xFFF16293, 0x00000001] = some (.ori 5 2 0xFFF) ∧
  d 0x0009050B (.ldFe 10 18 0) ∧ d 0x000900DB (.callx 1 18) ∧ d 0x000980DB (.callx 1 19) ∧ d 0x035A27DB (.callatAff 15 20 21) ∧
  d 0x013BA05B (.callatCl 0 23 19) ∧ d 0x46B9052F (.amoAdd 10 11 18 4 1 true) ∧ d 0x53C9287B (.amoCas2 16 28 18 5 0) ∧
  d 0xA539052B (.cpy 10 18 19 20 2) ∧ d 0x0055330F (.stashMap 6 10 5) ∧ d 0x0062F05B (.rep 5 6 0 0) ∧
  d 0x0200705B .repStop ∧ d 0x00000073 .halt ∧ d 0x00100073 .yield ∧ d 0x00200073 .tret ∧ d 0x00300073 .brk ∧
  d 0x204012F3 (.sysrd 5 0x204) ∧ d 0x0000605B (.bar 0) ∧
  d 0x040A4202 (.vadd (v false 2 5 4 4 .g1)) ∧ d 0x04208402 (.vadd (v false 2 16 8 8 .g1)) ∧
  d 0x861A027A (.vld (v true 3 13 0 4 .g4)) ∧ d 0x9614021A (.vst (v true 3 10 0 4 .g1)) ∧
  d 0xFE101112 (.vcvt ⟨15, 7, 0, 8, 1, 2, .g1⟩) ∧
  decodeNode 0x010200D100000008 = some (.nodeAdd (n (2, 0) (3, 1) true 8)) ∧
  decodeNode 0x40023FF000000000 = some (.nodeArg (n (2, 0) none false 0)) ∧
  decodeNode 0x40027FF000000001 = some (.nodeArg (n (2, 1) none false 1)) ∧
  decodeNode 0x30033FF000080000 = some (.nodeAg (n (3, 0) none false 0x80000)) ∧
  decodeNode 0x31043FF000000070 = some (.nodeLdp (n (4, 0) none false 0x70)) ∧
  decodeNode 0x38053FF000000001 = some (.nodeAcc (n (5, 0) none false 1)) ∧
  decodeNode 0x41FFFFF000000000 = some (.nodeRet (n none none false 0)) ∧
  decodeCommand 0 [0x0000000004010104, 0, 0x00400100, 0x1000, 0x02000B02, 0x0001000208000000, 0, 0] =
    some (.plyMmaBp ⟨4, 1, 0, 1, 0, 0x00400100, 0x1000, 0x02000B02, 0x0001000208000000, 0, 0⟩) ∧
  ∀ ws : List Word,
    let c := lineFields ws
    let opc := fld (ws.getD 0 0) 7 0
    let ply : List (Nat × Instr) := [(0x01, .plyZero c), (0x02, .plyMma c), (0x03, .plyMmaMx c), (0x04, .plyMmaBp c),
      (0x05, .plyLdacc c), (0x06, .plyStacc c), (0x07, .plyTr c), (0x08, .plySync c)]
    let nbm : List (Nat × Instr) := [(0x21, .nbmGemv c), (0x22, .nbmGemvBp c), (0x28, .nbmSync c)]
    decodeCommand 0 ws = (ply.find? (fun e => e.1 == opc)).map (·.2) ∧
    decodeCommand 1 ws = (nbm.find? (fun e => e.1 == opc)).map (·.2)

/-- R81 to R97, R102 to R104: decoding gives back every well-formed T instruction, every node and every command from its
encoding, with every operand at every value the encoding admits; and a node word is the encoding of what it decodes to. -/
def Obligations.EncodingRoundTrip : Prop :=
  (∀ i : Instr, i.wf = true → encode i ≠ [] → decodeParcels (encode i) = some i) ∧
  (∀ i : Instr, (opT i).isSome = true → encode i ≠ []) ∧
  (∀ (i : Instr) (w : BitVec 64), encodeNode i = some w → decodeNode w = some i) ∧
  (∀ (i : Instr) (w : BitVec 64), decodeNode w = some i → encodeNode i = some w) ∧
  (∀ (i : Instr) (k : Nat) (ws : List Word), encodeCommand i = some (k, ws) → ws.length = 8 ∧ decodeCommand k ws = some i)

/-- Every step keeps memory in its canonical form, from every state that has it (the model's own form of memory).
Where these rules leave a point open, what the model chose holds (log entries 51, 4). -/
def Obligations.StepKeepsMemoryCanonical : Prop := ∀ s t : State, s.memOk → step s = .next t → t.memOk
end

