-- ==== Sys2Proof/Laws/Bits.lean ====
section
/-! SUPPORT. Fields of a word as the numbers that the model computes with, and as slices of the bit vector. -/

namespace Sys2Proof.Laws
open Sys2Proof Sys2Proof.Machine

theorem fld_eq (t : Word) (h l : Nat) : fld t h l = (t.extractLsb' l (h + 1 - l)).toNat := by
  simp [fld, field, BitVec.extractLsb'_toNat]
theorem fld_eq_zero (t : Word) (h l : Nat) : fld t h l = 0 ↔ t.extractLsb' l (h + 1 - l) = 0 := by
  rw [fld_eq]
  exact ⟨fun e => BitVec.eq_of_toNat_eq e, fun e => by rw [e]; rfl⟩
theorem tbit_eq (t : Word) (i : Nat) : tbit t i = t.getLsbD i := by
  simp [tbit, field, BitVec.getLsbD, Nat.testBit, Nat.shiftRight_eq_div_pow]

end Sys2Proof.Laws
end

