-- ==== Sys2Proof/Laws/Tab.lean ====
section
/-! SUPPORT. The sparse table: a read after a write, writes that meet, and the order of the keys. -/

namespace Sys2Proof.Laws
open Sys2Proof

variable {α : Type}

@[simp] theorem find_put_self (k : Nat) (a : α) (t : Tab α) : Tab.find k (Tab.put k a t) = some a := by
  induction t with
  | nil => simp [Tab.put, Tab.find]
  | cons p t ih =>
    obtain ⟨j, b⟩ := p
    by_cases h : k < j
    · simp [Tab.put, Tab.find, h]
    · by_cases e : j = k
      · simp [Tab.put, Tab.find, e]
      · simp [Tab.put, Tab.find, h, e, ih]

theorem find_put_ne {j k : Nat} (h : j ≠ k) (a : α) (t : Tab α) : Tab.find j (Tab.put k a t) = Tab.find j t := by
  induction t with
  | nil => simp [Tab.put, Tab.find, Ne.symm h]
  | cons p t ih =>
    obtain ⟨i, b⟩ := p
    by_cases hk : k < i
    · simp [Tab.put, Tab.find, hk, Ne.symm h]
    · by_cases e : i = k
      · subst e; simp [Tab.put, Tab.find, Ne.symm h]
      · simp only [Tab.put, hk, e, if_false, Tab.find]; rw [ih]

@[simp] theorem put_put (k : Nat) (a b : α) (t : Tab α) : Tab.put k a (Tab.put k b t) = Tab.put k a t := by
  induction t with
  | nil => simp [Tab.put]
  | cons p t ih =>
    obtain ⟨j, c⟩ := p
    by_cases h : k < j
    · simp [Tab.put, h]
    · by_cases e : j = k
      · simp [Tab.put, e]
      · simp [Tab.put, h, e, ih]

@[simp] theorem find_del_self (k : Nat) (t : Tab α) : Tab.find k (Tab.del k t) = none := by
  induction t with
  | nil => rfl
  | cons p t ih =>
    obtain ⟨j, b⟩ := p
    by_cases e : j = k
    · simp [Tab.del, e, ih]
    · simp [Tab.del, Tab.find, e, ih]

theorem find_del_ne {j k : Nat} (h : j ≠ k) (t : Tab α) : Tab.find j (Tab.del k t) = Tab.find j t := by
  induction t with
  | nil => rfl
  | cons p t ih =>
    obtain ⟨i, b⟩ := p
    by_cases e : i = k
    · subst e; simp [Tab.del, Tab.find, Ne.symm h, ih]
    · simp [Tab.del, Tab.find, e, ih]

@[simp] theorem getD_put_self (d : α) (k : Nat) (a : α) (t : Tab α) : Tab.getD d k (Tab.put k a t) = a := by
  simp [Tab.getD]

theorem getD_put_ne {j k : Nat} (h : j ≠ k) (d a : α) (t : Tab α) : Tab.getD d j (Tab.put k a t) = Tab.getD d j t := by
  simp [Tab.getD, find_put_ne h]

@[simp] theorem getD_del_self (d : α) (k : Nat) (t : Tab α) : Tab.getD d k (Tab.del k t) = d := by
  simp [Tab.getD]

theorem getD_del_ne {j k : Nat} (h : j ≠ k) (d : α) (t : Tab α) : Tab.getD d j (Tab.del k t) = Tab.getD d j t := by
  simp [Tab.getD, find_del_ne h]

end Sys2Proof.Laws
end

