-- ==== Sys2Proof/Laws/State.lean ====
section
/-! SUPPORT. Small lemmas of State and Thread: each field after each update, so that no proof unfolds a record update. -/

namespace Sys2Proof.Laws
open Sys2Proof Sys2Proof.Machine

/-! The thread whose turn it is. -/

@[simp] theorem thr_onThr (f : Thread → Thread) (s : State) : (s.onThr f).thr = f s.thr := by
  simp [State.onThr, State.thr]
@[simp] theorem onThr_onThr (f g : Thread → Thread) (s : State) : (s.onThr g).onThr f = s.onThr (fun t => f (g t)) := by
  simp [State.onThr, State.thr]
theorem thread_onThr_ne (f : Thread → Thread) (s : State) {k : Nat} (h : k ≠ s.cur) :
    (s.onThr f).thread k = s.thread k := by
  simp [State.onThr, State.thread, getD_put_ne h]
@[simp] theorem thread_onThread (f : Thread → Thread) (k : Nat) (s : State) : (s.onThread k f).thread k = f (s.thread k) := by
  simp [State.onThread, State.thread]
@[simp] theorem spindle_onSpindle (f : Spindle → Spindle) (g : Nat) (s : State) :
    (s.onSpindle g f).spindle g = f (s.spindle g) := by
  simp [State.onSpindle, State.spindle]
@[simp] theorem cluster_onCluster (f : Cluster → Cluster) (r : Nat) (s : State) :
    (s.onCluster r f).cluster r = f (s.cluster r) := by
  simp [State.onCluster, State.cluster]
@[simp] theorem region_onRegion (f : Region → Region) (r : Nat) (s : State) :
    (s.onRegion r f).region r = f (s.region r) := by
  simp [State.onRegion, State.region]
@[simp] theorem die_onDie (f : Die → Die) (d : Nat) (s : State) : (s.onDie d f).die d = f (s.die d) := by
  simp [State.onDie, State.die]


/-! After onThr. -/

@[simp] theorem part_onThr (f : Thread → Thread) (s : State) : (s.onThr f).part = s.part := rfl
@[simp] theorem cycle_onThr (f : Thread → Thread) (s : State) : (s.onThr f).cycle = s.cycle := rfl
@[simp] theorem mem_onThr (f : Thread → Thread) (s : State) : (s.onThr f).mem = s.mem := rfl
@[simp] theorem empties_onThr (f : Thread → Thread) (s : State) : (s.onThr f).empties = s.empties := rfl
@[simp] theorem poisoned_onThr (f : Thread → Thread) (s : State) : (s.onThr f).poisoned = s.poisoned := rfl
@[simp] theorem dir_onThr (f : Thread → Thread) (s : State) : (s.onThr f).dir = s.dir := rfl
@[simp] theorem stashed_onThr (f : Thread → Thread) (s : State) : (s.onThr f).stashed = s.stashed := rfl
@[simp] theorem l1_onThr (f : Thread → Thread) (s : State) : (s.onThr f).l1 = s.l1 := rfl
@[simp] theorem gransOff_onThr (f : Thread → Thread) (s : State) : (s.onThr f).gransOff = s.gransOff := rfl
@[simp] theorem upsets_onThr (f : Thread → Thread) (s : State) : (s.onThr f).upsets = s.upsets := rfl
@[simp] theorem spindles_onThr (f : Thread → Thread) (s : State) : (s.onThr f).spindles = s.spindles := rfl
@[simp] theorem clusters_onThr (f : Thread → Thread) (s : State) : (s.onThr f).clusters = s.clusters := rfl
@[simp] theorem regions_onThr (f : Thread → Thread) (s : State) : (s.onThr f).regions = s.regions := rfl
@[simp] theorem images_onThr (f : Thread → Thread) (s : State) : (s.onThr f).images = s.images := rfl
@[simp] theorem utlb_onThr (f : Thread → Thread) (s : State) : (s.onThr f).utlb = s.utlb := rfl
@[simp] theorem parties_onThr (f : Thread → Thread) (s : State) : (s.onThr f).parties = s.parties := rfl
@[simp] theorem launches_onThr (f : Thread → Thread) (s : State) : (s.onThr f).launches = s.launches := rfl
@[simp] theorem nextSerial_onThr (f : Thread → Thread) (s : State) : (s.onThr f).nextSerial = s.nextSerial := rfl
@[simp] theorem dies_onThr (f : Thread → Thread) (s : State) : (s.onThr f).dies = s.dies := rfl
@[simp] theorem migrations_onThr (f : Thread → Thread) (s : State) : (s.onThr f).migrations = s.migrations := rfl
@[simp] theorem stvec_onThr (f : Thread → Thread) (s : State) : (s.onThr f).stvec = s.stvec := rfl
@[simp] theorem mtvec_onThr (f : Thread → Thread) (s : State) : (s.onThr f).mtvec = s.mtvec := rfl
@[simp] theorem ctxtab_onThr (f : Thread → Thread) (s : State) : (s.onThr f).ctxtab = s.ctxtab := rfl
@[simp] theorem mdeleg_onThr (f : Thread → Thread) (s : State) : (s.onThr f).mdeleg = s.mdeleg := rfl
@[simp] theorem stepping_onThr (f : Thread → Thread) (s : State) : (s.onThr f).stepping = s.stepping := rfl
@[simp] theorem ctxs_onThr (f : Thread → Thread) (s : State) : (s.onThr f).ctxs = s.ctxs := rfl
@[simp] theorem ctxcmd_onThr (f : Thread → Thread) (s : State) : (s.onThr f).ctxcmd = s.ctxcmd := rfl
@[simp] theorem ctxarg_onThr (f : Thread → Thread) (s : State) : (s.onThr f).ctxarg = s.ctxarg := rfl
@[simp] theorem drainlim_onThr (f : Thread → Thread) (s : State) : (s.onThr f).drainlim = s.drainlim := rfl
@[simp] theorem uport_onThr (f : Thread → Thread) (s : State) : (s.onThr f).uport = s.uport := rfl
@[simp] theorem uportFails_onThr (f : Thread → Thread) (s : State) : (s.onThr f).uportFails = s.uportFails := rfl
@[simp] theorem uroute_onThr (f : Thread → Thread) (s : State) : (s.onThr f).uroute = s.uroute := rfl
@[simp] theorem uimport_onThr (f : Thread → Thread) (s : State) : (s.onThr f).uimport = s.uimport := rfl
@[simp] theorem remotes_onThr (f : Thread → Thread) (s : State) : (s.onThr f).remotes = s.remotes := rfl
@[simp] theorem remoteWaits_onThr (f : Thread → Thread) (s : State) : (s.onThr f).remoteWaits = s.remoteWaits := rfl
@[simp] theorem answersOut_onThr (f : Thread → Thread) (s : State) : (s.onThr f).answersOut = s.answersOut := rfl
@[simp] theorem sharesEnded_onThr (f : Thread → Thread) (s : State) : (s.onThr f).sharesEnded = s.sharesEnded := rfl
@[simp] theorem devnum_onThr (f : Thread → Thread) (s : State) : (s.onThr f).devnum = s.devnum := rfl
@[simp] theorem hcpage_onThr (f : Thread → Thread) (s : State) : (s.onThr f).hcpage = s.hcpage := rfl
@[simp] theorem biascmd_onThr (f : Thread → Thread) (s : State) : (s.onThr f).biascmd = s.biascmd := rfl
@[simp] theorem cwbase_onThr (f : Thread → Thread) (s : State) : (s.onThr f).cwbase = s.cwbase := rfl
@[simp] theorem msix_onThr (f : Thread → Thread) (s : State) : (s.onThr f).msix = s.msix := rfl
@[simp] theorem msixPend_onThr (f : Thread → Thread) (s : State) : (s.onThr f).msixPend = s.msixPend := rfl
@[simp] theorem msixSent_onThr (f : Thread → Thread) (s : State) : (s.onThr f).msixSent = s.msixSent := rfl
@[simp] theorem hostReads_onThr (f : Thread → Thread) (s : State) : (s.onThr f).hostReads = s.hostReads := rfl
@[simp] theorem flipWaits_onThr (f : Thread → Thread) (s : State) : (s.onThr f).flipWaits = s.flipWaits := rfl
@[simp] theorem hostBias_onThr (f : Thread → Thread) (s : State) : (s.onThr f).hostBias = s.hostBias := rfl
@[simp] theorem hostLines_onThr (f : Thread → Thread) (s : State) : (s.onThr f).hostLines = s.hostLines := rfl
@[simp] theorem hostModified_onThr (f : Thread → Thread) (s : State) : (s.onThr f).hostModified = s.hostModified := rfl
@[simp] theorem aper_onThr (f : Thread → Thread) (s : State) : (s.onThr f).aper = s.aper := rfl
@[simp] theorem hardMod_onThr (f : Thread → Thread) (s : State) : (s.onThr f).hardMod = s.hardMod := rfl
@[simp] theorem notices_onThr (f : Thread → Thread) (s : State) : (s.onThr f).notices = s.notices := rfl
@[simp] theorem linkRate_onThr (f : Thread → Thread) (s : State) : (s.onThr f).linkRate = s.linkRate := rfl
@[simp] theorem linkWidth_onThr (f : Thread → Thread) (s : State) : (s.onThr f).linkWidth = s.linkWidth := rfl
@[simp] theorem snoopAnswers_onThr (f : Thread → Thread) (s : State) : (s.onThr f).snoopAnswers = s.snoopAnswers := rfl
@[simp] theorem supPorts_onThr (f : Thread → Thread) (s : State) : (s.onThr f).supPorts = s.supPorts := rfl
@[simp] theorem pwrlim_onThr (f : Thread → Thread) (s : State) : (s.onThr f).pwrlim = s.pwrlim := rfl
@[simp] theorem pwrnow_onThr (f : Thread → Thread) (s : State) : (s.onThr f).pwrnow = s.pwrnow := rfl
@[simp] theorem corrected_onThr (f : Thread → Thread) (s : State) : (s.onThr f).corrected = s.corrected := rfl
@[simp] theorem uncorrected_onThr (f : Thread → Thread) (s : State) : (s.onThr f).uncorrected = s.uncorrected := rfl
@[simp] theorem mgmtOut_onThr (f : Thread → Thread) (s : State) : (s.onThr f).mgmtOut = s.mgmtOut := rfl
@[simp] theorem boot_onThr (f : Thread → Thread) (s : State) : (s.onThr f).boot = s.boot := rfl
@[simp] theorem agenda_onThr (f : Thread → Thread) (s : State) : (s.onThr f).agenda = s.agenda := rfl
@[simp] theorem timed_onThr (f : Thread → Thread) (s : State) : (s.onThr f).timed = s.timed := rfl
@[simp] theorem inputs_onThr (f : Thread → Thread) (s : State) : (s.onThr f).inputs = s.inputs := rfl
@[simp] theorem cur_onThr (f : Thread → Thread) (s : State) : (s.onThr f).cur = s.cur := rfl
@[simp] theorem curNode_onThr (f : Thread → Thread) (s : State) : (s.onThr f).curNode = s.curNode := rfl
@[simp] theorem curCmd_onThr (f : Thread → Thread) (s : State) : (s.onThr f).curCmd = s.curCmd := rfl
@[simp] theorem ev_onThr (f : Thread → Thread) (s : State) : (s.onThr f).ev = s.ev := rfl
@[simp] theorem free_onThr (f : Thread → Thread) (s : State) : (s.onThr f).free = s.free := rfl
@[simp] theorem nextId_onThr (f : Thread → Thread) (s : State) : (s.onThr f).nextId = s.nextId := rfl

/-! After onThread. -/

@[simp] theorem part_onThread (k : Nat) (f : Thread → Thread) (s : State) : (s.onThread k f).part = s.part := rfl
@[simp] theorem cycle_onThread (k : Nat) (f : Thread → Thread) (s : State) : (s.onThread k f).cycle = s.cycle := rfl
@[simp] theorem mem_onThread (k : Nat) (f : Thread → Thread) (s : State) : (s.onThread k f).mem = s.mem := rfl
@[simp] theorem empties_onThread (k : Nat) (f : Thread → Thread) (s : State) : (s.onThread k f).empties = s.empties := rfl
@[simp] theorem poisoned_onThread (k : Nat) (f : Thread → Thread) (s : State) : (s.onThread k f).poisoned = s.poisoned := rfl
@[simp] theorem dir_onThread (k : Nat) (f : Thread → Thread) (s : State) : (s.onThread k f).dir = s.dir := rfl
@[simp] theorem stashed_onThread (k : Nat) (f : Thread → Thread) (s : State) : (s.onThread k f).stashed = s.stashed := rfl
@[simp] theorem l1_onThread (k : Nat) (f : Thread → Thread) (s : State) : (s.onThread k f).l1 = s.l1 := rfl
@[simp] theorem gransOff_onThread (k : Nat) (f : Thread → Thread) (s : State) : (s.onThread k f).gransOff = s.gransOff := rfl
@[simp] theorem upsets_onThread (k : Nat) (f : Thread → Thread) (s : State) : (s.onThread k f).upsets = s.upsets := rfl
@[simp] theorem spindles_onThread (k : Nat) (f : Thread → Thread) (s : State) : (s.onThread k f).spindles = s.spindles := rfl
@[simp] theorem clusters_onThread (k : Nat) (f : Thread → Thread) (s : State) : (s.onThread k f).clusters = s.clusters := rfl
@[simp] theorem regions_onThread (k : Nat) (f : Thread → Thread) (s : State) : (s.onThread k f).regions = s.regions := rfl
@[simp] theorem images_onThread (k : Nat) (f : Thread → Thread) (s : State) : (s.onThread k f).images = s.images := rfl
@[simp] theorem utlb_onThread (k : Nat) (f : Thread → Thread) (s : State) : (s.onThread k f).utlb = s.utlb := rfl
@[simp] theorem parties_onThread (k : Nat) (f : Thread → Thread) (s : State) : (s.onThread k f).parties = s.parties := rfl
@[simp] theorem launches_onThread (k : Nat) (f : Thread → Thread) (s : State) : (s.onThread k f).launches = s.launches := rfl
@[simp] theorem nextSerial_onThread (k : Nat) (f : Thread → Thread) (s : State) : (s.onThread k f).nextSerial = s.nextSerial := rfl
@[simp] theorem dies_onThread (k : Nat) (f : Thread → Thread) (s : State) : (s.onThread k f).dies = s.dies := rfl
@[simp] theorem migrations_onThread (k : Nat) (f : Thread → Thread) (s : State) : (s.onThread k f).migrations = s.migrations := rfl
@[simp] theorem stvec_onThread (k : Nat) (f : Thread → Thread) (s : State) : (s.onThread k f).stvec = s.stvec := rfl
@[simp] theorem mtvec_onThread (k : Nat) (f : Thread → Thread) (s : State) : (s.onThread k f).mtvec = s.mtvec := rfl
@[simp] theorem ctxtab_onThread (k : Nat) (f : Thread → Thread) (s : State) : (s.onThread k f).ctxtab = s.ctxtab := rfl
@[simp] theorem mdeleg_onThread (k : Nat) (f : Thread → Thread) (s : State) : (s.onThread k f).mdeleg = s.mdeleg := rfl
@[simp] theorem stepping_onThread (k : Nat) (f : Thread → Thread) (s : State) : (s.onThread k f).stepping = s.stepping := rfl
@[simp] theorem ctxs_onThread (k : Nat) (f : Thread → Thread) (s : State) : (s.onThread k f).ctxs = s.ctxs := rfl
@[simp] theorem ctxcmd_onThread (k : Nat) (f : Thread → Thread) (s : State) : (s.onThread k f).ctxcmd = s.ctxcmd := rfl
@[simp] theorem ctxarg_onThread (k : Nat) (f : Thread → Thread) (s : State) : (s.onThread k f).ctxarg = s.ctxarg := rfl
@[simp] theorem drainlim_onThread (k : Nat) (f : Thread → Thread) (s : State) : (s.onThread k f).drainlim = s.drainlim := rfl
@[simp] theorem uport_onThread (k : Nat) (f : Thread → Thread) (s : State) : (s.onThread k f).uport = s.uport := rfl
@[simp] theorem uportFails_onThread (k : Nat) (f : Thread → Thread) (s : State) : (s.onThread k f).uportFails = s.uportFails := rfl
@[simp] theorem uroute_onThread (k : Nat) (f : Thread → Thread) (s : State) : (s.onThread k f).uroute = s.uroute := rfl
@[simp] theorem uimport_onThread (k : Nat) (f : Thread → Thread) (s : State) : (s.onThread k f).uimport = s.uimport := rfl
@[simp] theorem remotes_onThread (k : Nat) (f : Thread → Thread) (s : State) : (s.onThread k f).remotes = s.remotes := rfl
@[simp] theorem remoteWaits_onThread (k : Nat) (f : Thread → Thread) (s : State) : (s.onThread k f).remoteWaits = s.remoteWaits := rfl
@[simp] theorem answersOut_onThread (k : Nat) (f : Thread → Thread) (s : State) : (s.onThread k f).answersOut = s.answersOut := rfl
@[simp] theorem sharesEnded_onThread (k : Nat) (f : Thread → Thread) (s : State) : (s.onThread k f).sharesEnded = s.sharesEnded := rfl
@[simp] theorem devnum_onThread (k : Nat) (f : Thread → Thread) (s : State) : (s.onThread k f).devnum = s.devnum := rfl
@[simp] theorem hcpage_onThread (k : Nat) (f : Thread → Thread) (s : State) : (s.onThread k f).hcpage = s.hcpage := rfl
@[simp] theorem biascmd_onThread (k : Nat) (f : Thread → Thread) (s : State) : (s.onThread k f).biascmd = s.biascmd := rfl
@[simp] theorem cwbase_onThread (k : Nat) (f : Thread → Thread) (s : State) : (s.onThread k f).cwbase = s.cwbase := rfl
@[simp] theorem msix_onThread (k : Nat) (f : Thread → Thread) (s : State) : (s.onThread k f).msix = s.msix := rfl
@[simp] theorem msixPend_onThread (k : Nat) (f : Thread → Thread) (s : State) : (s.onThread k f).msixPend = s.msixPend := rfl
@[simp] theorem msixSent_onThread (k : Nat) (f : Thread → Thread) (s : State) : (s.onThread k f).msixSent = s.msixSent := rfl
@[simp] theorem hostReads_onThread (k : Nat) (f : Thread → Thread) (s : State) : (s.onThread k f).hostReads = s.hostReads := rfl
@[simp] theorem flipWaits_onThread (k : Nat) (f : Thread → Thread) (s : State) : (s.onThread k f).flipWaits = s.flipWaits := rfl
@[simp] theorem hostBias_onThread (k : Nat) (f : Thread → Thread) (s : State) : (s.onThread k f).hostBias = s.hostBias := rfl
@[simp] theorem hostLines_onThread (k : Nat) (f : Thread → Thread) (s : State) : (s.onThread k f).hostLines = s.hostLines := rfl
@[simp] theorem hostModified_onThread (k : Nat) (f : Thread → Thread) (s : State) : (s.onThread k f).hostModified = s.hostModified := rfl
@[simp] theorem aper_onThread (k : Nat) (f : Thread → Thread) (s : State) : (s.onThread k f).aper = s.aper := rfl
@[simp] theorem hardMod_onThread (k : Nat) (f : Thread → Thread) (s : State) : (s.onThread k f).hardMod = s.hardMod := rfl
@[simp] theorem notices_onThread (k : Nat) (f : Thread → Thread) (s : State) : (s.onThread k f).notices = s.notices := rfl
@[simp] theorem linkRate_onThread (k : Nat) (f : Thread → Thread) (s : State) : (s.onThread k f).linkRate = s.linkRate := rfl
@[simp] theorem linkWidth_onThread (k : Nat) (f : Thread → Thread) (s : State) : (s.onThread k f).linkWidth = s.linkWidth := rfl
@[simp] theorem snoopAnswers_onThread (k : Nat) (f : Thread → Thread) (s : State) : (s.onThread k f).snoopAnswers = s.snoopAnswers := rfl
@[simp] theorem supPorts_onThread (k : Nat) (f : Thread → Thread) (s : State) : (s.onThread k f).supPorts = s.supPorts := rfl
@[simp] theorem pwrlim_onThread (k : Nat) (f : Thread → Thread) (s : State) : (s.onThread k f).pwrlim = s.pwrlim := rfl
@[simp] theorem pwrnow_onThread (k : Nat) (f : Thread → Thread) (s : State) : (s.onThread k f).pwrnow = s.pwrnow := rfl
@[simp] theorem corrected_onThread (k : Nat) (f : Thread → Thread) (s : State) : (s.onThread k f).corrected = s.corrected := rfl
@[simp] theorem uncorrected_onThread (k : Nat) (f : Thread → Thread) (s : State) : (s.onThread k f).uncorrected = s.uncorrected := rfl
@[simp] theorem mgmtOut_onThread (k : Nat) (f : Thread → Thread) (s : State) : (s.onThread k f).mgmtOut = s.mgmtOut := rfl
@[simp] theorem boot_onThread (k : Nat) (f : Thread → Thread) (s : State) : (s.onThread k f).boot = s.boot := rfl
@[simp] theorem agenda_onThread (k : Nat) (f : Thread → Thread) (s : State) : (s.onThread k f).agenda = s.agenda := rfl
@[simp] theorem timed_onThread (k : Nat) (f : Thread → Thread) (s : State) : (s.onThread k f).timed = s.timed := rfl
@[simp] theorem inputs_onThread (k : Nat) (f : Thread → Thread) (s : State) : (s.onThread k f).inputs = s.inputs := rfl
@[simp] theorem cur_onThread (k : Nat) (f : Thread → Thread) (s : State) : (s.onThread k f).cur = s.cur := rfl
@[simp] theorem curNode_onThread (k : Nat) (f : Thread → Thread) (s : State) : (s.onThread k f).curNode = s.curNode := rfl
@[simp] theorem curCmd_onThread (k : Nat) (f : Thread → Thread) (s : State) : (s.onThread k f).curCmd = s.curCmd := rfl
@[simp] theorem ev_onThread (k : Nat) (f : Thread → Thread) (s : State) : (s.onThread k f).ev = s.ev := rfl
@[simp] theorem free_onThread (k : Nat) (f : Thread → Thread) (s : State) : (s.onThread k f).free = s.free := rfl
@[simp] theorem nextId_onThread (k : Nat) (f : Thread → Thread) (s : State) : (s.onThread k f).nextId = s.nextId := rfl

/-! After onSpindle. -/

@[simp] theorem part_onSpindle (k : Nat) (f : Spindle → Spindle) (s : State) : (s.onSpindle k f).part = s.part := rfl
@[simp] theorem cycle_onSpindle (k : Nat) (f : Spindle → Spindle) (s : State) : (s.onSpindle k f).cycle = s.cycle := rfl
@[simp] theorem mem_onSpindle (k : Nat) (f : Spindle → Spindle) (s : State) : (s.onSpindle k f).mem = s.mem := rfl
@[simp] theorem empties_onSpindle (k : Nat) (f : Spindle → Spindle) (s : State) : (s.onSpindle k f).empties = s.empties := rfl
@[simp] theorem poisoned_onSpindle (k : Nat) (f : Spindle → Spindle) (s : State) : (s.onSpindle k f).poisoned = s.poisoned := rfl
@[simp] theorem dir_onSpindle (k : Nat) (f : Spindle → Spindle) (s : State) : (s.onSpindle k f).dir = s.dir := rfl
@[simp] theorem stashed_onSpindle (k : Nat) (f : Spindle → Spindle) (s : State) : (s.onSpindle k f).stashed = s.stashed := rfl
@[simp] theorem l1_onSpindle (k : Nat) (f : Spindle → Spindle) (s : State) : (s.onSpindle k f).l1 = s.l1 := rfl
@[simp] theorem gransOff_onSpindle (k : Nat) (f : Spindle → Spindle) (s : State) : (s.onSpindle k f).gransOff = s.gransOff := rfl
@[simp] theorem upsets_onSpindle (k : Nat) (f : Spindle → Spindle) (s : State) : (s.onSpindle k f).upsets = s.upsets := rfl
@[simp] theorem threads_onSpindle (k : Nat) (f : Spindle → Spindle) (s : State) : (s.onSpindle k f).threads = s.threads := rfl
@[simp] theorem clusters_onSpindle (k : Nat) (f : Spindle → Spindle) (s : State) : (s.onSpindle k f).clusters = s.clusters := rfl
@[simp] theorem regions_onSpindle (k : Nat) (f : Spindle → Spindle) (s : State) : (s.onSpindle k f).regions = s.regions := rfl
@[simp] theorem images_onSpindle (k : Nat) (f : Spindle → Spindle) (s : State) : (s.onSpindle k f).images = s.images := rfl
@[simp] theorem utlb_onSpindle (k : Nat) (f : Spindle → Spindle) (s : State) : (s.onSpindle k f).utlb = s.utlb := rfl
@[simp] theorem parties_onSpindle (k : Nat) (f : Spindle → Spindle) (s : State) : (s.onSpindle k f).parties = s.parties := rfl
@[simp] theorem launches_onSpindle (k : Nat) (f : Spindle → Spindle) (s : State) : (s.onSpindle k f).launches = s.launches := rfl
@[simp] theorem nextSerial_onSpindle (k : Nat) (f : Spindle → Spindle) (s : State) : (s.onSpindle k f).nextSerial = s.nextSerial := rfl
@[simp] theorem dies_onSpindle (k : Nat) (f : Spindle → Spindle) (s : State) : (s.onSpindle k f).dies = s.dies := rfl
@[simp] theorem migrations_onSpindle (k : Nat) (f : Spindle → Spindle) (s : State) : (s.onSpindle k f).migrations = s.migrations := rfl
@[simp] theorem stvec_onSpindle (k : Nat) (f : Spindle → Spindle) (s : State) : (s.onSpindle k f).stvec = s.stvec := rfl
@[simp] theorem mtvec_onSpindle (k : Nat) (f : Spindle → Spindle) (s : State) : (s.onSpindle k f).mtvec = s.mtvec := rfl
@[simp] theorem ctxtab_onSpindle (k : Nat) (f : Spindle → Spindle) (s : State) : (s.onSpindle k f).ctxtab = s.ctxtab := rfl
@[simp] theorem mdeleg_onSpindle (k : Nat) (f : Spindle → Spindle) (s : State) : (s.onSpindle k f).mdeleg = s.mdeleg := rfl
@[simp] theorem stepping_onSpindle (k : Nat) (f : Spindle → Spindle) (s : State) : (s.onSpindle k f).stepping = s.stepping := rfl
@[simp] theorem ctxs_onSpindle (k : Nat) (f : Spindle → Spindle) (s : State) : (s.onSpindle k f).ctxs = s.ctxs := rfl
@[simp] theorem ctxcmd_onSpindle (k : Nat) (f : Spindle → Spindle) (s : State) : (s.onSpindle k f).ctxcmd = s.ctxcmd := rfl
@[simp] theorem ctxarg_onSpindle (k : Nat) (f : Spindle → Spindle) (s : State) : (s.onSpindle k f).ctxarg = s.ctxarg := rfl
@[simp] theorem drainlim_onSpindle (k : Nat) (f : Spindle → Spindle) (s : State) : (s.onSpindle k f).drainlim = s.drainlim := rfl
@[simp] theorem uport_onSpindle (k : Nat) (f : Spindle → Spindle) (s : State) : (s.onSpindle k f).uport = s.uport := rfl
@[simp] theorem uportFails_onSpindle (k : Nat) (f : Spindle → Spindle) (s : State) : (s.onSpindle k f).uportFails = s.uportFails := rfl
@[simp] theorem uroute_onSpindle (k : Nat) (f : Spindle → Spindle) (s : State) : (s.onSpindle k f).uroute = s.uroute := rfl
@[simp] theorem uimport_onSpindle (k : Nat) (f : Spindle → Spindle) (s : State) : (s.onSpindle k f).uimport = s.uimport := rfl
@[simp] theorem remotes_onSpindle (k : Nat) (f : Spindle → Spindle) (s : State) : (s.onSpindle k f).remotes = s.remotes := rfl
@[simp] theorem remoteWaits_onSpindle (k : Nat) (f : Spindle → Spindle) (s : State) : (s.onSpindle k f).remoteWaits = s.remoteWaits := rfl
@[simp] theorem answersOut_onSpindle (k : Nat) (f : Spindle → Spindle) (s : State) : (s.onSpindle k f).answersOut = s.answersOut := rfl
@[simp] theorem sharesEnded_onSpindle (k : Nat) (f : Spindle → Spindle) (s : State) : (s.onSpindle k f).sharesEnded = s.sharesEnded := rfl
@[simp] theorem devnum_onSpindle (k : Nat) (f : Spindle → Spindle) (s : State) : (s.onSpindle k f).devnum = s.devnum := rfl
@[simp] theorem hcpage_onSpindle (k : Nat) (f : Spindle → Spindle) (s : State) : (s.onSpindle k f).hcpage = s.hcpage := rfl
@[simp] theorem biascmd_onSpindle (k : Nat) (f : Spindle → Spindle) (s : State) : (s.onSpindle k f).biascmd = s.biascmd := rfl
@[simp] theorem cwbase_onSpindle (k : Nat) (f : Spindle → Spindle) (s : State) : (s.onSpindle k f).cwbase = s.cwbase := rfl
@[simp] theorem msix_onSpindle (k : Nat) (f : Spindle → Spindle) (s : State) : (s.onSpindle k f).msix = s.msix := rfl
@[simp] theorem msixPend_onSpindle (k : Nat) (f : Spindle → Spindle) (s : State) : (s.onSpindle k f).msixPend = s.msixPend := rfl
@[simp] theorem msixSent_onSpindle (k : Nat) (f : Spindle → Spindle) (s : State) : (s.onSpindle k f).msixSent = s.msixSent := rfl
@[simp] theorem hostReads_onSpindle (k : Nat) (f : Spindle → Spindle) (s : State) : (s.onSpindle k f).hostReads = s.hostReads := rfl
@[simp] theorem flipWaits_onSpindle (k : Nat) (f : Spindle → Spindle) (s : State) : (s.onSpindle k f).flipWaits = s.flipWaits := rfl
@[simp] theorem hostBias_onSpindle (k : Nat) (f : Spindle → Spindle) (s : State) : (s.onSpindle k f).hostBias = s.hostBias := rfl
@[simp] theorem hostLines_onSpindle (k : Nat) (f : Spindle → Spindle) (s : State) : (s.onSpindle k f).hostLines = s.hostLines := rfl
@[simp] theorem hostModified_onSpindle (k : Nat) (f : Spindle → Spindle) (s : State) : (s.onSpindle k f).hostModified = s.hostModified := rfl
@[simp] theorem aper_onSpindle (k : Nat) (f : Spindle → Spindle) (s : State) : (s.onSpindle k f).aper = s.aper := rfl
@[simp] theorem hardMod_onSpindle (k : Nat) (f : Spindle → Spindle) (s : State) : (s.onSpindle k f).hardMod = s.hardMod := rfl
@[simp] theorem notices_onSpindle (k : Nat) (f : Spindle → Spindle) (s : State) : (s.onSpindle k f).notices = s.notices := rfl
@[simp] theorem linkRate_onSpindle (k : Nat) (f : Spindle → Spindle) (s : State) : (s.onSpindle k f).linkRate = s.linkRate := rfl
@[simp] theorem linkWidth_onSpindle (k : Nat) (f : Spindle → Spindle) (s : State) : (s.onSpindle k f).linkWidth = s.linkWidth := rfl
@[simp] theorem snoopAnswers_onSpindle (k : Nat) (f : Spindle → Spindle) (s : State) : (s.onSpindle k f).snoopAnswers = s.snoopAnswers := rfl
@[simp] theorem supPorts_onSpindle (k : Nat) (f : Spindle → Spindle) (s : State) : (s.onSpindle k f).supPorts = s.supPorts := rfl
@[simp] theorem pwrlim_onSpindle (k : Nat) (f : Spindle → Spindle) (s : State) : (s.onSpindle k f).pwrlim = s.pwrlim := rfl
@[simp] theorem pwrnow_onSpindle (k : Nat) (f : Spindle → Spindle) (s : State) : (s.onSpindle k f).pwrnow = s.pwrnow := rfl
@[simp] theorem corrected_onSpindle (k : Nat) (f : Spindle → Spindle) (s : State) : (s.onSpindle k f).corrected = s.corrected := rfl
@[simp] theorem uncorrected_onSpindle (k : Nat) (f : Spindle → Spindle) (s : State) : (s.onSpindle k f).uncorrected = s.uncorrected := rfl
@[simp] theorem mgmtOut_onSpindle (k : Nat) (f : Spindle → Spindle) (s : State) : (s.onSpindle k f).mgmtOut = s.mgmtOut := rfl
@[simp] theorem boot_onSpindle (k : Nat) (f : Spindle → Spindle) (s : State) : (s.onSpindle k f).boot = s.boot := rfl
@[simp] theorem agenda_onSpindle (k : Nat) (f : Spindle → Spindle) (s : State) : (s.onSpindle k f).agenda = s.agenda := rfl
@[simp] theorem timed_onSpindle (k : Nat) (f : Spindle → Spindle) (s : State) : (s.onSpindle k f).timed = s.timed := rfl
@[simp] theorem inputs_onSpindle (k : Nat) (f : Spindle → Spindle) (s : State) : (s.onSpindle k f).inputs = s.inputs := rfl
@[simp] theorem cur_onSpindle (k : Nat) (f : Spindle → Spindle) (s : State) : (s.onSpindle k f).cur = s.cur := rfl
@[simp] theorem curNode_onSpindle (k : Nat) (f : Spindle → Spindle) (s : State) : (s.onSpindle k f).curNode = s.curNode := rfl
@[simp] theorem curCmd_onSpindle (k : Nat) (f : Spindle → Spindle) (s : State) : (s.onSpindle k f).curCmd = s.curCmd := rfl
@[simp] theorem ev_onSpindle (k : Nat) (f : Spindle → Spindle) (s : State) : (s.onSpindle k f).ev = s.ev := rfl
@[simp] theorem free_onSpindle (k : Nat) (f : Spindle → Spindle) (s : State) : (s.onSpindle k f).free = s.free := rfl
@[simp] theorem nextId_onSpindle (k : Nat) (f : Spindle → Spindle) (s : State) : (s.onSpindle k f).nextId = s.nextId := rfl
@[simp] theorem thr_onSpindle (k : Nat) (f : Spindle → Spindle) (s : State) : (s.onSpindle k f).thr = s.thr := rfl

/-! After onCluster. -/

@[simp] theorem part_onCluster (k : Nat) (f : Cluster → Cluster) (s : State) : (s.onCluster k f).part = s.part := rfl
@[simp] theorem cycle_onCluster (k : Nat) (f : Cluster → Cluster) (s : State) : (s.onCluster k f).cycle = s.cycle := rfl
@[simp] theorem mem_onCluster (k : Nat) (f : Cluster → Cluster) (s : State) : (s.onCluster k f).mem = s.mem := rfl
@[simp] theorem empties_onCluster (k : Nat) (f : Cluster → Cluster) (s : State) : (s.onCluster k f).empties = s.empties := rfl
@[simp] theorem poisoned_onCluster (k : Nat) (f : Cluster → Cluster) (s : State) : (s.onCluster k f).poisoned = s.poisoned := rfl
@[simp] theorem dir_onCluster (k : Nat) (f : Cluster → Cluster) (s : State) : (s.onCluster k f).dir = s.dir := rfl
@[simp] theorem stashed_onCluster (k : Nat) (f : Cluster → Cluster) (s : State) : (s.onCluster k f).stashed = s.stashed := rfl
@[simp] theorem l1_onCluster (k : Nat) (f : Cluster → Cluster) (s : State) : (s.onCluster k f).l1 = s.l1 := rfl
@[simp] theorem gransOff_onCluster (k : Nat) (f : Cluster → Cluster) (s : State) : (s.onCluster k f).gransOff = s.gransOff := rfl
@[simp] theorem upsets_onCluster (k : Nat) (f : Cluster → Cluster) (s : State) : (s.onCluster k f).upsets = s.upsets := rfl
@[simp] theorem threads_onCluster (k : Nat) (f : Cluster → Cluster) (s : State) : (s.onCluster k f).threads = s.threads := rfl
@[simp] theorem spindles_onCluster (k : Nat) (f : Cluster → Cluster) (s : State) : (s.onCluster k f).spindles = s.spindles := rfl
@[simp] theorem regions_onCluster (k : Nat) (f : Cluster → Cluster) (s : State) : (s.onCluster k f).regions = s.regions := rfl
@[simp] theorem images_onCluster (k : Nat) (f : Cluster → Cluster) (s : State) : (s.onCluster k f).images = s.images := rfl
@[simp] theorem utlb_onCluster (k : Nat) (f : Cluster → Cluster) (s : State) : (s.onCluster k f).utlb = s.utlb := rfl
@[simp] theorem parties_onCluster (k : Nat) (f : Cluster → Cluster) (s : State) : (s.onCluster k f).parties = s.parties := rfl
@[simp] theorem launches_onCluster (k : Nat) (f : Cluster → Cluster) (s : State) : (s.onCluster k f).launches = s.launches := rfl
@[simp] theorem nextSerial_onCluster (k : Nat) (f : Cluster → Cluster) (s : State) : (s.onCluster k f).nextSerial = s.nextSerial := rfl
@[simp] theorem dies_onCluster (k : Nat) (f : Cluster → Cluster) (s : State) : (s.onCluster k f).dies = s.dies := rfl
@[simp] theorem migrations_onCluster (k : Nat) (f : Cluster → Cluster) (s : State) : (s.onCluster k f).migrations = s.migrations := rfl
@[simp] theorem stvec_onCluster (k : Nat) (f : Cluster → Cluster) (s : State) : (s.onCluster k f).stvec = s.stvec := rfl
@[simp] theorem mtvec_onCluster (k : Nat) (f : Cluster → Cluster) (s : State) : (s.onCluster k f).mtvec = s.mtvec := rfl
@[simp] theorem ctxtab_onCluster (k : Nat) (f : Cluster → Cluster) (s : State) : (s.onCluster k f).ctxtab = s.ctxtab := rfl
@[simp] theorem mdeleg_onCluster (k : Nat) (f : Cluster → Cluster) (s : State) : (s.onCluster k f).mdeleg = s.mdeleg := rfl
@[simp] theorem stepping_onCluster (k : Nat) (f : Cluster → Cluster) (s : State) : (s.onCluster k f).stepping = s.stepping := rfl
@[simp] theorem ctxs_onCluster (k : Nat) (f : Cluster → Cluster) (s : State) : (s.onCluster k f).ctxs = s.ctxs := rfl
@[simp] theorem ctxcmd_onCluster (k : Nat) (f : Cluster → Cluster) (s : State) : (s.onCluster k f).ctxcmd = s.ctxcmd := rfl
@[simp] theorem ctxarg_onCluster (k : Nat) (f : Cluster → Cluster) (s : State) : (s.onCluster k f).ctxarg = s.ctxarg := rfl
@[simp] theorem drainlim_onCluster (k : Nat) (f : Cluster → Cluster) (s : State) : (s.onCluster k f).drainlim = s.drainlim := rfl
@[simp] theorem uport_onCluster (k : Nat) (f : Cluster → Cluster) (s : State) : (s.onCluster k f).uport = s.uport := rfl
@[simp] theorem uportFails_onCluster (k : Nat) (f : Cluster → Cluster) (s : State) : (s.onCluster k f).uportFails = s.uportFails := rfl
@[simp] theorem uroute_onCluster (k : Nat) (f : Cluster → Cluster) (s : State) : (s.onCluster k f).uroute = s.uroute := rfl
@[simp] theorem uimport_onCluster (k : Nat) (f : Cluster → Cluster) (s : State) : (s.onCluster k f).uimport = s.uimport := rfl
@[simp] theorem remotes_onCluster (k : Nat) (f : Cluster → Cluster) (s : State) : (s.onCluster k f).remotes = s.remotes := rfl
@[simp] theorem remoteWaits_onCluster (k : Nat) (f : Cluster → Cluster) (s : State) : (s.onCluster k f).remoteWaits = s.remoteWaits := rfl
@[simp] theorem answersOut_onCluster (k : Nat) (f : Cluster → Cluster) (s : State) : (s.onCluster k f).answersOut = s.answersOut := rfl
@[simp] theorem sharesEnded_onCluster (k : Nat) (f : Cluster → Cluster) (s : State) : (s.onCluster k f).sharesEnded = s.sharesEnded := rfl
@[simp] theorem devnum_onCluster (k : Nat) (f : Cluster → Cluster) (s : State) : (s.onCluster k f).devnum = s.devnum := rfl
@[simp] theorem hcpage_onCluster (k : Nat) (f : Cluster → Cluster) (s : State) : (s.onCluster k f).hcpage = s.hcpage := rfl
@[simp] theorem biascmd_onCluster (k : Nat) (f : Cluster → Cluster) (s : State) : (s.onCluster k f).biascmd = s.biascmd := rfl
@[simp] theorem cwbase_onCluster (k : Nat) (f : Cluster → Cluster) (s : State) : (s.onCluster k f).cwbase = s.cwbase := rfl
@[simp] theorem msix_onCluster (k : Nat) (f : Cluster → Cluster) (s : State) : (s.onCluster k f).msix = s.msix := rfl
@[simp] theorem msixPend_onCluster (k : Nat) (f : Cluster → Cluster) (s : State) : (s.onCluster k f).msixPend = s.msixPend := rfl
@[simp] theorem msixSent_onCluster (k : Nat) (f : Cluster → Cluster) (s : State) : (s.onCluster k f).msixSent = s.msixSent := rfl
@[simp] theorem hostReads_onCluster (k : Nat) (f : Cluster → Cluster) (s : State) : (s.onCluster k f).hostReads = s.hostReads := rfl
@[simp] theorem flipWaits_onCluster (k : Nat) (f : Cluster → Cluster) (s : State) : (s.onCluster k f).flipWaits = s.flipWaits := rfl
@[simp] theorem hostBias_onCluster (k : Nat) (f : Cluster → Cluster) (s : State) : (s.onCluster k f).hostBias = s.hostBias := rfl
@[simp] theorem hostLines_onCluster (k : Nat) (f : Cluster → Cluster) (s : State) : (s.onCluster k f).hostLines = s.hostLines := rfl
@[simp] theorem hostModified_onCluster (k : Nat) (f : Cluster → Cluster) (s : State) : (s.onCluster k f).hostModified = s.hostModified := rfl
@[simp] theorem aper_onCluster (k : Nat) (f : Cluster → Cluster) (s : State) : (s.onCluster k f).aper = s.aper := rfl
@[simp] theorem hardMod_onCluster (k : Nat) (f : Cluster → Cluster) (s : State) : (s.onCluster k f).hardMod = s.hardMod := rfl
@[simp] theorem notices_onCluster (k : Nat) (f : Cluster → Cluster) (s : State) : (s.onCluster k f).notices = s.notices := rfl
@[simp] theorem linkRate_onCluster (k : Nat) (f : Cluster → Cluster) (s : State) : (s.onCluster k f).linkRate = s.linkRate := rfl
@[simp] theorem linkWidth_onCluster (k : Nat) (f : Cluster → Cluster) (s : State) : (s.onCluster k f).linkWidth = s.linkWidth := rfl
@[simp] theorem snoopAnswers_onCluster (k : Nat) (f : Cluster → Cluster) (s : State) : (s.onCluster k f).snoopAnswers = s.snoopAnswers := rfl
@[simp] theorem supPorts_onCluster (k : Nat) (f : Cluster → Cluster) (s : State) : (s.onCluster k f).supPorts = s.supPorts := rfl
@[simp] theorem pwrlim_onCluster (k : Nat) (f : Cluster → Cluster) (s : State) : (s.onCluster k f).pwrlim = s.pwrlim := rfl
@[simp] theorem pwrnow_onCluster (k : Nat) (f : Cluster → Cluster) (s : State) : (s.onCluster k f).pwrnow = s.pwrnow := rfl
@[simp] theorem corrected_onCluster (k : Nat) (f : Cluster → Cluster) (s : State) : (s.onCluster k f).corrected = s.corrected := rfl
@[simp] theorem uncorrected_onCluster (k : Nat) (f : Cluster → Cluster) (s : State) : (s.onCluster k f).uncorrected = s.uncorrected := rfl
@[simp] theorem mgmtOut_onCluster (k : Nat) (f : Cluster → Cluster) (s : State) : (s.onCluster k f).mgmtOut = s.mgmtOut := rfl
@[simp] theorem boot_onCluster (k : Nat) (f : Cluster → Cluster) (s : State) : (s.onCluster k f).boot = s.boot := rfl
@[simp] theorem agenda_onCluster (k : Nat) (f : Cluster → Cluster) (s : State) : (s.onCluster k f).agenda = s.agenda := rfl
@[simp] theorem timed_onCluster (k : Nat) (f : Cluster → Cluster) (s : State) : (s.onCluster k f).timed = s.timed := rfl
@[simp] theorem inputs_onCluster (k : Nat) (f : Cluster → Cluster) (s : State) : (s.onCluster k f).inputs = s.inputs := rfl
@[simp] theorem cur_onCluster (k : Nat) (f : Cluster → Cluster) (s : State) : (s.onCluster k f).cur = s.cur := rfl
@[simp] theorem curNode_onCluster (k : Nat) (f : Cluster → Cluster) (s : State) : (s.onCluster k f).curNode = s.curNode := rfl
@[simp] theorem curCmd_onCluster (k : Nat) (f : Cluster → Cluster) (s : State) : (s.onCluster k f).curCmd = s.curCmd := rfl
@[simp] theorem ev_onCluster (k : Nat) (f : Cluster → Cluster) (s : State) : (s.onCluster k f).ev = s.ev := rfl
@[simp] theorem free_onCluster (k : Nat) (f : Cluster → Cluster) (s : State) : (s.onCluster k f).free = s.free := rfl
@[simp] theorem nextId_onCluster (k : Nat) (f : Cluster → Cluster) (s : State) : (s.onCluster k f).nextId = s.nextId := rfl
@[simp] theorem thr_onCluster (k : Nat) (f : Cluster → Cluster) (s : State) : (s.onCluster k f).thr = s.thr := rfl

/-! After onRegion. -/

@[simp] theorem part_onRegion (k : Nat) (f : Region → Region) (s : State) : (s.onRegion k f).part = s.part := rfl
@[simp] theorem cycle_onRegion (k : Nat) (f : Region → Region) (s : State) : (s.onRegion k f).cycle = s.cycle := rfl
@[simp] theorem mem_onRegion (k : Nat) (f : Region → Region) (s : State) : (s.onRegion k f).mem = s.mem := rfl
@[simp] theorem empties_onRegion (k : Nat) (f : Region → Region) (s : State) : (s.onRegion k f).empties = s.empties := rfl
@[simp] theorem poisoned_onRegion (k : Nat) (f : Region → Region) (s : State) : (s.onRegion k f).poisoned = s.poisoned := rfl
@[simp] theorem dir_onRegion (k : Nat) (f : Region → Region) (s : State) : (s.onRegion k f).dir = s.dir := rfl
@[simp] theorem stashed_onRegion (k : Nat) (f : Region → Region) (s : State) : (s.onRegion k f).stashed = s.stashed := rfl
@[simp] theorem l1_onRegion (k : Nat) (f : Region → Region) (s : State) : (s.onRegion k f).l1 = s.l1 := rfl
@[simp] theorem gransOff_onRegion (k : Nat) (f : Region → Region) (s : State) : (s.onRegion k f).gransOff = s.gransOff := rfl
@[simp] theorem upsets_onRegion (k : Nat) (f : Region → Region) (s : State) : (s.onRegion k f).upsets = s.upsets := rfl
@[simp] theorem threads_onRegion (k : Nat) (f : Region → Region) (s : State) : (s.onRegion k f).threads = s.threads := rfl
@[simp] theorem spindles_onRegion (k : Nat) (f : Region → Region) (s : State) : (s.onRegion k f).spindles = s.spindles := rfl
@[simp] theorem clusters_onRegion (k : Nat) (f : Region → Region) (s : State) : (s.onRegion k f).clusters = s.clusters := rfl
@[simp] theorem images_onRegion (k : Nat) (f : Region → Region) (s : State) : (s.onRegion k f).images = s.images := rfl
@[simp] theorem utlb_onRegion (k : Nat) (f : Region → Region) (s : State) : (s.onRegion k f).utlb = s.utlb := rfl
@[simp] theorem parties_onRegion (k : Nat) (f : Region → Region) (s : State) : (s.onRegion k f).parties = s.parties := rfl
@[simp] theorem launches_onRegion (k : Nat) (f : Region → Region) (s : State) : (s.onRegion k f).launches = s.launches := rfl
@[simp] theorem nextSerial_onRegion (k : Nat) (f : Region → Region) (s : State) : (s.onRegion k f).nextSerial = s.nextSerial := rfl
@[simp] theorem dies_onRegion (k : Nat) (f : Region → Region) (s : State) : (s.onRegion k f).dies = s.dies := rfl
@[simp] theorem migrations_onRegion (k : Nat) (f : Region → Region) (s : State) : (s.onRegion k f).migrations = s.migrations := rfl
@[simp] theorem stvec_onRegion (k : Nat) (f : Region → Region) (s : State) : (s.onRegion k f).stvec = s.stvec := rfl
@[simp] theorem mtvec_onRegion (k : Nat) (f : Region → Region) (s : State) : (s.onRegion k f).mtvec = s.mtvec := rfl
@[simp] theorem ctxtab_onRegion (k : Nat) (f : Region → Region) (s : State) : (s.onRegion k f).ctxtab = s.ctxtab := rfl
@[simp] theorem mdeleg_onRegion (k : Nat) (f : Region → Region) (s : State) : (s.onRegion k f).mdeleg = s.mdeleg := rfl
@[simp] theorem stepping_onRegion (k : Nat) (f : Region → Region) (s : State) : (s.onRegion k f).stepping = s.stepping := rfl
@[simp] theorem ctxs_onRegion (k : Nat) (f : Region → Region) (s : State) : (s.onRegion k f).ctxs = s.ctxs := rfl
@[simp] theorem ctxcmd_onRegion (k : Nat) (f : Region → Region) (s : State) : (s.onRegion k f).ctxcmd = s.ctxcmd := rfl
@[simp] theorem ctxarg_onRegion (k : Nat) (f : Region → Region) (s : State) : (s.onRegion k f).ctxarg = s.ctxarg := rfl
@[simp] theorem drainlim_onRegion (k : Nat) (f : Region → Region) (s : State) : (s.onRegion k f).drainlim = s.drainlim := rfl
@[simp] theorem uport_onRegion (k : Nat) (f : Region → Region) (s : State) : (s.onRegion k f).uport = s.uport := rfl
@[simp] theorem uportFails_onRegion (k : Nat) (f : Region → Region) (s : State) : (s.onRegion k f).uportFails = s.uportFails := rfl
@[simp] theorem uroute_onRegion (k : Nat) (f : Region → Region) (s : State) : (s.onRegion k f).uroute = s.uroute := rfl
@[simp] theorem uimport_onRegion (k : Nat) (f : Region → Region) (s : State) : (s.onRegion k f).uimport = s.uimport := rfl
@[simp] theorem remotes_onRegion (k : Nat) (f : Region → Region) (s : State) : (s.onRegion k f).remotes = s.remotes := rfl
@[simp] theorem remoteWaits_onRegion (k : Nat) (f : Region → Region) (s : State) : (s.onRegion k f).remoteWaits = s.remoteWaits := rfl
@[simp] theorem answersOut_onRegion (k : Nat) (f : Region → Region) (s : State) : (s.onRegion k f).answersOut = s.answersOut := rfl
@[simp] theorem sharesEnded_onRegion (k : Nat) (f : Region → Region) (s : State) : (s.onRegion k f).sharesEnded = s.sharesEnded := rfl
@[simp] theorem devnum_onRegion (k : Nat) (f : Region → Region) (s : State) : (s.onRegion k f).devnum = s.devnum := rfl
@[simp] theorem hcpage_onRegion (k : Nat) (f : Region → Region) (s : State) : (s.onRegion k f).hcpage = s.hcpage := rfl
@[simp] theorem biascmd_onRegion (k : Nat) (f : Region → Region) (s : State) : (s.onRegion k f).biascmd = s.biascmd := rfl
@[simp] theorem cwbase_onRegion (k : Nat) (f : Region → Region) (s : State) : (s.onRegion k f).cwbase = s.cwbase := rfl
@[simp] theorem msix_onRegion (k : Nat) (f : Region → Region) (s : State) : (s.onRegion k f).msix = s.msix := rfl
@[simp] theorem msixPend_onRegion (k : Nat) (f : Region → Region) (s : State) : (s.onRegion k f).msixPend = s.msixPend := rfl
@[simp] theorem msixSent_onRegion (k : Nat) (f : Region → Region) (s : State) : (s.onRegion k f).msixSent = s.msixSent := rfl
@[simp] theorem hostReads_onRegion (k : Nat) (f : Region → Region) (s : State) : (s.onRegion k f).hostReads = s.hostReads := rfl
@[simp] theorem flipWaits_onRegion (k : Nat) (f : Region → Region) (s : State) : (s.onRegion k f).flipWaits = s.flipWaits := rfl
@[simp] theorem hostBias_onRegion (k : Nat) (f : Region → Region) (s : State) : (s.onRegion k f).hostBias = s.hostBias := rfl
@[simp] theorem hostLines_onRegion (k : Nat) (f : Region → Region) (s : State) : (s.onRegion k f).hostLines = s.hostLines := rfl
@[simp] theorem hostModified_onRegion (k : Nat) (f : Region → Region) (s : State) : (s.onRegion k f).hostModified = s.hostModified := rfl
@[simp] theorem aper_onRegion (k : Nat) (f : Region → Region) (s : State) : (s.onRegion k f).aper = s.aper := rfl
@[simp] theorem hardMod_onRegion (k : Nat) (f : Region → Region) (s : State) : (s.onRegion k f).hardMod = s.hardMod := rfl
@[simp] theorem notices_onRegion (k : Nat) (f : Region → Region) (s : State) : (s.onRegion k f).notices = s.notices := rfl
@[simp] theorem linkRate_onRegion (k : Nat) (f : Region → Region) (s : State) : (s.onRegion k f).linkRate = s.linkRate := rfl
@[simp] theorem linkWidth_onRegion (k : Nat) (f : Region → Region) (s : State) : (s.onRegion k f).linkWidth = s.linkWidth := rfl
@[simp] theorem snoopAnswers_onRegion (k : Nat) (f : Region → Region) (s : State) : (s.onRegion k f).snoopAnswers = s.snoopAnswers := rfl
@[simp] theorem supPorts_onRegion (k : Nat) (f : Region → Region) (s : State) : (s.onRegion k f).supPorts = s.supPorts := rfl
@[simp] theorem pwrlim_onRegion (k : Nat) (f : Region → Region) (s : State) : (s.onRegion k f).pwrlim = s.pwrlim := rfl
@[simp] theorem pwrnow_onRegion (k : Nat) (f : Region → Region) (s : State) : (s.onRegion k f).pwrnow = s.pwrnow := rfl
@[simp] theorem corrected_onRegion (k : Nat) (f : Region → Region) (s : State) : (s.onRegion k f).corrected = s.corrected := rfl
@[simp] theorem uncorrected_onRegion (k : Nat) (f : Region → Region) (s : State) : (s.onRegion k f).uncorrected = s.uncorrected := rfl
@[simp] theorem mgmtOut_onRegion (k : Nat) (f : Region → Region) (s : State) : (s.onRegion k f).mgmtOut = s.mgmtOut := rfl
@[simp] theorem boot_onRegion (k : Nat) (f : Region → Region) (s : State) : (s.onRegion k f).boot = s.boot := rfl
@[simp] theorem agenda_onRegion (k : Nat) (f : Region → Region) (s : State) : (s.onRegion k f).agenda = s.agenda := rfl
@[simp] theorem timed_onRegion (k : Nat) (f : Region → Region) (s : State) : (s.onRegion k f).timed = s.timed := rfl
@[simp] theorem inputs_onRegion (k : Nat) (f : Region → Region) (s : State) : (s.onRegion k f).inputs = s.inputs := rfl
@[simp] theorem cur_onRegion (k : Nat) (f : Region → Region) (s : State) : (s.onRegion k f).cur = s.cur := rfl
@[simp] theorem curNode_onRegion (k : Nat) (f : Region → Region) (s : State) : (s.onRegion k f).curNode = s.curNode := rfl
@[simp] theorem curCmd_onRegion (k : Nat) (f : Region → Region) (s : State) : (s.onRegion k f).curCmd = s.curCmd := rfl
@[simp] theorem ev_onRegion (k : Nat) (f : Region → Region) (s : State) : (s.onRegion k f).ev = s.ev := rfl
@[simp] theorem free_onRegion (k : Nat) (f : Region → Region) (s : State) : (s.onRegion k f).free = s.free := rfl
@[simp] theorem nextId_onRegion (k : Nat) (f : Region → Region) (s : State) : (s.onRegion k f).nextId = s.nextId := rfl
@[simp] theorem thr_onRegion (k : Nat) (f : Region → Region) (s : State) : (s.onRegion k f).thr = s.thr := rfl

/-! After onDie. -/

@[simp] theorem part_onDie (k : Nat) (f : Die → Die) (s : State) : (s.onDie k f).part = s.part := rfl
@[simp] theorem cycle_onDie (k : Nat) (f : Die → Die) (s : State) : (s.onDie k f).cycle = s.cycle := rfl
@[simp] theorem mem_onDie (k : Nat) (f : Die → Die) (s : State) : (s.onDie k f).mem = s.mem := rfl
@[simp] theorem empties_onDie (k : Nat) (f : Die → Die) (s : State) : (s.onDie k f).empties = s.empties := rfl
@[simp] theorem poisoned_onDie (k : Nat) (f : Die → Die) (s : State) : (s.onDie k f).poisoned = s.poisoned := rfl
@[simp] theorem dir_onDie (k : Nat) (f : Die → Die) (s : State) : (s.onDie k f).dir = s.dir := rfl
@[simp] theorem stashed_onDie (k : Nat) (f : Die → Die) (s : State) : (s.onDie k f).stashed = s.stashed := rfl
@[simp] theorem l1_onDie (k : Nat) (f : Die → Die) (s : State) : (s.onDie k f).l1 = s.l1 := rfl
@[simp] theorem gransOff_onDie (k : Nat) (f : Die → Die) (s : State) : (s.onDie k f).gransOff = s.gransOff := rfl
@[simp] theorem upsets_onDie (k : Nat) (f : Die → Die) (s : State) : (s.onDie k f).upsets = s.upsets := rfl
@[simp] theorem threads_onDie (k : Nat) (f : Die → Die) (s : State) : (s.onDie k f).threads = s.threads := rfl
@[simp] theorem spindles_onDie (k : Nat) (f : Die → Die) (s : State) : (s.onDie k f).spindles = s.spindles := rfl
@[simp] theorem clusters_onDie (k : Nat) (f : Die → Die) (s : State) : (s.onDie k f).clusters = s.clusters := rfl
@[simp] theorem regions_onDie (k : Nat) (f : Die → Die) (s : State) : (s.onDie k f).regions = s.regions := rfl
@[simp] theorem images_onDie (k : Nat) (f : Die → Die) (s : State) : (s.onDie k f).images = s.images := rfl
@[simp] theorem utlb_onDie (k : Nat) (f : Die → Die) (s : State) : (s.onDie k f).utlb = s.utlb := rfl
@[simp] theorem parties_onDie (k : Nat) (f : Die → Die) (s : State) : (s.onDie k f).parties = s.parties := rfl
@[simp] theorem launches_onDie (k : Nat) (f : Die → Die) (s : State) : (s.onDie k f).launches = s.launches := rfl
@[simp] theorem nextSerial_onDie (k : Nat) (f : Die → Die) (s : State) : (s.onDie k f).nextSerial = s.nextSerial := rfl
@[simp] theorem migrations_onDie (k : Nat) (f : Die → Die) (s : State) : (s.onDie k f).migrations = s.migrations := rfl
@[simp] theorem stvec_onDie (k : Nat) (f : Die → Die) (s : State) : (s.onDie k f).stvec = s.stvec := rfl
@[simp] theorem mtvec_onDie (k : Nat) (f : Die → Die) (s : State) : (s.onDie k f).mtvec = s.mtvec := rfl
@[simp] theorem ctxtab_onDie (k : Nat) (f : Die → Die) (s : State) : (s.onDie k f).ctxtab = s.ctxtab := rfl
@[simp] theorem mdeleg_onDie (k : Nat) (f : Die → Die) (s : State) : (s.onDie k f).mdeleg = s.mdeleg := rfl
@[simp] theorem stepping_onDie (k : Nat) (f : Die → Die) (s : State) : (s.onDie k f).stepping = s.stepping := rfl
@[simp] theorem ctxs_onDie (k : Nat) (f : Die → Die) (s : State) : (s.onDie k f).ctxs = s.ctxs := rfl
@[simp] theorem ctxcmd_onDie (k : Nat) (f : Die → Die) (s : State) : (s.onDie k f).ctxcmd = s.ctxcmd := rfl
@[simp] theorem ctxarg_onDie (k : Nat) (f : Die → Die) (s : State) : (s.onDie k f).ctxarg = s.ctxarg := rfl
@[simp] theorem drainlim_onDie (k : Nat) (f : Die → Die) (s : State) : (s.onDie k f).drainlim = s.drainlim := rfl
@[simp] theorem uport_onDie (k : Nat) (f : Die → Die) (s : State) : (s.onDie k f).uport = s.uport := rfl
@[simp] theorem uportFails_onDie (k : Nat) (f : Die → Die) (s : State) : (s.onDie k f).uportFails = s.uportFails := rfl
@[simp] theorem uroute_onDie (k : Nat) (f : Die → Die) (s : State) : (s.onDie k f).uroute = s.uroute := rfl
@[simp] theorem uimport_onDie (k : Nat) (f : Die → Die) (s : State) : (s.onDie k f).uimport = s.uimport := rfl
@[simp] theorem remotes_onDie (k : Nat) (f : Die → Die) (s : State) : (s.onDie k f).remotes = s.remotes := rfl
@[simp] theorem remoteWaits_onDie (k : Nat) (f : Die → Die) (s : State) : (s.onDie k f).remoteWaits = s.remoteWaits := rfl
@[simp] theorem answersOut_onDie (k : Nat) (f : Die → Die) (s : State) : (s.onDie k f).answersOut = s.answersOut := rfl
@[simp] theorem sharesEnded_onDie (k : Nat) (f : Die → Die) (s : State) : (s.onDie k f).sharesEnded = s.sharesEnded := rfl
@[simp] theorem devnum_onDie (k : Nat) (f : Die → Die) (s : State) : (s.onDie k f).devnum = s.devnum := rfl
@[simp] theorem hcpage_onDie (k : Nat) (f : Die → Die) (s : State) : (s.onDie k f).hcpage = s.hcpage := rfl
@[simp] theorem biascmd_onDie (k : Nat) (f : Die → Die) (s : State) : (s.onDie k f).biascmd = s.biascmd := rfl
@[simp] theorem cwbase_onDie (k : Nat) (f : Die → Die) (s : State) : (s.onDie k f).cwbase = s.cwbase := rfl
@[simp] theorem msix_onDie (k : Nat) (f : Die → Die) (s : State) : (s.onDie k f).msix = s.msix := rfl
@[simp] theorem msixPend_onDie (k : Nat) (f : Die → Die) (s : State) : (s.onDie k f).msixPend = s.msixPend := rfl
@[simp] theorem msixSent_onDie (k : Nat) (f : Die → Die) (s : State) : (s.onDie k f).msixSent = s.msixSent := rfl
@[simp] theorem hostReads_onDie (k : Nat) (f : Die → Die) (s : State) : (s.onDie k f).hostReads = s.hostReads := rfl
@[simp] theorem flipWaits_onDie (k : Nat) (f : Die → Die) (s : State) : (s.onDie k f).flipWaits = s.flipWaits := rfl
@[simp] theorem hostBias_onDie (k : Nat) (f : Die → Die) (s : State) : (s.onDie k f).hostBias = s.hostBias := rfl
@[simp] theorem hostLines_onDie (k : Nat) (f : Die → Die) (s : State) : (s.onDie k f).hostLines = s.hostLines := rfl
@[simp] theorem hostModified_onDie (k : Nat) (f : Die → Die) (s : State) : (s.onDie k f).hostModified = s.hostModified := rfl
@[simp] theorem aper_onDie (k : Nat) (f : Die → Die) (s : State) : (s.onDie k f).aper = s.aper := rfl
@[simp] theorem hardMod_onDie (k : Nat) (f : Die → Die) (s : State) : (s.onDie k f).hardMod = s.hardMod := rfl
@[simp] theorem notices_onDie (k : Nat) (f : Die → Die) (s : State) : (s.onDie k f).notices = s.notices := rfl
@[simp] theorem linkRate_onDie (k : Nat) (f : Die → Die) (s : State) : (s.onDie k f).linkRate = s.linkRate := rfl
@[simp] theorem linkWidth_onDie (k : Nat) (f : Die → Die) (s : State) : (s.onDie k f).linkWidth = s.linkWidth := rfl
@[simp] theorem snoopAnswers_onDie (k : Nat) (f : Die → Die) (s : State) : (s.onDie k f).snoopAnswers = s.snoopAnswers := rfl
@[simp] theorem supPorts_onDie (k : Nat) (f : Die → Die) (s : State) : (s.onDie k f).supPorts = s.supPorts := rfl
@[simp] theorem pwrlim_onDie (k : Nat) (f : Die → Die) (s : State) : (s.onDie k f).pwrlim = s.pwrlim := rfl
@[simp] theorem pwrnow_onDie (k : Nat) (f : Die → Die) (s : State) : (s.onDie k f).pwrnow = s.pwrnow := rfl
@[simp] theorem corrected_onDie (k : Nat) (f : Die → Die) (s : State) : (s.onDie k f).corrected = s.corrected := rfl
@[simp] theorem uncorrected_onDie (k : Nat) (f : Die → Die) (s : State) : (s.onDie k f).uncorrected = s.uncorrected := rfl
@[simp] theorem mgmtOut_onDie (k : Nat) (f : Die → Die) (s : State) : (s.onDie k f).mgmtOut = s.mgmtOut := rfl
@[simp] theorem boot_onDie (k : Nat) (f : Die → Die) (s : State) : (s.onDie k f).boot = s.boot := rfl
@[simp] theorem agenda_onDie (k : Nat) (f : Die → Die) (s : State) : (s.onDie k f).agenda = s.agenda := rfl
@[simp] theorem timed_onDie (k : Nat) (f : Die → Die) (s : State) : (s.onDie k f).timed = s.timed := rfl
@[simp] theorem inputs_onDie (k : Nat) (f : Die → Die) (s : State) : (s.onDie k f).inputs = s.inputs := rfl
@[simp] theorem cur_onDie (k : Nat) (f : Die → Die) (s : State) : (s.onDie k f).cur = s.cur := rfl
@[simp] theorem curNode_onDie (k : Nat) (f : Die → Die) (s : State) : (s.onDie k f).curNode = s.curNode := rfl
@[simp] theorem curCmd_onDie (k : Nat) (f : Die → Die) (s : State) : (s.onDie k f).curCmd = s.curCmd := rfl
@[simp] theorem ev_onDie (k : Nat) (f : Die → Die) (s : State) : (s.onDie k f).ev = s.ev := rfl
@[simp] theorem free_onDie (k : Nat) (f : Die → Die) (s : State) : (s.onDie k f).free = s.free := rfl
@[simp] theorem nextId_onDie (k : Nat) (f : Die → Die) (s : State) : (s.onDie k f).nextId = s.nextId := rfl
@[simp] theorem thr_onDie (k : Nat) (f : Die → Die) (s : State) : (s.onDie k f).thr = s.thr := rfl

/-! After wr8. -/

@[simp] theorem part_wr8 (a : Nat) (v : Word) (s : State) : (s.wr8 a v).part = s.part := rfl
@[simp] theorem cycle_wr8 (a : Nat) (v : Word) (s : State) : (s.wr8 a v).cycle = s.cycle := rfl
@[simp] theorem empties_wr8 (a : Nat) (v : Word) (s : State) : (s.wr8 a v).empties = s.empties := rfl
@[simp] theorem poisoned_wr8 (a : Nat) (v : Word) (s : State) : (s.wr8 a v).poisoned = s.poisoned := rfl
@[simp] theorem dir_wr8 (a : Nat) (v : Word) (s : State) : (s.wr8 a v).dir = s.dir := rfl
@[simp] theorem stashed_wr8 (a : Nat) (v : Word) (s : State) : (s.wr8 a v).stashed = s.stashed := rfl
@[simp] theorem l1_wr8 (a : Nat) (v : Word) (s : State) : (s.wr8 a v).l1 = s.l1 := rfl
@[simp] theorem gransOff_wr8 (a : Nat) (v : Word) (s : State) : (s.wr8 a v).gransOff = s.gransOff := rfl
@[simp] theorem upsets_wr8 (a : Nat) (v : Word) (s : State) : (s.wr8 a v).upsets = s.upsets := rfl
@[simp] theorem threads_wr8 (a : Nat) (v : Word) (s : State) : (s.wr8 a v).threads = s.threads := rfl
@[simp] theorem spindles_wr8 (a : Nat) (v : Word) (s : State) : (s.wr8 a v).spindles = s.spindles := rfl
@[simp] theorem clusters_wr8 (a : Nat) (v : Word) (s : State) : (s.wr8 a v).clusters = s.clusters := rfl
@[simp] theorem regions_wr8 (a : Nat) (v : Word) (s : State) : (s.wr8 a v).regions = s.regions := rfl
@[simp] theorem images_wr8 (a : Nat) (v : Word) (s : State) : (s.wr8 a v).images = s.images := rfl
@[simp] theorem utlb_wr8 (a : Nat) (v : Word) (s : State) : (s.wr8 a v).utlb = s.utlb := rfl
@[simp] theorem parties_wr8 (a : Nat) (v : Word) (s : State) : (s.wr8 a v).parties = s.parties := rfl
@[simp] theorem launches_wr8 (a : Nat) (v : Word) (s : State) : (s.wr8 a v).launches = s.launches := rfl
@[simp] theorem nextSerial_wr8 (a : Nat) (v : Word) (s : State) : (s.wr8 a v).nextSerial = s.nextSerial := rfl
@[simp] theorem dies_wr8 (a : Nat) (v : Word) (s : State) : (s.wr8 a v).dies = s.dies := rfl
@[simp] theorem migrations_wr8 (a : Nat) (v : Word) (s : State) : (s.wr8 a v).migrations = s.migrations := rfl
@[simp] theorem stvec_wr8 (a : Nat) (v : Word) (s : State) : (s.wr8 a v).stvec = s.stvec := rfl
@[simp] theorem mtvec_wr8 (a : Nat) (v : Word) (s : State) : (s.wr8 a v).mtvec = s.mtvec := rfl
@[simp] theorem ctxtab_wr8 (a : Nat) (v : Word) (s : State) : (s.wr8 a v).ctxtab = s.ctxtab := rfl
@[simp] theorem mdeleg_wr8 (a : Nat) (v : Word) (s : State) : (s.wr8 a v).mdeleg = s.mdeleg := rfl
@[simp] theorem stepping_wr8 (a : Nat) (v : Word) (s : State) : (s.wr8 a v).stepping = s.stepping := rfl
@[simp] theorem ctxs_wr8 (a : Nat) (v : Word) (s : State) : (s.wr8 a v).ctxs = s.ctxs := rfl
@[simp] theorem ctxcmd_wr8 (a : Nat) (v : Word) (s : State) : (s.wr8 a v).ctxcmd = s.ctxcmd := rfl
@[simp] theorem ctxarg_wr8 (a : Nat) (v : Word) (s : State) : (s.wr8 a v).ctxarg = s.ctxarg := rfl
@[simp] theorem drainlim_wr8 (a : Nat) (v : Word) (s : State) : (s.wr8 a v).drainlim = s.drainlim := rfl
@[simp] theorem uport_wr8 (a : Nat) (v : Word) (s : State) : (s.wr8 a v).uport = s.uport := rfl
@[simp] theorem uportFails_wr8 (a : Nat) (v : Word) (s : State) : (s.wr8 a v).uportFails = s.uportFails := rfl
@[simp] theorem uroute_wr8 (a : Nat) (v : Word) (s : State) : (s.wr8 a v).uroute = s.uroute := rfl
@[simp] theorem uimport_wr8 (a : Nat) (v : Word) (s : State) : (s.wr8 a v).uimport = s.uimport := rfl
@[simp] theorem remotes_wr8 (a : Nat) (v : Word) (s : State) : (s.wr8 a v).remotes = s.remotes := rfl
@[simp] theorem remoteWaits_wr8 (a : Nat) (v : Word) (s : State) : (s.wr8 a v).remoteWaits = s.remoteWaits := rfl
@[simp] theorem answersOut_wr8 (a : Nat) (v : Word) (s : State) : (s.wr8 a v).answersOut = s.answersOut := rfl
@[simp] theorem sharesEnded_wr8 (a : Nat) (v : Word) (s : State) : (s.wr8 a v).sharesEnded = s.sharesEnded := rfl
@[simp] theorem devnum_wr8 (a : Nat) (v : Word) (s : State) : (s.wr8 a v).devnum = s.devnum := rfl
@[simp] theorem hcpage_wr8 (a : Nat) (v : Word) (s : State) : (s.wr8 a v).hcpage = s.hcpage := rfl
@[simp] theorem biascmd_wr8 (a : Nat) (v : Word) (s : State) : (s.wr8 a v).biascmd = s.biascmd := rfl
@[simp] theorem cwbase_wr8 (a : Nat) (v : Word) (s : State) : (s.wr8 a v).cwbase = s.cwbase := rfl
@[simp] theorem msix_wr8 (a : Nat) (v : Word) (s : State) : (s.wr8 a v).msix = s.msix := rfl
@[simp] theorem msixPend_wr8 (a : Nat) (v : Word) (s : State) : (s.wr8 a v).msixPend = s.msixPend := rfl
@[simp] theorem msixSent_wr8 (a : Nat) (v : Word) (s : State) : (s.wr8 a v).msixSent = s.msixSent := rfl
@[simp] theorem hostReads_wr8 (a : Nat) (v : Word) (s : State) : (s.wr8 a v).hostReads = s.hostReads := rfl
@[simp] theorem flipWaits_wr8 (a : Nat) (v : Word) (s : State) : (s.wr8 a v).flipWaits = s.flipWaits := rfl
@[simp] theorem hostBias_wr8 (a : Nat) (v : Word) (s : State) : (s.wr8 a v).hostBias = s.hostBias := rfl
@[simp] theorem hostLines_wr8 (a : Nat) (v : Word) (s : State) : (s.wr8 a v).hostLines = s.hostLines := rfl
@[simp] theorem hostModified_wr8 (a : Nat) (v : Word) (s : State) : (s.wr8 a v).hostModified = s.hostModified := rfl
@[simp] theorem aper_wr8 (a : Nat) (v : Word) (s : State) : (s.wr8 a v).aper = s.aper := rfl
@[simp] theorem hardMod_wr8 (a : Nat) (v : Word) (s : State) : (s.wr8 a v).hardMod = s.hardMod := rfl
@[simp] theorem notices_wr8 (a : Nat) (v : Word) (s : State) : (s.wr8 a v).notices = s.notices := rfl
@[simp] theorem linkRate_wr8 (a : Nat) (v : Word) (s : State) : (s.wr8 a v).linkRate = s.linkRate := rfl
@[simp] theorem linkWidth_wr8 (a : Nat) (v : Word) (s : State) : (s.wr8 a v).linkWidth = s.linkWidth := rfl
@[simp] theorem snoopAnswers_wr8 (a : Nat) (v : Word) (s : State) : (s.wr8 a v).snoopAnswers = s.snoopAnswers := rfl
@[simp] theorem supPorts_wr8 (a : Nat) (v : Word) (s : State) : (s.wr8 a v).supPorts = s.supPorts := rfl
@[simp] theorem pwrlim_wr8 (a : Nat) (v : Word) (s : State) : (s.wr8 a v).pwrlim = s.pwrlim := rfl
@[simp] theorem pwrnow_wr8 (a : Nat) (v : Word) (s : State) : (s.wr8 a v).pwrnow = s.pwrnow := rfl
@[simp] theorem corrected_wr8 (a : Nat) (v : Word) (s : State) : (s.wr8 a v).corrected = s.corrected := rfl
@[simp] theorem uncorrected_wr8 (a : Nat) (v : Word) (s : State) : (s.wr8 a v).uncorrected = s.uncorrected := rfl
@[simp] theorem mgmtOut_wr8 (a : Nat) (v : Word) (s : State) : (s.wr8 a v).mgmtOut = s.mgmtOut := rfl
@[simp] theorem boot_wr8 (a : Nat) (v : Word) (s : State) : (s.wr8 a v).boot = s.boot := rfl
@[simp] theorem agenda_wr8 (a : Nat) (v : Word) (s : State) : (s.wr8 a v).agenda = s.agenda := rfl
@[simp] theorem timed_wr8 (a : Nat) (v : Word) (s : State) : (s.wr8 a v).timed = s.timed := rfl
@[simp] theorem inputs_wr8 (a : Nat) (v : Word) (s : State) : (s.wr8 a v).inputs = s.inputs := rfl
@[simp] theorem cur_wr8 (a : Nat) (v : Word) (s : State) : (s.wr8 a v).cur = s.cur := rfl
@[simp] theorem curNode_wr8 (a : Nat) (v : Word) (s : State) : (s.wr8 a v).curNode = s.curNode := rfl
@[simp] theorem curCmd_wr8 (a : Nat) (v : Word) (s : State) : (s.wr8 a v).curCmd = s.curCmd := rfl
@[simp] theorem ev_wr8 (a : Nat) (v : Word) (s : State) : (s.wr8 a v).ev = s.ev := rfl
@[simp] theorem free_wr8 (a : Nat) (v : Word) (s : State) : (s.wr8 a v).free = s.free := rfl
@[simp] theorem nextId_wr8 (a : Nat) (v : Word) (s : State) : (s.wr8 a v).nextId = s.nextId := rfl
@[simp] theorem thr_wr8 (a : Nat) (v : Word) (s : State) : (s.wr8 a v).thr = s.thr := rfl

/-! After wrBytes. -/

@[simp] theorem part_wrBytes (a : Nat) (v : List Byte) (s : State) : (s.wrBytes a v).part = s.part := rfl
@[simp] theorem cycle_wrBytes (a : Nat) (v : List Byte) (s : State) : (s.wrBytes a v).cycle = s.cycle := rfl
@[simp] theorem empties_wrBytes (a : Nat) (v : List Byte) (s : State) : (s.wrBytes a v).empties = s.empties := rfl
@[simp] theorem poisoned_wrBytes (a : Nat) (v : List Byte) (s : State) : (s.wrBytes a v).poisoned = s.poisoned := rfl
@[simp] theorem dir_wrBytes (a : Nat) (v : List Byte) (s : State) : (s.wrBytes a v).dir = s.dir := rfl
@[simp] theorem stashed_wrBytes (a : Nat) (v : List Byte) (s : State) : (s.wrBytes a v).stashed = s.stashed := rfl
@[simp] theorem l1_wrBytes (a : Nat) (v : List Byte) (s : State) : (s.wrBytes a v).l1 = s.l1 := rfl
@[simp] theorem gransOff_wrBytes (a : Nat) (v : List Byte) (s : State) : (s.wrBytes a v).gransOff = s.gransOff := rfl
@[simp] theorem upsets_wrBytes (a : Nat) (v : List Byte) (s : State) : (s.wrBytes a v).upsets = s.upsets := rfl
@[simp] theorem threads_wrBytes (a : Nat) (v : List Byte) (s : State) : (s.wrBytes a v).threads = s.threads := rfl
@[simp] theorem spindles_wrBytes (a : Nat) (v : List Byte) (s : State) : (s.wrBytes a v).spindles = s.spindles := rfl
@[simp] theorem clusters_wrBytes (a : Nat) (v : List Byte) (s : State) : (s.wrBytes a v).clusters = s.clusters := rfl
@[simp] theorem regions_wrBytes (a : Nat) (v : List Byte) (s : State) : (s.wrBytes a v).regions = s.regions := rfl
@[simp] theorem images_wrBytes (a : Nat) (v : List Byte) (s : State) : (s.wrBytes a v).images = s.images := rfl
@[simp] theorem utlb_wrBytes (a : Nat) (v : List Byte) (s : State) : (s.wrBytes a v).utlb = s.utlb := rfl
@[simp] theorem parties_wrBytes (a : Nat) (v : List Byte) (s : State) : (s.wrBytes a v).parties = s.parties := rfl
@[simp] theorem launches_wrBytes (a : Nat) (v : List Byte) (s : State) : (s.wrBytes a v).launches = s.launches := rfl
@[simp] theorem nextSerial_wrBytes (a : Nat) (v : List Byte) (s : State) : (s.wrBytes a v).nextSerial = s.nextSerial := rfl
@[simp] theorem dies_wrBytes (a : Nat) (v : List Byte) (s : State) : (s.wrBytes a v).dies = s.dies := rfl
@[simp] theorem migrations_wrBytes (a : Nat) (v : List Byte) (s : State) : (s.wrBytes a v).migrations = s.migrations := rfl
@[simp] theorem stvec_wrBytes (a : Nat) (v : List Byte) (s : State) : (s.wrBytes a v).stvec = s.stvec := rfl
@[simp] theorem mtvec_wrBytes (a : Nat) (v : List Byte) (s : State) : (s.wrBytes a v).mtvec = s.mtvec := rfl
@[simp] theorem ctxtab_wrBytes (a : Nat) (v : List Byte) (s : State) : (s.wrBytes a v).ctxtab = s.ctxtab := rfl
@[simp] theorem mdeleg_wrBytes (a : Nat) (v : List Byte) (s : State) : (s.wrBytes a v).mdeleg = s.mdeleg := rfl
@[simp] theorem stepping_wrBytes (a : Nat) (v : List Byte) (s : State) : (s.wrBytes a v).stepping = s.stepping := rfl
@[simp] theorem ctxs_wrBytes (a : Nat) (v : List Byte) (s : State) : (s.wrBytes a v).ctxs = s.ctxs := rfl
@[simp] theorem ctxcmd_wrBytes (a : Nat) (v : List Byte) (s : State) : (s.wrBytes a v).ctxcmd = s.ctxcmd := rfl
@[simp] theorem ctxarg_wrBytes (a : Nat) (v : List Byte) (s : State) : (s.wrBytes a v).ctxarg = s.ctxarg := rfl
@[simp] theorem drainlim_wrBytes (a : Nat) (v : List Byte) (s : State) : (s.wrBytes a v).drainlim = s.drainlim := rfl
@[simp] theorem uport_wrBytes (a : Nat) (v : List Byte) (s : State) : (s.wrBytes a v).uport = s.uport := rfl
@[simp] theorem uportFails_wrBytes (a : Nat) (v : List Byte) (s : State) : (s.wrBytes a v).uportFails = s.uportFails := rfl
@[simp] theorem uroute_wrBytes (a : Nat) (v : List Byte) (s : State) : (s.wrBytes a v).uroute = s.uroute := rfl
@[simp] theorem uimport_wrBytes (a : Nat) (v : List Byte) (s : State) : (s.wrBytes a v).uimport = s.uimport := rfl
@[simp] theorem remotes_wrBytes (a : Nat) (v : List Byte) (s : State) : (s.wrBytes a v).remotes = s.remotes := rfl
@[simp] theorem remoteWaits_wrBytes (a : Nat) (v : List Byte) (s : State) : (s.wrBytes a v).remoteWaits = s.remoteWaits := rfl
@[simp] theorem answersOut_wrBytes (a : Nat) (v : List Byte) (s : State) : (s.wrBytes a v).answersOut = s.answersOut := rfl
@[simp] theorem sharesEnded_wrBytes (a : Nat) (v : List Byte) (s : State) : (s.wrBytes a v).sharesEnded = s.sharesEnded := rfl
@[simp] theorem devnum_wrBytes (a : Nat) (v : List Byte) (s : State) : (s.wrBytes a v).devnum = s.devnum := rfl
@[simp] theorem hcpage_wrBytes (a : Nat) (v : List Byte) (s : State) : (s.wrBytes a v).hcpage = s.hcpage := rfl
@[simp] theorem biascmd_wrBytes (a : Nat) (v : List Byte) (s : State) : (s.wrBytes a v).biascmd = s.biascmd := rfl
@[simp] theorem cwbase_wrBytes (a : Nat) (v : List Byte) (s : State) : (s.wrBytes a v).cwbase = s.cwbase := rfl
@[simp] theorem msix_wrBytes (a : Nat) (v : List Byte) (s : State) : (s.wrBytes a v).msix = s.msix := rfl
@[simp] theorem msixPend_wrBytes (a : Nat) (v : List Byte) (s : State) : (s.wrBytes a v).msixPend = s.msixPend := rfl
@[simp] theorem msixSent_wrBytes (a : Nat) (v : List Byte) (s : State) : (s.wrBytes a v).msixSent = s.msixSent := rfl
@[simp] theorem hostReads_wrBytes (a : Nat) (v : List Byte) (s : State) : (s.wrBytes a v).hostReads = s.hostReads := rfl
@[simp] theorem flipWaits_wrBytes (a : Nat) (v : List Byte) (s : State) : (s.wrBytes a v).flipWaits = s.flipWaits := rfl
@[simp] theorem hostBias_wrBytes (a : Nat) (v : List Byte) (s : State) : (s.wrBytes a v).hostBias = s.hostBias := rfl
@[simp] theorem hostLines_wrBytes (a : Nat) (v : List Byte) (s : State) : (s.wrBytes a v).hostLines = s.hostLines := rfl
@[simp] theorem hostModified_wrBytes (a : Nat) (v : List Byte) (s : State) : (s.wrBytes a v).hostModified = s.hostModified := rfl
@[simp] theorem aper_wrBytes (a : Nat) (v : List Byte) (s : State) : (s.wrBytes a v).aper = s.aper := rfl
@[simp] theorem hardMod_wrBytes (a : Nat) (v : List Byte) (s : State) : (s.wrBytes a v).hardMod = s.hardMod := rfl
@[simp] theorem notices_wrBytes (a : Nat) (v : List Byte) (s : State) : (s.wrBytes a v).notices = s.notices := rfl
@[simp] theorem linkRate_wrBytes (a : Nat) (v : List Byte) (s : State) : (s.wrBytes a v).linkRate = s.linkRate := rfl
@[simp] theorem linkWidth_wrBytes (a : Nat) (v : List Byte) (s : State) : (s.wrBytes a v).linkWidth = s.linkWidth := rfl
@[simp] theorem snoopAnswers_wrBytes (a : Nat) (v : List Byte) (s : State) : (s.wrBytes a v).snoopAnswers = s.snoopAnswers := rfl
@[simp] theorem supPorts_wrBytes (a : Nat) (v : List Byte) (s : State) : (s.wrBytes a v).supPorts = s.supPorts := rfl
@[simp] theorem pwrlim_wrBytes (a : Nat) (v : List Byte) (s : State) : (s.wrBytes a v).pwrlim = s.pwrlim := rfl
@[simp] theorem pwrnow_wrBytes (a : Nat) (v : List Byte) (s : State) : (s.wrBytes a v).pwrnow = s.pwrnow := rfl
@[simp] theorem corrected_wrBytes (a : Nat) (v : List Byte) (s : State) : (s.wrBytes a v).corrected = s.corrected := rfl
@[simp] theorem uncorrected_wrBytes (a : Nat) (v : List Byte) (s : State) : (s.wrBytes a v).uncorrected = s.uncorrected := rfl
@[simp] theorem mgmtOut_wrBytes (a : Nat) (v : List Byte) (s : State) : (s.wrBytes a v).mgmtOut = s.mgmtOut := rfl
@[simp] theorem boot_wrBytes (a : Nat) (v : List Byte) (s : State) : (s.wrBytes a v).boot = s.boot := rfl
@[simp] theorem agenda_wrBytes (a : Nat) (v : List Byte) (s : State) : (s.wrBytes a v).agenda = s.agenda := rfl
@[simp] theorem timed_wrBytes (a : Nat) (v : List Byte) (s : State) : (s.wrBytes a v).timed = s.timed := rfl
@[simp] theorem inputs_wrBytes (a : Nat) (v : List Byte) (s : State) : (s.wrBytes a v).inputs = s.inputs := rfl
@[simp] theorem cur_wrBytes (a : Nat) (v : List Byte) (s : State) : (s.wrBytes a v).cur = s.cur := rfl
@[simp] theorem curNode_wrBytes (a : Nat) (v : List Byte) (s : State) : (s.wrBytes a v).curNode = s.curNode := rfl
@[simp] theorem curCmd_wrBytes (a : Nat) (v : List Byte) (s : State) : (s.wrBytes a v).curCmd = s.curCmd := rfl
@[simp] theorem ev_wrBytes (a : Nat) (v : List Byte) (s : State) : (s.wrBytes a v).ev = s.ev := rfl
@[simp] theorem free_wrBytes (a : Nat) (v : List Byte) (s : State) : (s.wrBytes a v).free = s.free := rfl
@[simp] theorem nextId_wrBytes (a : Nat) (v : List Byte) (s : State) : (s.wrBytes a v).nextId = s.nextId := rfl
@[simp] theorem thr_wrBytes (a : Nat) (v : List Byte) (s : State) : (s.wrBytes a v).thr = s.thr := rfl

/-! After soon. -/

@[simp] theorem part_soon (m : Move) (s : State) : (s.soon m).part = s.part := rfl
@[simp] theorem cycle_soon (m : Move) (s : State) : (s.soon m).cycle = s.cycle := rfl
@[simp] theorem mem_soon (m : Move) (s : State) : (s.soon m).mem = s.mem := rfl
@[simp] theorem empties_soon (m : Move) (s : State) : (s.soon m).empties = s.empties := rfl
@[simp] theorem poisoned_soon (m : Move) (s : State) : (s.soon m).poisoned = s.poisoned := rfl
@[simp] theorem dir_soon (m : Move) (s : State) : (s.soon m).dir = s.dir := rfl
@[simp] theorem stashed_soon (m : Move) (s : State) : (s.soon m).stashed = s.stashed := rfl
@[simp] theorem l1_soon (m : Move) (s : State) : (s.soon m).l1 = s.l1 := rfl
@[simp] theorem gransOff_soon (m : Move) (s : State) : (s.soon m).gransOff = s.gransOff := rfl
@[simp] theorem upsets_soon (m : Move) (s : State) : (s.soon m).upsets = s.upsets := rfl
@[simp] theorem threads_soon (m : Move) (s : State) : (s.soon m).threads = s.threads := rfl
@[simp] theorem spindles_soon (m : Move) (s : State) : (s.soon m).spindles = s.spindles := rfl
@[simp] theorem clusters_soon (m : Move) (s : State) : (s.soon m).clusters = s.clusters := rfl
@[simp] theorem regions_soon (m : Move) (s : State) : (s.soon m).regions = s.regions := rfl
@[simp] theorem images_soon (m : Move) (s : State) : (s.soon m).images = s.images := rfl
@[simp] theorem utlb_soon (m : Move) (s : State) : (s.soon m).utlb = s.utlb := rfl
@[simp] theorem parties_soon (m : Move) (s : State) : (s.soon m).parties = s.parties := rfl
@[simp] theorem launches_soon (m : Move) (s : State) : (s.soon m).launches = s.launches := rfl
@[simp] theorem nextSerial_soon (m : Move) (s : State) : (s.soon m).nextSerial = s.nextSerial := rfl
@[simp] theorem dies_soon (m : Move) (s : State) : (s.soon m).dies = s.dies := rfl
@[simp] theorem migrations_soon (m : Move) (s : State) : (s.soon m).migrations = s.migrations := rfl
@[simp] theorem stvec_soon (m : Move) (s : State) : (s.soon m).stvec = s.stvec := rfl
@[simp] theorem mtvec_soon (m : Move) (s : State) : (s.soon m).mtvec = s.mtvec := rfl
@[simp] theorem ctxtab_soon (m : Move) (s : State) : (s.soon m).ctxtab = s.ctxtab := rfl
@[simp] theorem mdeleg_soon (m : Move) (s : State) : (s.soon m).mdeleg = s.mdeleg := rfl
@[simp] theorem stepping_soon (m : Move) (s : State) : (s.soon m).stepping = s.stepping := rfl
@[simp] theorem ctxs_soon (m : Move) (s : State) : (s.soon m).ctxs = s.ctxs := rfl
@[simp] theorem ctxcmd_soon (m : Move) (s : State) : (s.soon m).ctxcmd = s.ctxcmd := rfl
@[simp] theorem ctxarg_soon (m : Move) (s : State) : (s.soon m).ctxarg = s.ctxarg := rfl
@[simp] theorem drainlim_soon (m : Move) (s : State) : (s.soon m).drainlim = s.drainlim := rfl
@[simp] theorem uport_soon (m : Move) (s : State) : (s.soon m).uport = s.uport := rfl
@[simp] theorem uportFails_soon (m : Move) (s : State) : (s.soon m).uportFails = s.uportFails := rfl
@[simp] theorem uroute_soon (m : Move) (s : State) : (s.soon m).uroute = s.uroute := rfl
@[simp] theorem uimport_soon (m : Move) (s : State) : (s.soon m).uimport = s.uimport := rfl
@[simp] theorem remotes_soon (m : Move) (s : State) : (s.soon m).remotes = s.remotes := rfl
@[simp] theorem remoteWaits_soon (m : Move) (s : State) : (s.soon m).remoteWaits = s.remoteWaits := rfl
@[simp] theorem answersOut_soon (m : Move) (s : State) : (s.soon m).answersOut = s.answersOut := rfl
@[simp] theorem sharesEnded_soon (m : Move) (s : State) : (s.soon m).sharesEnded = s.sharesEnded := rfl
@[simp] theorem devnum_soon (m : Move) (s : State) : (s.soon m).devnum = s.devnum := rfl
@[simp] theorem hcpage_soon (m : Move) (s : State) : (s.soon m).hcpage = s.hcpage := rfl
@[simp] theorem biascmd_soon (m : Move) (s : State) : (s.soon m).biascmd = s.biascmd := rfl
@[simp] theorem cwbase_soon (m : Move) (s : State) : (s.soon m).cwbase = s.cwbase := rfl
@[simp] theorem msix_soon (m : Move) (s : State) : (s.soon m).msix = s.msix := rfl
@[simp] theorem msixPend_soon (m : Move) (s : State) : (s.soon m).msixPend = s.msixPend := rfl
@[simp] theorem msixSent_soon (m : Move) (s : State) : (s.soon m).msixSent = s.msixSent := rfl
@[simp] theorem hostReads_soon (m : Move) (s : State) : (s.soon m).hostReads = s.hostReads := rfl
@[simp] theorem flipWaits_soon (m : Move) (s : State) : (s.soon m).flipWaits = s.flipWaits := rfl
@[simp] theorem hostBias_soon (m : Move) (s : State) : (s.soon m).hostBias = s.hostBias := rfl
@[simp] theorem hostLines_soon (m : Move) (s : State) : (s.soon m).hostLines = s.hostLines := rfl
@[simp] theorem hostModified_soon (m : Move) (s : State) : (s.soon m).hostModified = s.hostModified := rfl
@[simp] theorem aper_soon (m : Move) (s : State) : (s.soon m).aper = s.aper := rfl
@[simp] theorem hardMod_soon (m : Move) (s : State) : (s.soon m).hardMod = s.hardMod := rfl
@[simp] theorem notices_soon (m : Move) (s : State) : (s.soon m).notices = s.notices := rfl
@[simp] theorem linkRate_soon (m : Move) (s : State) : (s.soon m).linkRate = s.linkRate := rfl
@[simp] theorem linkWidth_soon (m : Move) (s : State) : (s.soon m).linkWidth = s.linkWidth := rfl
@[simp] theorem snoopAnswers_soon (m : Move) (s : State) : (s.soon m).snoopAnswers = s.snoopAnswers := rfl
@[simp] theorem supPorts_soon (m : Move) (s : State) : (s.soon m).supPorts = s.supPorts := rfl
@[simp] theorem pwrlim_soon (m : Move) (s : State) : (s.soon m).pwrlim = s.pwrlim := rfl
@[simp] theorem pwrnow_soon (m : Move) (s : State) : (s.soon m).pwrnow = s.pwrnow := rfl
@[simp] theorem corrected_soon (m : Move) (s : State) : (s.soon m).corrected = s.corrected := rfl
@[simp] theorem uncorrected_soon (m : Move) (s : State) : (s.soon m).uncorrected = s.uncorrected := rfl
@[simp] theorem mgmtOut_soon (m : Move) (s : State) : (s.soon m).mgmtOut = s.mgmtOut := rfl
@[simp] theorem boot_soon (m : Move) (s : State) : (s.soon m).boot = s.boot := rfl
@[simp] theorem timed_soon (m : Move) (s : State) : (s.soon m).timed = s.timed := rfl
@[simp] theorem inputs_soon (m : Move) (s : State) : (s.soon m).inputs = s.inputs := rfl
@[simp] theorem cur_soon (m : Move) (s : State) : (s.soon m).cur = s.cur := rfl
@[simp] theorem curNode_soon (m : Move) (s : State) : (s.soon m).curNode = s.curNode := rfl
@[simp] theorem curCmd_soon (m : Move) (s : State) : (s.soon m).curCmd = s.curCmd := rfl
@[simp] theorem ev_soon (m : Move) (s : State) : (s.soon m).ev = s.ev := rfl
@[simp] theorem free_soon (m : Move) (s : State) : (s.soon m).free = s.free := rfl
@[simp] theorem nextId_soon (m : Move) (s : State) : (s.soon m).nextId = s.nextId := rfl
@[simp] theorem thr_soon (m : Move) (s : State) : (s.soon m).thr = s.thr := rfl

/-! After later. -/

@[simp] theorem part_later (m : Move) (s : State) : (s.later m).part = s.part := rfl
@[simp] theorem cycle_later (m : Move) (s : State) : (s.later m).cycle = s.cycle := rfl
@[simp] theorem mem_later (m : Move) (s : State) : (s.later m).mem = s.mem := rfl
@[simp] theorem empties_later (m : Move) (s : State) : (s.later m).empties = s.empties := rfl
@[simp] theorem poisoned_later (m : Move) (s : State) : (s.later m).poisoned = s.poisoned := rfl
@[simp] theorem dir_later (m : Move) (s : State) : (s.later m).dir = s.dir := rfl
@[simp] theorem stashed_later (m : Move) (s : State) : (s.later m).stashed = s.stashed := rfl
@[simp] theorem l1_later (m : Move) (s : State) : (s.later m).l1 = s.l1 := rfl
@[simp] theorem gransOff_later (m : Move) (s : State) : (s.later m).gransOff = s.gransOff := rfl
@[simp] theorem upsets_later (m : Move) (s : State) : (s.later m).upsets = s.upsets := rfl
@[simp] theorem threads_later (m : Move) (s : State) : (s.later m).threads = s.threads := rfl
@[simp] theorem spindles_later (m : Move) (s : State) : (s.later m).spindles = s.spindles := rfl
@[simp] theorem clusters_later (m : Move) (s : State) : (s.later m).clusters = s.clusters := rfl
@[simp] theorem regions_later (m : Move) (s : State) : (s.later m).regions = s.regions := rfl
@[simp] theorem images_later (m : Move) (s : State) : (s.later m).images = s.images := rfl
@[simp] theorem utlb_later (m : Move) (s : State) : (s.later m).utlb = s.utlb := rfl
@[simp] theorem parties_later (m : Move) (s : State) : (s.later m).parties = s.parties := rfl
@[simp] theorem launches_later (m : Move) (s : State) : (s.later m).launches = s.launches := rfl
@[simp] theorem nextSerial_later (m : Move) (s : State) : (s.later m).nextSerial = s.nextSerial := rfl
@[simp] theorem dies_later (m : Move) (s : State) : (s.later m).dies = s.dies := rfl
@[simp] theorem migrations_later (m : Move) (s : State) : (s.later m).migrations = s.migrations := rfl
@[simp] theorem stvec_later (m : Move) (s : State) : (s.later m).stvec = s.stvec := rfl
@[simp] theorem mtvec_later (m : Move) (s : State) : (s.later m).mtvec = s.mtvec := rfl
@[simp] theorem ctxtab_later (m : Move) (s : State) : (s.later m).ctxtab = s.ctxtab := rfl
@[simp] theorem mdeleg_later (m : Move) (s : State) : (s.later m).mdeleg = s.mdeleg := rfl
@[simp] theorem stepping_later (m : Move) (s : State) : (s.later m).stepping = s.stepping := rfl
@[simp] theorem ctxs_later (m : Move) (s : State) : (s.later m).ctxs = s.ctxs := rfl
@[simp] theorem ctxcmd_later (m : Move) (s : State) : (s.later m).ctxcmd = s.ctxcmd := rfl
@[simp] theorem ctxarg_later (m : Move) (s : State) : (s.later m).ctxarg = s.ctxarg := rfl
@[simp] theorem drainlim_later (m : Move) (s : State) : (s.later m).drainlim = s.drainlim := rfl
@[simp] theorem uport_later (m : Move) (s : State) : (s.later m).uport = s.uport := rfl
@[simp] theorem uportFails_later (m : Move) (s : State) : (s.later m).uportFails = s.uportFails := rfl
@[simp] theorem uroute_later (m : Move) (s : State) : (s.later m).uroute = s.uroute := rfl
@[simp] theorem uimport_later (m : Move) (s : State) : (s.later m).uimport = s.uimport := rfl
@[simp] theorem remotes_later (m : Move) (s : State) : (s.later m).remotes = s.remotes := rfl
@[simp] theorem remoteWaits_later (m : Move) (s : State) : (s.later m).remoteWaits = s.remoteWaits := rfl
@[simp] theorem answersOut_later (m : Move) (s : State) : (s.later m).answersOut = s.answersOut := rfl
@[simp] theorem sharesEnded_later (m : Move) (s : State) : (s.later m).sharesEnded = s.sharesEnded := rfl
@[simp] theorem devnum_later (m : Move) (s : State) : (s.later m).devnum = s.devnum := rfl
@[simp] theorem hcpage_later (m : Move) (s : State) : (s.later m).hcpage = s.hcpage := rfl
@[simp] theorem biascmd_later (m : Move) (s : State) : (s.later m).biascmd = s.biascmd := rfl
@[simp] theorem cwbase_later (m : Move) (s : State) : (s.later m).cwbase = s.cwbase := rfl
@[simp] theorem msix_later (m : Move) (s : State) : (s.later m).msix = s.msix := rfl
@[simp] theorem msixPend_later (m : Move) (s : State) : (s.later m).msixPend = s.msixPend := rfl
@[simp] theorem msixSent_later (m : Move) (s : State) : (s.later m).msixSent = s.msixSent := rfl
@[simp] theorem hostReads_later (m : Move) (s : State) : (s.later m).hostReads = s.hostReads := rfl
@[simp] theorem flipWaits_later (m : Move) (s : State) : (s.later m).flipWaits = s.flipWaits := rfl
@[simp] theorem hostBias_later (m : Move) (s : State) : (s.later m).hostBias = s.hostBias := rfl
@[simp] theorem hostLines_later (m : Move) (s : State) : (s.later m).hostLines = s.hostLines := rfl
@[simp] theorem hostModified_later (m : Move) (s : State) : (s.later m).hostModified = s.hostModified := rfl
@[simp] theorem aper_later (m : Move) (s : State) : (s.later m).aper = s.aper := rfl
@[simp] theorem hardMod_later (m : Move) (s : State) : (s.later m).hardMod = s.hardMod := rfl
@[simp] theorem notices_later (m : Move) (s : State) : (s.later m).notices = s.notices := rfl
@[simp] theorem linkRate_later (m : Move) (s : State) : (s.later m).linkRate = s.linkRate := rfl
@[simp] theorem linkWidth_later (m : Move) (s : State) : (s.later m).linkWidth = s.linkWidth := rfl
@[simp] theorem snoopAnswers_later (m : Move) (s : State) : (s.later m).snoopAnswers = s.snoopAnswers := rfl
@[simp] theorem supPorts_later (m : Move) (s : State) : (s.later m).supPorts = s.supPorts := rfl
@[simp] theorem pwrlim_later (m : Move) (s : State) : (s.later m).pwrlim = s.pwrlim := rfl
@[simp] theorem pwrnow_later (m : Move) (s : State) : (s.later m).pwrnow = s.pwrnow := rfl
@[simp] theorem corrected_later (m : Move) (s : State) : (s.later m).corrected = s.corrected := rfl
@[simp] theorem uncorrected_later (m : Move) (s : State) : (s.later m).uncorrected = s.uncorrected := rfl
@[simp] theorem mgmtOut_later (m : Move) (s : State) : (s.later m).mgmtOut = s.mgmtOut := rfl
@[simp] theorem boot_later (m : Move) (s : State) : (s.later m).boot = s.boot := rfl
@[simp] theorem timed_later (m : Move) (s : State) : (s.later m).timed = s.timed := rfl
@[simp] theorem inputs_later (m : Move) (s : State) : (s.later m).inputs = s.inputs := rfl
@[simp] theorem cur_later (m : Move) (s : State) : (s.later m).cur = s.cur := rfl
@[simp] theorem curNode_later (m : Move) (s : State) : (s.later m).curNode = s.curNode := rfl
@[simp] theorem curCmd_later (m : Move) (s : State) : (s.later m).curCmd = s.curCmd := rfl
@[simp] theorem ev_later (m : Move) (s : State) : (s.later m).ev = s.ev := rfl
@[simp] theorem free_later (m : Move) (s : State) : (s.later m).free = s.free := rfl
@[simp] theorem nextId_later (m : Move) (s : State) : (s.later m).nextId = s.nextId := rfl
@[simp] theorem thr_later (m : Move) (s : State) : (s.later m).thr = s.thr := rfl

/-! After after. -/

@[simp] theorem part_after (d : Nat) (m : Move) (s : State) : (s.after d m).part = s.part := rfl
@[simp] theorem cycle_after (d : Nat) (m : Move) (s : State) : (s.after d m).cycle = s.cycle := rfl
@[simp] theorem mem_after (d : Nat) (m : Move) (s : State) : (s.after d m).mem = s.mem := rfl
@[simp] theorem empties_after (d : Nat) (m : Move) (s : State) : (s.after d m).empties = s.empties := rfl
@[simp] theorem poisoned_after (d : Nat) (m : Move) (s : State) : (s.after d m).poisoned = s.poisoned := rfl
@[simp] theorem dir_after (d : Nat) (m : Move) (s : State) : (s.after d m).dir = s.dir := rfl
@[simp] theorem stashed_after (d : Nat) (m : Move) (s : State) : (s.after d m).stashed = s.stashed := rfl
@[simp] theorem l1_after (d : Nat) (m : Move) (s : State) : (s.after d m).l1 = s.l1 := rfl
@[simp] theorem gransOff_after (d : Nat) (m : Move) (s : State) : (s.after d m).gransOff = s.gransOff := rfl
@[simp] theorem upsets_after (d : Nat) (m : Move) (s : State) : (s.after d m).upsets = s.upsets := rfl
@[simp] theorem threads_after (d : Nat) (m : Move) (s : State) : (s.after d m).threads = s.threads := rfl
@[simp] theorem spindles_after (d : Nat) (m : Move) (s : State) : (s.after d m).spindles = s.spindles := rfl
@[simp] theorem clusters_after (d : Nat) (m : Move) (s : State) : (s.after d m).clusters = s.clusters := rfl
@[simp] theorem regions_after (d : Nat) (m : Move) (s : State) : (s.after d m).regions = s.regions := rfl
@[simp] theorem images_after (d : Nat) (m : Move) (s : State) : (s.after d m).images = s.images := rfl
@[simp] theorem utlb_after (d : Nat) (m : Move) (s : State) : (s.after d m).utlb = s.utlb := rfl
@[simp] theorem parties_after (d : Nat) (m : Move) (s : State) : (s.after d m).parties = s.parties := rfl
@[simp] theorem launches_after (d : Nat) (m : Move) (s : State) : (s.after d m).launches = s.launches := rfl
@[simp] theorem nextSerial_after (d : Nat) (m : Move) (s : State) : (s.after d m).nextSerial = s.nextSerial := rfl
@[simp] theorem dies_after (d : Nat) (m : Move) (s : State) : (s.after d m).dies = s.dies := rfl
@[simp] theorem migrations_after (d : Nat) (m : Move) (s : State) : (s.after d m).migrations = s.migrations := rfl
@[simp] theorem stvec_after (d : Nat) (m : Move) (s : State) : (s.after d m).stvec = s.stvec := rfl
@[simp] theorem mtvec_after (d : Nat) (m : Move) (s : State) : (s.after d m).mtvec = s.mtvec := rfl
@[simp] theorem ctxtab_after (d : Nat) (m : Move) (s : State) : (s.after d m).ctxtab = s.ctxtab := rfl
@[simp] theorem mdeleg_after (d : Nat) (m : Move) (s : State) : (s.after d m).mdeleg = s.mdeleg := rfl
@[simp] theorem stepping_after (d : Nat) (m : Move) (s : State) : (s.after d m).stepping = s.stepping := rfl
@[simp] theorem ctxs_after (d : Nat) (m : Move) (s : State) : (s.after d m).ctxs = s.ctxs := rfl
@[simp] theorem ctxcmd_after (d : Nat) (m : Move) (s : State) : (s.after d m).ctxcmd = s.ctxcmd := rfl
@[simp] theorem ctxarg_after (d : Nat) (m : Move) (s : State) : (s.after d m).ctxarg = s.ctxarg := rfl
@[simp] theorem drainlim_after (d : Nat) (m : Move) (s : State) : (s.after d m).drainlim = s.drainlim := rfl
@[simp] theorem uport_after (d : Nat) (m : Move) (s : State) : (s.after d m).uport = s.uport := rfl
@[simp] theorem uportFails_after (d : Nat) (m : Move) (s : State) : (s.after d m).uportFails = s.uportFails := rfl
@[simp] theorem uroute_after (d : Nat) (m : Move) (s : State) : (s.after d m).uroute = s.uroute := rfl
@[simp] theorem uimport_after (d : Nat) (m : Move) (s : State) : (s.after d m).uimport = s.uimport := rfl
@[simp] theorem remotes_after (d : Nat) (m : Move) (s : State) : (s.after d m).remotes = s.remotes := rfl
@[simp] theorem remoteWaits_after (d : Nat) (m : Move) (s : State) : (s.after d m).remoteWaits = s.remoteWaits := rfl
@[simp] theorem answersOut_after (d : Nat) (m : Move) (s : State) : (s.after d m).answersOut = s.answersOut := rfl
@[simp] theorem sharesEnded_after (d : Nat) (m : Move) (s : State) : (s.after d m).sharesEnded = s.sharesEnded := rfl
@[simp] theorem devnum_after (d : Nat) (m : Move) (s : State) : (s.after d m).devnum = s.devnum := rfl
@[simp] theorem hcpage_after (d : Nat) (m : Move) (s : State) : (s.after d m).hcpage = s.hcpage := rfl
@[simp] theorem biascmd_after (d : Nat) (m : Move) (s : State) : (s.after d m).biascmd = s.biascmd := rfl
@[simp] theorem cwbase_after (d : Nat) (m : Move) (s : State) : (s.after d m).cwbase = s.cwbase := rfl
@[simp] theorem msix_after (d : Nat) (m : Move) (s : State) : (s.after d m).msix = s.msix := rfl
@[simp] theorem msixPend_after (d : Nat) (m : Move) (s : State) : (s.after d m).msixPend = s.msixPend := rfl
@[simp] theorem msixSent_after (d : Nat) (m : Move) (s : State) : (s.after d m).msixSent = s.msixSent := rfl
@[simp] theorem hostReads_after (d : Nat) (m : Move) (s : State) : (s.after d m).hostReads = s.hostReads := rfl
@[simp] theorem flipWaits_after (d : Nat) (m : Move) (s : State) : (s.after d m).flipWaits = s.flipWaits := rfl
@[simp] theorem hostBias_after (d : Nat) (m : Move) (s : State) : (s.after d m).hostBias = s.hostBias := rfl
@[simp] theorem hostLines_after (d : Nat) (m : Move) (s : State) : (s.after d m).hostLines = s.hostLines := rfl
@[simp] theorem hostModified_after (d : Nat) (m : Move) (s : State) : (s.after d m).hostModified = s.hostModified := rfl
@[simp] theorem aper_after (d : Nat) (m : Move) (s : State) : (s.after d m).aper = s.aper := rfl
@[simp] theorem hardMod_after (d : Nat) (m : Move) (s : State) : (s.after d m).hardMod = s.hardMod := rfl
@[simp] theorem notices_after (d : Nat) (m : Move) (s : State) : (s.after d m).notices = s.notices := rfl
@[simp] theorem linkRate_after (d : Nat) (m : Move) (s : State) : (s.after d m).linkRate = s.linkRate := rfl
@[simp] theorem linkWidth_after (d : Nat) (m : Move) (s : State) : (s.after d m).linkWidth = s.linkWidth := rfl
@[simp] theorem snoopAnswers_after (d : Nat) (m : Move) (s : State) : (s.after d m).snoopAnswers = s.snoopAnswers := rfl
@[simp] theorem supPorts_after (d : Nat) (m : Move) (s : State) : (s.after d m).supPorts = s.supPorts := rfl
@[simp] theorem pwrlim_after (d : Nat) (m : Move) (s : State) : (s.after d m).pwrlim = s.pwrlim := rfl
@[simp] theorem pwrnow_after (d : Nat) (m : Move) (s : State) : (s.after d m).pwrnow = s.pwrnow := rfl
@[simp] theorem corrected_after (d : Nat) (m : Move) (s : State) : (s.after d m).corrected = s.corrected := rfl
@[simp] theorem uncorrected_after (d : Nat) (m : Move) (s : State) : (s.after d m).uncorrected = s.uncorrected := rfl
@[simp] theorem mgmtOut_after (d : Nat) (m : Move) (s : State) : (s.after d m).mgmtOut = s.mgmtOut := rfl
@[simp] theorem boot_after (d : Nat) (m : Move) (s : State) : (s.after d m).boot = s.boot := rfl
@[simp] theorem agenda_after (d : Nat) (m : Move) (s : State) : (s.after d m).agenda = s.agenda := rfl
@[simp] theorem inputs_after (d : Nat) (m : Move) (s : State) : (s.after d m).inputs = s.inputs := rfl
@[simp] theorem cur_after (d : Nat) (m : Move) (s : State) : (s.after d m).cur = s.cur := rfl
@[simp] theorem curNode_after (d : Nat) (m : Move) (s : State) : (s.after d m).curNode = s.curNode := rfl
@[simp] theorem curCmd_after (d : Nat) (m : Move) (s : State) : (s.after d m).curCmd = s.curCmd := rfl
@[simp] theorem ev_after (d : Nat) (m : Move) (s : State) : (s.after d m).ev = s.ev := rfl
@[simp] theorem free_after (d : Nat) (m : Move) (s : State) : (s.after d m).free = s.free := rfl
@[simp] theorem nextId_after (d : Nat) (m : Move) (s : State) : (s.after d m).nextId = s.nextId := rfl
@[simp] theorem thr_after (d : Nat) (m : Move) (s : State) : (s.after d m).thr = s.thr := rfl

/-! After a write of an x register (R17, R126). -/

@[simp] theorem rx_zero (t : Thread) : t.rx 0 = 0 := rfl
theorem rx_wx_self (t : Thread) {r : Reg} (h : r ≠ 0) (v : Word) : (t.wx r v).rx r = v := by
  rw [Thread.rx, if_neg h, Thread.wx, if_neg h]; exact getD_put_self _ _ _ _
theorem rx_wx_ne (t : Thread) {r q : Reg} (h : q ≠ r) (v : Word) : (t.wx r v).rx q = t.rx q := by
  unfold Thread.rx Thread.wx
  split
  · rfl
  · split
    · rfl
    · exact getD_put_ne (fun e => h (BitVec.eq_of_toNat_eq e)) _ _ _
theorem x_wx (t : Thread) (r : Reg) (v : Word) : (t.wx r v).x = if r = 0 then t.x else Tab.put r.toNat v t.x := by
  unfold Thread.wx; split <;> rfl
@[simp] theorem wx_zero (t : Thread) (v : Word) : t.wx 0 v = t := rfl
@[simp] theorem empty_wx (t : Thread) (r : Reg) (v : Word) : (t.wx r v).empty = t.empty := by unfold Thread.wx; split <;> rfl
@[simp] theorem v_wx (t : Thread) (r : Reg) (v : Word) : (t.wx r v).v = t.v := by unfold Thread.wx; split <;> rfl
@[simp] theorem k_wx (t : Thread) (r : Reg) (v : Word) : (t.wx r v).k = t.k := by unfold Thread.wx; split <;> rfl
@[simp] theorem fmt_wx (t : Thread) (r : Reg) (v : Word) : (t.wx r v).fmt = t.fmt := by unfold Thread.wx; split <;> rfl
@[simp] theorem sca0_wx (t : Thread) (r : Reg) (v : Word) : (t.wx r v).sca0 = t.sca0 := by unfold Thread.wx; split <;> rfl
@[simp] theorem sca1_wx (t : Thread) (r : Reg) (v : Word) : (t.wx r v).sca1 = t.sca1 := by unfold Thread.wx; split <;> rfl
@[simp] theorem sca2_wx (t : Thread) (r : Reg) (v : Word) : (t.wx r v).sca2 = t.sca2 := by unfold Thread.wx; split <;> rfl
@[simp] theorem sca3_wx (t : Thread) (r : Reg) (v : Word) : (t.wx r v).sca3 = t.sca3 := by unfold Thread.wx; split <;> rfl
@[simp] theorem pc_wx (t : Thread) (r : Reg) (v : Word) : (t.wx r v).pc = t.pc := by unfold Thread.wx; split <;> rfl
@[simp] theorem level_wx (t : Thread) (r : Reg) (v : Word) : (t.wx r v).level = t.level := by unfold Thread.wx; split <;> rfl
@[simp] theorem fflags_wx (t : Thread) (r : Reg) (v : Word) : (t.wx r v).fflags = t.fflags := by unfold Thread.wx; split <;> rfl
@[simp] theorem vrm_wx (t : Thread) (r : Reg) (v : Word) : (t.wx r v).vrm = t.vrm := by unfold Thread.wx; split <;> rfl
@[simp] theorem utvec_wx (t : Thread) (r : Reg) (v : Word) : (t.wx r v).utvec = t.utvec := by unfold Thread.wx; split <;> rfl
@[simp] theorem uepc_wx (t : Thread) (r : Reg) (v : Word) : (t.wx r v).uepc = t.uepc := by unfold Thread.wx; split <;> rfl
@[simp] theorem ucause_wx (t : Thread) (r : Reg) (v : Word) : (t.wx r v).ucause = t.ucause := by unfold Thread.wx; split <;> rfl
@[simp] theorem utval_wx (t : Thread) (r : Reg) (v : Word) : (t.wx r v).utval = t.utval := by unfold Thread.wx; split <;> rfl
@[simp] theorem uscratch_wx (t : Thread) (r : Reg) (v : Word) : (t.wx r v).uscratch = t.uscratch := by unfold Thread.wx; split <;> rfl
@[simp] theorem uact_wx (t : Thread) (r : Reg) (v : Word) : (t.wx r v).uact = t.uact := by unfold Thread.wx; split <;> rfl
@[simp] theorem sstatus_wx (t : Thread) (r : Reg) (v : Word) : (t.wx r v).sstatus = t.sstatus := by unfold Thread.wx; split <;> rfl
@[simp] theorem sepc_wx (t : Thread) (r : Reg) (v : Word) : (t.wx r v).sepc = t.sepc := by unfold Thread.wx; split <;> rfl
@[simp] theorem scause_wx (t : Thread) (r : Reg) (v : Word) : (t.wx r v).scause = t.scause := by unfold Thread.wx; split <;> rfl
@[simp] theorem stval_wx (t : Thread) (r : Reg) (v : Word) : (t.wx r v).stval = t.stval := by unfold Thread.wx; split <;> rfl
@[simp] theorem sscratch_wx (t : Thread) (r : Reg) (v : Word) : (t.wx r v).sscratch = t.sscratch := by unfold Thread.wx; split <;> rfl
@[simp] theorem mstatus_wx (t : Thread) (r : Reg) (v : Word) : (t.wx r v).mstatus = t.mstatus := by unfold Thread.wx; split <;> rfl
@[simp] theorem mepc_wx (t : Thread) (r : Reg) (v : Word) : (t.wx r v).mepc = t.mepc := by unfold Thread.wx; split <;> rfl
@[simp] theorem mcause_wx (t : Thread) (r : Reg) (v : Word) : (t.wx r v).mcause = t.mcause := by unfold Thread.wx; split <;> rfl
@[simp] theorem mtval_wx (t : Thread) (r : Reg) (v : Word) : (t.wx r v).mtval = t.mtval := by unfold Thread.wx; split <;> rfl
@[simp] theorem mscratch_wx (t : Thread) (r : Reg) (v : Word) : (t.wx r v).mscratch = t.mscratch := by unfold Thread.wx; split <;> rfl
@[simp] theorem retain_wx (t : Thread) (r : Reg) (v : Word) : (t.wx r v).retain = t.retain := by unfold Thread.wx; split <;> rfl
@[simp] theorem rep_wx (t : Thread) (r : Reg) (v : Word) : (t.wx r v).rep = t.rep := by unfold Thread.wx; split <;> rfl
@[simp] theorem strands_wx (t : Thread) (r : Reg) (v : Word) : (t.wx r v).strands = t.strands := by unfold Thread.wx; split <;> rfl
@[simp] theorem rng_wx (t : Thread) (r : Reg) (v : Word) : (t.wx r v).rng = t.rng := by unfold Thread.wx; split <;> rfl
@[simp] theorem launch_wx (t : Thread) (r : Reg) (v : Word) : (t.wx r v).launch = t.launch := by unfold Thread.wx; split <;> rfl
@[simp] theorem nidx_wx (t : Thread) (r : Reg) (v : Word) : (t.wx r v).nidx = t.nidx := by unfold Thread.wx; split <;> rfl
@[simp] theorem psize_wx (t : Thread) (r : Reg) (v : Word) : (t.wx r v).psize = t.psize := by unfold Thread.wx; split <;> rfl
@[simp] theorem pidx_wx (t : Thread) (r : Reg) (v : Word) : (t.wx r v).pidx = t.pidx := by unfold Thread.wx; split <;> rfl
@[simp] theorem ctx_wx (t : Thread) (r : Reg) (v : Word) : (t.wx r v).ctx = t.ctx := by unfold Thread.wx; split <;> rfl
@[simp] theorem cls_wx (t : Thread) (r : Reg) (v : Word) : (t.wx r v).cls = t.cls := by unfold Thread.wx; split <;> rfl
@[simp] theorem inflight_wx (t : Thread) (r : Reg) (v : Word) : (t.wx r v).inflight = t.inflight := by unfold Thread.wx; split <;> rfl
@[simp] theorem replygen_wx (t : Thread) (r : Reg) (v : Word) : (t.wx r v).replygen = t.replygen := by unfold Thread.wx; split <;> rfl
@[simp] theorem awaits_wx (t : Thread) (r : Reg) (v : Word) : (t.wx r v).awaits = t.awaits := by unfold Thread.wx; split <;> rfl
@[simp] theorem calleeF_wx (t : Thread) (r : Reg) (v : Word) : (t.wx r v).calleeF = t.calleeF := by unfold Thread.wx; split <;> rfl
@[simp] theorem calleeStatus_wx (t : Thread) (r : Reg) (v : Word) : (t.wx r v).calleeStatus = t.calleeStatus := by unfold Thread.wx; split <;> rfl
@[simp] theorem callees_wx (t : Thread) (r : Reg) (v : Word) : (t.wx r v).callees = t.callees := by unfold Thread.wx; split <;> rfl
@[simp] theorem ops_wx (t : Thread) (r : Reg) (v : Word) : (t.wx r v).ops = t.ops := by unfold Thread.wx; split <;> rfl
@[simp] theorem sfu_wx (t : Thread) (r : Reg) (v : Word) : (t.wx r v).sfu = t.sfu := by unfold Thread.wx; split <;> rfl
@[simp] theorem party_wx (t : Thread) (r : Reg) (v : Word) : (t.wx r v).party = t.party := by unfold Thread.wx; split <;> rfl
@[simp] theorem answers_wx (t : Thread) (r : Reg) (v : Word) : (t.wx r v).answers = t.answers := by unfold Thread.wx; split <;> rfl
@[simp] theorem run_wx (t : Thread) (r : Reg) (v : Word) : (t.wx r v).run = t.run := by unfold Thread.wx; split <;> rfl
@[simp] theorem len_wx (t : Thread) (r : Reg) (v : Word) : (t.wx r v).len = t.len := by unfold Thread.wx; split <;> rfl
@[simp] theorem grants_wx (t : Thread) (r : Reg) (v : Word) : (t.wx r v).grants = t.grants := by unfold Thread.wx; split <;> rfl
@[simp] theorem popped_wx (t : Thread) (r : Reg) (v : Word) : (t.wx r v).popped = t.popped := by unfold Thread.wx; split <;> rfl
@[simp] theorem uid_wx (t : Thread) (r : Reg) (v : Word) : (t.wx r v).uid = t.uid := by unfold Thread.wx; split <;> rfl
@[simp] theorem resumed_wx (t : Thread) (r : Reg) (v : Word) : (t.wx r v).resumed = t.resumed := by unfold Thread.wx; split <;> rfl
@[simp] theorem flight_wx (t : Thread) (r : Reg) (v : Word) : (t.wx r v).flight = t.flight := by unfold Thread.wx; split <;> rfl
@[simp] theorem rot_wx (t : Thread) (r : Reg) (v : Word) : (t.wx r v).rot = t.rot := by unfold Thread.wx; split <;> rfl
@[simp] theorem beats_wx (t : Thread) (r : Reg) (v : Word) : (t.wx r v).beats = t.beats := by unfold Thread.wx; split <;> rfl

end Sys2Proof.Laws
end

