-- ==== Sys2Proof/Laws/Issue.lean ====
section
/-! SUPPORT. How a group of one parcel runs when its operands are at hand: its sources are its registers, its results are
written, the pc moves; and what each way of ending leaves. -/

namespace Sys2Proof.Laws
open Sys2Proof Sys2Proof.Machine

/-! Acc. -/

@[simp] theorem bind_ok {α β : Type} (a : α) (s : State) (f : α → State → Acc β) : (Acc.ok a s).bind f = f a s := rfl
@[simp] theorem bind_trap {α β : Type} (c : Cause) (f : α → State → Acc β) : (Acc.trap c : Acc α).bind f = .trap c := rfl
@[simp] theorem bind_hold {α β : Type} (g : State → State) (f : α → State → Acc β) :
    (Acc.hold g : Acc α).bind f = .hold g := rfl
@[simp] theorem check_none (s : State) : Acc.check none s = .ok () s := rfl
@[simp] theorem check_some (c : Cause) (s : State) : Acc.check (some c) s = .trap c := rfl
@[simp] theorem each_nil {α β : Type} (f : α → State → Acc β) (s : State) : Acc.each f [] s = .ok [] s := rfl

/-! Operands. -/

/-- A group that has passed no checks keeps nothing of its stages. -/
theorem staged_actual {s : State} (h : s.passed = false) (f : Flight → Flight) : s.staged f = s := by
  simp [State.staged, h]
/-- A group that has passed no checks performs each of its accesses. -/
theorem once_actual {s : State} (h : s.passed = false) (f : State → Acc Word) : s.once f = f s := by
  simp [State.once, h]
/-- A group at its start has passed no checks. -/
theorem passed_start {s : State} (h : s.AtStart) : s.passed = false := by
  rw [State.passed, h.fresh]
@[simp] theorem passed_onThr_wx (s : State) (r : Reg) (v : Word) : (s.onThr (fun t => t.wx r v)).passed = s.passed := by
  simp [State.passed]

/-- The sources of registers that no strand is bound to are their values. -/
theorem sources_plain {s : State} (p : s.passed = false) : ∀ rs : List Reg, (∀ r ∈ rs, s.thr.strand r = none) →
    s.sources rs = .ok (rs.map s.thr.rx) s := by
  intro rs
  simp only [State.sources, p, Bool.false_eq_true, if_false]
  induction rs with
  | nil => intro _; rfl
  | cons r t ih =>
    intro h
    have h0 : s.source r = .ok (s.thr.rx r) s := by
      unfold State.source; rw [h r (by simp)]
    simp [Acc.each, h0, ih (fun q hq => h q (by simp [hq]))]

/-- Ready operands pass the checks. -/
theorem operandCheck_ready {op : TOp} {s : State} (h : s.Ready op.xs op.xd op.vs) : operandCheck op s = .ok () s := by
  have e : s.thr.emptyOf (op.xs ++ op.xd) = none := by
    unfold Thread.emptyOf
    rw [List.find?_eq_none]
    intro r hr
    simp [h.full r hr]
  have l : s.thr.sfu.any (fun p => op.vs.contains p.vd.toNat) = false := by
    rw [List.any_eq_false]
    intro q hq
    simpa using h.landed q hq
  have c : s.emptyStrand op.xs = none := by
    unfold State.emptyStrand
    rw [List.findSome?_eq_none_iff]
    intro r hr
    simp [h.unbound r (by simp [hr])]
  simp only [operandCheck, e, l, c]; rfl
/-- Sources of ready operands are not poisoned. -/
theorem poisonCheck_ready {s : State} {xs xd : List Reg} {vs : List Nat} (h : s.Ready xs xd vs) :
    poisonCheck xs s = .ok () s := by
  have c : xs.any s.thr.isPoisoned = false := by
    rw [List.any_eq_false]
    intro r hr
    simp [h.clean r hr]
  simp [poisonCheck, c]

/-- A parcel whose encoding is in order and whose operands are ready has its effect on their values. -/
theorem go_ready {op : TOp} {s : State} (wf : op.wf = true) (h : s.Ready op.xs op.xd op.vs) (c : op.chk s = .ok () s) :
    op.go s = op.run (op.xs.map s.thr.rx) s := by
  have p := passed_start h.toAtStart
  unfold TOp.go
  rw [operandCheck_ready h]
  simp [wf, p, c, poisonCheck_ready h, sources_plain p op.xs (fun r hr => h.unbound r (by simp [hr]))]

/-- A parcel whose encoding its entry does not accept is T-ILL (R82). -/
theorem go_illegal {op : TOp} (s : State) (wf : op.wf = false) : op.go s = .trap (tIll 0) := by
  simp [TOp.go, wf]

/-- A named empty register parks the thread (R19). -/
theorem go_empty {op : TOp} {s : State} {r : Reg} (wf : op.wf = true) (p : s.passed = false) (h : s.thr.emptyOf (op.xs ++ op.xd) = some r) :
    op.go s = .hold (fun s => s.onThr (fun t => { t with run := .parked r })) := by
  simp [TOp.go, wf, p, operandCheck, h]

/-- A poisoned source traps (R126). -/
theorem go_poisoned {op : TOp} {s : State} (wf : op.wf = true) (q : s.passed = false) (e : s.thr.emptyOf (op.xs ++ op.xd) = none)
    (l : s.thr.sfu.any (fun p => op.vs.contains p.vd.toNat) = false) (d : s.emptyStrand op.xs = none)
    (c : op.chk s = .ok () s) (p : op.xs.any s.thr.isPoisoned = true) : op.go s = .trap s.thr.calleeCause := by
  unfold TOp.go
  simp only [wf, q, operandCheck, e, l, d, Bool.not_true, Bool.false_eq_true, if_false, bind_ok, c, poisonCheck, p, if_true]; rfl

/-! Ends. -/

@[simp] theorem strand_wx (t : Thread) (r : Reg) (v : Word) (q : Reg) : (t.wx r v).strand q = t.strand q := by
  simp [Thread.strand]

/-- Writing results to registers that no strand is bound to. -/
theorem dests_plain : ∀ (ws : List (Reg × Word)) (s : State), s.passed = false → (∀ w ∈ ws, s.thr.strand w.1 = none) →
    s.dests ws = .ok () (if ws = [] then s else s.onThr (fun t => ws.foldl (fun t w => t.wx w.1 w.2) t)) := by
  intro ws
  induction ws with
  | nil => intro s _ _; rfl
  | cons w t ih =>
    intro s p h
    have h0 : s.dest w = .ok () (s.onThr (fun t => t.wx w.1 w.2)) := by
      unfold State.dest; rw [h w (by simp)]
    rw [State.dests, h0, bind_ok, staged_actual (by simp [p]), ih _ (by simp [p]) (fun q hq => by simpa using h q (by simp [hq]))]
    by_cases e : t = []
    · subst e; simp
    · simp [e]

theorem foldl_wx_run (ws : List (Reg × Word)) : ∀ t : Thread, (ws.foldl (fun t w => t.wx w.1 w.2) t).run = t.run := by
  induction ws with
  | nil => intro _; rfl
  | cons w l ih => intro t; rw [List.foldl_cons, ih]; simp

/-- What a group at its start comes to: its parcel's effect. -/
theorem results_start {s : State} {op : TOp} (p : s.AtStart) :
    op.results s = (op.go s).bind (fun o s => .ok o (s.staged (fun f => { f with out := some o }))) := by
  have h : s.thr.flight.out = none := by rw [p.fresh]
  simp [TOp.results, h]

/-- A group whose access left the rotation: its completion comes later (R183). -/
theorem conclude_access {s s' : State} {o : Out} {op : TOp} (p : s.AtStart) (r : op.go s = .ok o s') (p' : s'.passed = false)
    (u : ∀ w ∈ o.ws, s'.thr.strand w.1 = none) :
    s.conclude op = op.post (s'.finish o.ws (o.target.getD s.nextPc) op.beats).accessSoon := by
  have d := dests_plain o.ws s' p' u
  have q : op.results s = .ok o s' := by simp [results_start p, r, staged_actual p']
  by_cases e : o.ws = []
  · rw [if_pos e] at d
    simp only [State.conclude, Acc.written, q, bind_ok, d, State.finish, State.nextPc, State.concluded]
    rw [e]; rfl
  · rw [if_neg e] at d
    simp only [State.conclude, Acc.written, q, bind_ok, d, State.finish, State.nextPc, State.concluded, onThr_onThr]

/-- A group that completes in the rotation. -/
theorem conclude_ok {s s' : State} {o : Out} {op : TOp} (p : s.AtStart) (r : op.go s = .ok o s') (p' : s'.passed = false)
    (u : ∀ w ∈ o.ws, s'.thr.strand w.1 = none) (h : s'.thr.run ≠ .access) :
    s.conclude op = op.post (s'.finish o.ws (o.target.getD s.nextPc) op.beats) := by
  rw [conclude_access p r p' u]
  have h : (s'.finish o.ws (o.target.getD s.nextPc) op.beats).thr.run ≠ .access := by
    simpa [State.finish, foldl_wx_run] using h
  unfold State.accessSoon
  split
  · exact absurd ‹_› h
  · rfl

/-- A group that traps. -/
theorem conclude_trap {s : State} {op : TOp} {c : Cause} (p : s.AtStart) (r : op.go s = .trap c) : s.conclude op = s.trapped c := by
  simp only [State.conclude, Acc.written, results_start p, r, bind_trap]; rfl
/-- A group that waits for what no answer can spare it. -/
theorem conclude_hold {s : State} {op : TOp} {f g : State → State} (p : s.AtStart) (r : op.go s = .hold f)
    (q : op.go s.probe = .hold g) : s.conclude op = g s := by
  have o0 : s.thr.flight.out = none := by rw [p.fresh]
  have o : s.probe.thr.flight.out = none := by
    simpa [State.probe] using o0
  simp only [State.conclude, Acc.written, o0, r, bind_hold, passed_start p, Bool.false_eq_true, if_false,
    TOp.results, o, q]

/-- What the completion of an access adds changes only the model's own queue of timed moves. -/
theorem accessSoon_eq (s : State) : s.accessSoon = s ∨
    ∃ d, s.accessSoon = { s with free := s.free + 1,
                                 timed := s.timed ++ [(s.cycle + d, .event .memoryAccessCompletion (.access s.cur none))] } := by
  unfold State.accessSoon
  split
  · exact .inr ⟨1 + Config.latency s.free, rfl⟩
  · exact .inl rfl

@[simp] theorem thr_accessSoon (s : State) : s.accessSoon.thr = s.thr := by
  rcases accessSoon_eq s with h | ⟨d, h⟩ <;> rw [h] <;> rfl
@[simp] theorem mem_accessSoon (s : State) : s.accessSoon.mem = s.mem := by
  rcases accessSoon_eq s with h | ⟨d, h⟩ <;> rw [h]

/-! Integer shapes. -/

/-- The result of an operation on two sources. -/
theorem issue_binOp {s : State} {rd rs1 rs2 : Reg} {f : Word → Word → Word} (h : s.Ready [rs1, rs2] [rd] []) :
    issueOp (binOp rd rs1 rs2 f) s = .next (s.finish [(rd, f (s.thr.rx rs1) (s.thr.rx rs2))] s.nextPc) := by
  unfold issueOp
  rw [conclude_ok h.toAtStart (go_ready rfl h rfl) (passed_start h.toAtStart) (by simpa [binOp] using h.unbound rd (by simp)) (by simp [h.rotating])]
  rfl

/-- The result of an operation on one source. -/
theorem issue_unOp {s : State} {rd rs1 : Reg} {ok : Bool} {f : Word → Word} (wf : ok = true) (h : s.Ready [rs1] [rd] []) :
    issueOp (unOp rd rs1 ok f) s = .next (s.finish [(rd, f (s.thr.rx rs1))] s.nextPc) := by
  unfold issueOp
  rw [conclude_ok h.toAtStart (go_ready wf h rfl) (passed_start h.toAtStart) (by simpa [unOp] using h.unbound rd (by simp)) (by simp [h.rotating])]
  rfl

/-- The result of an operation on the pc. -/
theorem issue_pcOp {s : State} {rd : Reg} {ok : Bool} {f : Word → Word} (wf : ok = true) (h : s.Ready [] [rd] []) :
    issueOp (pcOp rd ok f) s = .next (s.finish [(rd, f s.thr.pc)] s.nextPc) := by
  unfold issueOp
  rw [conclude_ok h.toAtStart (go_ready wf h rfl) (passed_start h.toAtStart) (by simpa [pcOp] using h.unbound rd (by simp)) (by simp [h.rotating])]
  rfl

end Sys2Proof.Laws
end

