-- ==== Sys2Proof/Laws/Memory.lean ====
section
/-! SUPPORT. Memory: a byte reads as it was last written, other bytes are unchanged, and every operation keeps the canonical
form. -/

namespace Sys2Proof.Laws
open Sys2Proof Sys2Proof.Machine

@[simp] theorem read_write_self (m : Memory) (a : Nat) (v : Byte) : (m.write a v).read a = v := by
  unfold Memory.write Memory.read
  split
  · simp_all
  · simp

theorem read_write_ne {a b : Nat} (h : b ≠ a) (m : Memory) (v : Byte) : (m.write a v).read b = m.read b := by
  unfold Memory.write Memory.read
  split
  · exact getD_del_ne h _ _
  · exact getD_put_ne h _ _ _

/-- A byte before or after a written range is unchanged. -/
theorem read_writeN_out (l : List Byte) : ∀ (m : Memory) (a b : Nat), (b < a ∨ a + l.length ≤ b) →
    (m.writeN a l).read b = m.read b := by
  induction l with
  | nil => intros; rfl
  | cons x t ih =>
    intro m a b h
    simp only [List.length_cons] at h
    rw [Memory.writeN, ih _ _ _ (by omega), read_write_ne (by omega)]

/-- Byte i of a written range is byte i of the list. -/
theorem read_writeN_in (l : List Byte) : ∀ (m : Memory) (a i : Nat) (h : i < l.length),
    (m.writeN a l).read (a + i) = l[i] := by
  induction l with
  | nil => intro _ _ _ h; simp at h
  | cons x t ih =>
    intro m a i h
    cases i with
    | zero => rw [Memory.writeN, read_writeN_out _ _ _ _ (by omega), Nat.add_zero, read_write_self]; rfl
    | succ i =>
      simp only [List.length_cons] at h
      rw [Memory.writeN, show a + (i + 1) = (a + 1) + i by omega, ih _ _ _ (by omega)]; rfl

/-- Reading a range whose bytes two memories share. -/
theorem readN_congr (n : Nat) : ∀ (m m' : Memory) (a : Nat), (∀ i, i < n → m.read (a + i) = m'.read (a + i)) →
    m.readN a n = m'.readN a n := by
  induction n with
  | zero => intros; rfl
  | succ n ih =>
    intro m m' a h
    simp only [Memory.readN]
    have h0 := h 0 (by omega)
    rw [Nat.add_zero] at h0
    rw [h0, ih m m' (a + 1) (fun i hi => by have := h (i + 1) (by omega); rwa [show a + (i + 1) = a + 1 + i by omega] at this)]

/-- A range that a write does not meet reads as before. -/
theorem readN_writeN_out (m : Memory) (a n b : Nat) (l : List Byte) (h : a + n ≤ b ∨ b + l.length ≤ a) :
    (m.writeN b l).readN a n = m.readN a n :=
  readN_congr n _ _ _ (fun i hi => read_writeN_out l m b (a + i) (by omega))

/-- A written range reads as the bytes written. -/
theorem readN_writeN_self (l : List Byte) : ∀ (m : Memory) (a : Nat), (m.writeN a l).readN a l.length = l := by
  induction l with
  | nil => intros; rfl
  | cons x t ih =>
    intro m a
    simp only [List.length_cons, Memory.readN, Memory.writeN]
    rw [read_writeN_out _ _ _ _ (by omega), read_write_self, ih]

/-! The canonical form. -/

/-- The first address of a memory is not below a bound. -/
def Above (lo : Nat) (m : Memory) : Prop := ∀ p ∈ m.head?, lo ≤ p.1

theorem wf_cons (a : Nat) (v : Byte) (m : Memory) :
    Memory.wf ((a, v) :: m) = true ↔ v ≠ 0 ∧ Above (a + 1) m ∧ Memory.wf m = true := by
  cases m with
  | nil => simp [Memory.wf, Above]
  | cons p t =>
    obtain ⟨b, w⟩ := p
    simp [Memory.wf, Above, Nat.succ_le_iff, and_assoc]

theorem above_mono {lo hi : Nat} {m : Memory} (h : Above hi m) (le : lo ≤ hi) : Above lo m :=
  fun p hp => Nat.le_trans le (h p hp)

theorem wf_del (a : Nat) : ∀ m : Memory, Memory.wf m = true →
    Memory.wf (Tab.del a m) = true ∧ ∀ lo, Above lo m → Above lo (Tab.del a m) := by
  intro m
  induction m with
  | nil => intro h; exact ⟨h, fun _ h => h⟩
  | cons p t ih =>
    obtain ⟨b, w⟩ := p
    intro h
    rw [wf_cons] at h
    obtain ⟨hw, hb, ht⟩ := h
    obtain ⟨i1, i2⟩ := ih ht
    by_cases e : b = a
    · subst e
      refine ⟨by simpa [Tab.del] using i1, fun lo hl => ?_⟩
      simp only [Tab.del, if_true]
      have := hl (b, w) (by simp)
      exact i2 lo (above_mono hb (by simp at this; omega))
    · simp only [Tab.del, e, if_false]
      refine ⟨(wf_cons _ _ _).2 ⟨hw, i2 _ hb, i1⟩, fun lo hl p hp => ?_⟩
      simp at hp; subst hp; exact hl (b, w) (by simp)

theorem wf_put (a : Nat) (v : Byte) (hv : v ≠ 0) : ∀ m : Memory, Memory.wf m = true →
    Memory.wf (Tab.put a v m) = true ∧ ∀ lo, Above lo m → lo ≤ a → Above lo (Tab.put a v m) := by
  intro m
  induction m with
  | nil => intro _; exact ⟨by simpa [Tab.put, Memory.wf] using hv, fun lo _ le p hp => by simp [Tab.put] at hp; subst hp; exact le⟩
  | cons p t ih =>
    obtain ⟨b, w⟩ := p
    intro h
    have h' := h
    rw [wf_cons] at h
    obtain ⟨hw, hb, ht⟩ := h
    obtain ⟨i1, i2⟩ := ih ht
    by_cases l : a < b
    · simp only [Tab.put, l, if_true]
      refine ⟨(wf_cons _ _ _).2 ⟨hv, fun p hp => by simp at hp; subst hp; exact l, h'⟩, fun lo _ le p hp => ?_⟩
      simp at hp; subst hp; exact le
    · by_cases e : b = a
      · subst e
        simp only [Tab.put, Nat.lt_irrefl, if_false, if_true]
        refine ⟨(wf_cons _ _ _).2 ⟨hv, hb, ht⟩, fun lo _ le p hp => ?_⟩
        simp at hp; subst hp; exact le
      · simp only [Tab.put, l, e, if_false]
        refine ⟨(wf_cons _ _ _).2 ⟨hw, i2 _ hb (by omega), i1⟩, fun lo hl _ p hp => ?_⟩
        simp at hp; subst hp; exact hl (b, w) (by simp)

/-- A write keeps the canonical form. -/
theorem wf_write (m : Memory) (a : Nat) (v : Byte) (h : m.wf = true) : (m.write a v).wf = true := by
  unfold Memory.write
  split
  · exact (wf_del a m h).1
  · next hv => exact (wf_put a v hv m h).1

/-- A write of a range keeps the canonical form. -/
theorem wf_writeN (l : List Byte) : ∀ (m : Memory) (a : Nat), m.wf = true → (m.writeN a l).wf = true := by
  induction l with
  | nil => intro _ _ h; exact h
  | cons x t ih => intro m a h; exact ih _ _ (wf_write m a x h)

/-- Two canonical memories that read alike are equal data. -/
theorem wf_ext : ∀ m m' : Memory, m.wf = true → m'.wf = true → (∀ a, m.read a = m'.read a) → m = m' := by
  have low : ∀ (m : Memory) (lo a : Nat), m.wf = true → Above lo m → a < lo → m.read a = 0 := by
    intro m
    induction m with
    | nil => intros; rfl
    | cons p t ih =>
      obtain ⟨b, w⟩ := p
      intro lo a h ha hlt
      rw [wf_cons] at h
      have hb : lo ≤ b := ha (b, w) (by simp)
      have : b ≠ a := by omega
      have := ih (b + 1) a h.2.2 h.2.1 (by omega)
      simp_all [Memory.read, Tab.getD, Tab.find]
  intro m
  induction m with
  | nil =>
    intro m' _ h' e
    cases m' with
    | nil => rfl
    | cons p t =>
      obtain ⟨b, w⟩ := p
      rw [wf_cons] at h'
      have := e b
      simp [Memory.read, Tab.getD, Tab.find] at this
      exact absurd this.symm h'.1
  | cons p t ih =>
    obtain ⟨a, v⟩ := p
    intro m' h h' e
    cases m' with
    | nil =>
      rw [wf_cons] at h
      have := e a
      simp [Memory.read, Tab.getD, Tab.find] at this
      exact absurd this h.1
    | cons q u =>
      obtain ⟨b, w⟩ := q
      rw [wf_cons] at h h'
      have key : ∀ (x y : Nat) (p q : Byte) (l r : Memory), p ≠ 0 → r.wf = true → Above (y + 1) r → x < y →
          Memory.read ((x, p) :: l) x ≠ Memory.read ((y, q) :: r) x := by
        intro x y p q l r hp hr hy hlt
        have := low r (y + 1) x hr hy (by omega)
        have hne : y ≠ x := by omega
        simp_all [Memory.read, Tab.getD, Tab.find]
      have hab : a = b := by
        rcases Nat.lt_trichotomy a b with l | l | l
        · exact absurd (e a) (key a b v w t u h.1 h'.2.2 h'.2.1 l)
        · exact l
        · exact absurd (e b).symm (key b a w v u t h'.1 h.2.2 h.2.1 l)
      subst hab
      have hvw : v = w := by simpa [Memory.read, Tab.getD, Tab.find] using e a
      subst hvw
      rw [ih u h.2.2 h'.2.2 (fun c => ?_)]
      by_cases hc : a = c
      · subst hc; rw [low t (a + 1) a h.2.2 h.2.1 (by omega), low u (a + 1) a h'.2.2 h'.2.1 (by omega)]
      · simpa [Memory.read, Tab.getD, Tab.find, hc] using e c

end Sys2Proof.Laws
end

