-- ==== Sys2Proof/Laws/Access.lean ====
section
/-! SUPPORT. What resolving an address leaves unchanged, and what the plain accesses do where they land on memory. -/

namespace Sys2Proof.Laws
open Sys2Proof Sys2Proof.Machine

/-! What the caches' part of an access may change (R213, R349 to R353, R439). -/

/-- Only who holds lines, which granules are powered, the host's copies, and the count of free values differ. -/
def CachesOnly (s t : State) : Prop :=
  ∃ l1 st dir off hm hl n, t = { s with
    l1 := l1, stashed := st, dir := dir, gransOff := off, hostModified := hm, hostLines := hl, free := n }

theorem caches_refl (s : State) : CachesOnly s s := ⟨_, _, _, _, _, _, _, rfl⟩
theorem caches_trans {s t u : State} (a : CachesOnly s t) (b : CachesOnly t u) : CachesOnly s u := by
  obtain ⟨_, _, _, _, _, _, _, rfl⟩ := a
  obtain ⟨_, _, _, _, _, _, _, rfl⟩ := b
  exact ⟨_, _, _, _, _, _, _, rfl⟩
theorem caches_lineGive (r l : Nat) (s : State) : CachesOnly s (s.lineGive r l) := ⟨_, _, _, _, _, _, _, rfl⟩
theorem caches_linesDrop (f : Nat → Bool) (s : State) : CachesOnly s (s.linesDrop f) := ⟨_, _, _, _, _, _, _, rfl⟩
theorem caches_recall (l : Nat) (s : State) : CachesOnly s (s.recall l) := ⟨_, _, _, _, _, _, _, rfl⟩
theorem caches_draw (s : State) : CachesOnly s s.draw.2 := ⟨_, _, _, _, _, _, _, rfl⟩
theorem caches_stashDrop (f : StashLine → Bool) (s : State) : CachesOnly s (s.stashDrop f) := by
  unfold State.stashDrop
  generalize s.stashed.filter _ = l
  induction l generalizing s with
  | nil => exact caches_refl s
  | cons a t ih => exact caches_trans (caches_lineGive _ _ s) (ih _)
theorem caches_dirRoom (l : Nat) (s : State) : CachesOnly s (s.dirRoom l) := by
  unfold State.dirRoom
  simp only
  repeat' split
  · exact caches_refl s
  · exact caches_refl s
  · exact caches_trans (caches_draw s) (caches_linesDrop _ _)
  · exact caches_draw s
theorem caches_l1Fill (r l : Nat) (s : State) : CachesOnly s (s.l1Fill r l) := by
  unfold State.l1Fill
  simp only
  repeat' split
  · exact caches_refl s
  · exact ⟨_, _, _, _, _, _, _, rfl⟩
  · exact caches_trans (caches_trans (caches_draw s) (caches_lineGive _ _ _)) ⟨_, _, _, _, _, _, _, rfl⟩
  · exact caches_draw s
theorem caches_dirTouch (r o : Nat) (w : Bool) (s : State) : CachesOnly s (s.dirTouch r o w) := by
  unfold State.dirTouch
  simp only
  repeat' split
  · exact ⟨_, _, _, _, _, _, _, rfl⟩
  · exact caches_refl s
  all_goals exact caches_trans (caches_dirRoom _ s) (caches_trans ⟨_, _, _, _, _, _, _, rfl⟩ (caches_l1Fill _ _ _))
theorem caches_homeTakes (o : Nat) (s : State) : CachesOnly s (s.homeTakes o) := by
  unfold State.homeTakes
  simp only
  split
  · exact ⟨_, _, _, _, _, _, _, rfl⟩
  · exact caches_trans (caches_dirRoom _ s) (caches_trans (caches_recall _ _) ⟨_, _, _, _, _, _, _, rfl⟩)
/-- The caches' part of an access changes nothing else. -/
theorem caches_lineTouch (g : Nat) (c : BitVec 12) (va off : Nat) (w p : Bool) (s : State) :
    CachesOnly s (s.lineTouch g c va off w p) := by
  unfold State.lineTouch
  repeat' split
  · exact caches_homeTakes _ _
  · exact caches_trans (caches_dirRoom _ s) ⟨_, _, _, _, _, _, _, rfl⟩
  · exact caches_dirTouch _ _ _ _

/-- What translation may change: the translation caches, the entry whose A or D it sets, the walkers' table pointers, and the count of
free values. -/
structure Translated (s t : State) : Prop where
  threads : t.threads = s.threads
  cur : t.cur = s.cur
  spindles : t.spindles = s.spindles
  parties : t.parties = s.parties
  empties : t.empties = s.empties
  poisoned : t.poisoned = s.poisoned
  cycle : t.cycle = s.cycle
  agenda : t.agenda = s.agenda
  timed : t.timed = s.timed
  waits : ∀ r, (t.cluster r).waits = (s.cluster r).waits
  locks : ∀ r, (t.cluster r).locks = (s.cluster r).locks
  part : t.part = s.part

theorem translated_refl (s : State) : Translated s s := by constructor <;> intros <;> rfl
theorem translated_trans {s t u : State} (a : Translated s t) (b : Translated t u) : Translated s u where
  threads := b.threads.trans a.threads
  cur := b.cur.trans a.cur
  spindles := b.spindles.trans a.spindles
  parties := b.parties.trans a.parties
  empties := b.empties.trans a.empties
  poisoned := b.poisoned.trans a.poisoned
  cycle := b.cycle.trans a.cycle
  agenda := b.agenda.trans a.agenda
  timed := b.timed.trans a.timed
  waits := fun r => (b.waits r).trans (a.waits r)
  locks := fun r => (b.locks r).trans (a.locks r)
  part := b.part.trans a.part

theorem cluster_onCluster_field {α : Type} (g : Cluster → α) (k r : Nat) (f : Cluster → Cluster) (s : State)
    (h : ∀ c, g (f c) = g c) : g ((s.onCluster k f).cluster r) = g (s.cluster r) := by
  by_cases e : r = k
  · subst e; simp [h]
  · simp [State.onCluster, State.cluster, getD_put_ne e]

theorem translated_pwr8 (a : Nat) (v : Word) (s : State) : Translated s (s.pwr8 a v) := by
  unfold State.pwr8
  split
  · constructor <;> intros <;> rfl
  · exact translated_refl s

theorem translated_setTlb (l : List TlbEnt) (s : State) (id : TlbId) : Translated s (s.setTlb l id) := by
  cases id with
  | micro g => constructor <;> intros <;> rfl
  | last d => constructor <;> intros <;> rfl
  | port r p => constructor <;> intros <;> rfl
  | cluster r =>
    constructor <;> intros <;> first
      | rfl
      | exact cluster_onCluster_field Cluster.waits _ _ _ _ (fun _ => rfl)
      | exact cluster_onCluster_field Cluster.locks _ _ _ _ (fun _ => rfl)

theorem translated_walkKeep (d : Nat) (c : BitVec 12) (va : Nat) (s : State) : Translated s (s.walkKeep d c va) := by
  constructor <;> intros <;> rfl

theorem translated_tlbAdd (e : TlbEnt) (s : State) (id : TlbId) : Translated s (s.tlbAdd e id) := by
  unfold State.tlbAdd
  simp only
  split
  · exact translated_setTlb _ _ _
  · refine translated_trans ?_ (translated_setTlb _ _ _)
    constructor <;> intros <;> rfl

theorem translated_foldl (e : TlbEnt) : ∀ (l : List TlbId) (s : State), Translated s (l.foldl (State.tlbAdd e) s) := by
  intro l
  induction l with
  | nil => exact translated_refl
  | cons i t ih => intro s; exact translated_trans (translated_tlbAdd e s i) (ih _)

theorem translated_translateNow (c : BitVec 12) (lvl : Level) (via : Via) (va n : Nat) (k : AKind) (s : State) :
    Translated s (s.translateNow c lvl via va n k).2 := by
  unfold State.translateNow
  simp only
  repeat' split
  all_goals first
    | exact translated_refl s
    | exact translated_foldl _ _ _
    | exact translated_walkKeep _ _ _ _
    | exact translated_trans (translated_walkKeep _ _ _ _) (translated_foldl _ _ _)
    | exact translated_trans (translated_pwr8 _ _ _) (translated_walkKeep _ _ _ _)
    | exact translated_trans (translated_pwr8 _ _ _) (translated_trans (translated_walkKeep _ _ _ _) (translated_foldl _ _ _))

/-- Translation changes nothing else. -/
theorem translated_translate (c : BitVec 12) (lvl : Level) (via : Via) (va n : Nat) (k : AKind) (s : State) :
    Translated s (s.translate c lvl via va n k).2 := by
  have h := translated_translateNow c lvl via va n k s
  unfold State.translate
  split
  · rename_i e
    rw [e] at h
    split
    · exact translated_refl s
    · exact h
  · exact h

theorem translated_thr {s s' : State} (h : Translated s s') : s'.thr = s.thr := by
  simp [State.thr, h.threads, h.cur]
/-- A group that stands for no answer to come notes nothing. -/
theorem note_actual {s : State} (h : s.probing = false) (f : Flight → Flight) : s.note f = s := by
  simp [State.note, h]
theorem probing_translated {s s' : State} (h : Translated s s') : s'.probing = s.probing := by
  simp [State.probing, translated_thr h]

/-- Reaching an address changes nothing else. -/
theorem translated_reach {va n : Nat} {k : AKind} {s s' : State} {r : Nat × Nat × Nat} (p : s.probing = false)
    (h : s.reach va n k = .ok r s') : Translated s s' := by
  have tr := translated_translate s.thr.ctx s.thr.level (.thread (gspOf s.cur) (slotOf s.cur)) va n k s
  unfold State.reach at h
  simp only at h
  split at h
  · cases h; exact translated_refl s
  split at h
  · cases h
  · cases h
  · split at h <;> cases h
  · rename_i e
    rw [e] at tr
    rw [note_actual (by rw [probing_translated tr, p])] at h
    cases h
    exact tr

theorem bind_eq_ok {α β : Type} {m : Acc α} {f : α → State → Acc β} {b : β} {t : State} (h : m.bind f = .ok b t) :
    ∃ a u, m = .ok a u ∧ f a u = .ok b t := by
  cases m with
  | ok a u => exact ⟨a, u, rfl, h⟩
  | trap c => cases h
  | hold g => cases h
theorem check_eq_ok {c : Option Cause} {s t : State} {u : Unit} (h : Acc.check c s = .ok u t) : c = none ∧ t = s := by
  cases c with
  | none => cases h; exact ⟨rfl, rfl⟩
  | some c => cases h

/-- Resolving an address changes nothing else. -/
theorem translated_resolve {q : Req} {s s' : State} {l : Loc} (p : s.probing = false) (h : s.resolve q = .ok l s') :
    Translated s s' := by
  unfold State.resolve at h
  split at h
  · cases h; exact translated_refl s
  obtain ⟨l', u, h, e⟩ := bind_eq_ok h
  have tr : Translated s u := by
    unfold State.resolveNew at h
    simp only at h
    repeat' split at h
    all_goals first
      | cases h
      | (obtain ⟨_, _, h, e⟩ := bind_eq_ok h
         obtain ⟨-, rfl⟩ := check_eq_ok h
         cases e
         exact translated_refl _)
      | (obtain ⟨r, v, h0, e1⟩ := bind_eq_ok h
         obtain ⟨_, _, h2, e2⟩ := bind_eq_ok e1
         clear e1
         obtain ⟨-, rfl⟩ := check_eq_ok h2
         obtain ⟨_, _, h3, e3⟩ := bind_eq_ok e2
         clear e2
         obtain ⟨-, rfl⟩ := check_eq_ok h3
         cases e3
         exact translated_reach p h0)
  rw [note_actual (by rw [probing_translated tr, p])] at e
  cases e
  exact tr

/-! Plain accesses that land on memory. -/

/-- What is kept by the caches' part of an access and by leaving the rotation. -/
structure Kept (s t : State) : Prop where
  cur : t.cur = s.cur
  thr : t.thr = s.thr ∨ t.thr = { s.thr with run := .access }
  empties : t.empties = s.empties
  others : ∀ k, k ≠ s.cur → t.thread k = s.thread k

theorem kept_refl (s : State) : Kept s s := ⟨rfl, .inl rfl, rfl, fun _ _ => rfl⟩
theorem kept_slow {s t : State} (h : Kept s t) : Kept s t.slow where
  cur := h.cur
  thr := .inr (by rw [State.slow, thr_onThr]; rcases h.thr with e | e <;> rw [e])
  empties := h.empties
  others := fun k hk => by
    rw [State.slow, thread_onThr_ne _ _ (by rw [h.cur]; exact hk)]; exact h.others k hk

theorem lineTouch_keeps (g : Nat) (c : BitVec 12) (va off : Nat) (w p : Bool) (s : State) :
    (s.lineTouch g c va off w p).mem = s.mem ∧ Kept s (s.lineTouch g c va off w p) := by
  obtain ⟨_, _, _, _, _, _, _, e⟩ := caches_lineTouch g c va off w p s
  rw [e]
  exact ⟨rfl, rfl, .inl rfl, rfl, fun _ _ => rfl⟩

/-- A plain load on memory gives the bytes there and changes no byte. -/
theorem loadAt_mem (q : Req) (o : Nat) (s : State) :
    ∃ t, s.loadAt q (.mem o) = .ok (s.rd o q.n) t ∧ t.mem = s.mem ∧ Kept s t := by
  obtain ⟨m, k⟩ := lineTouch_keeps (gspOf s.cur) s.thr.ctx q.va o false true s
  unfold State.loadAt
  simp only
  split
  · exact ⟨_, rfl, m, k⟩
  · exact ⟨_, rfl, m, kept_slow k⟩

/-- A plain store on memory writes its bytes and no other. -/
theorem storeAt_mem (q : Req) (v o : Nat) (s : State) :
    ∃ t, s.storeAt q v (.mem o) = .ok () t ∧ t.mem = s.mem.writeN o (toBytes q.n v) ∧ Kept s t := by
  obtain ⟨m, k⟩ := lineTouch_keeps (gspOf s.cur) s.thr.ctx q.va o true true (s.memStore o (toBytes q.n v))
  have k' : Kept s (State.lineTouch (gspOf s.cur) s.thr.ctx q.va o true true (s.memStore o (toBytes q.n v))) :=
    ⟨k.cur, k.thr, k.empties, k.others⟩
  unfold State.storeAt
  simp only
  split
  · exact ⟨_, rfl, m, k'⟩
  · exact ⟨_, rfl, m, kept_slow k'⟩

/-- The end of a group whose access may have left the rotation. -/
theorem conclude_kept {s s1 s2 : State} {o : Out} {op : TOp} (p : s.AtStart) (r : op.go s = .ok o s2) (k : Kept s1 s2)
    (e : s1.thr = s.thr) (u : ∀ w ∈ o.ws, s.thr.strand w.1 = none) :
    ∃ t, s.conclude op = op.post t ∧ t.mem = s2.mem ∧ t.empties = s1.empties ∧
      t.thr.x = (o.ws.foldl (fun t w => t.wx w.1 w.2) s.thr).x ∧ t.thr.pc = o.target.getD s.nextPc ∧
      ∀ j, j ≠ s1.cur → t.thread j = s1.thread j := by
  have st : s2.thr.strands = s.thr.strands := by rcases k.thr with q | q <;> rw [q, e]
  have sx : s2.thr.x = s.thr.x := by rcases k.thr with q | q <;> rw [q, e]
  have p2 : s2.passed = false := by
    have := passed_start p
    rw [State.passed] at this ⊢
    rcases k.thr with q | q <;> rw [q, e] <;> exact this
  rw [conclude_access p r p2 (fun w hw => by have := u w hw; simpa [Thread.strand, st] using this)]
  refine ⟨_, rfl, by simp [State.finish], ?_, ?_, by simp [State.finish], ?_⟩
  · rcases accessSoon_eq (s2.finish o.ws (o.target.getD s.nextPc) op.beats) with q | ⟨d, q⟩ <;> rw [q] <;>
      simp [State.finish, k.empties]
  · simp only [thr_accessSoon, State.finish, thr_onThr]
    have : ∀ (ws : List (Reg × Word)) (a b : Thread), a.x = b.x →
        (ws.foldl (fun t w => t.wx w.1 w.2) a).x = (ws.foldl (fun t w => t.wx w.1 w.2) b).x := by
      intro ws
      induction ws with
      | nil => intro a b h; exact h
      | cons w l ih => intro a b h; exact ih _ _ (by simp only [x_wx, h])
    exact this _ _ _ sx
  · intro j hj
    have hc : s2.cur = s1.cur := k.cur
    have : ∀ u : State, u.accessSoon.thread j = u.thread j := by
      intro u; rcases accessSoon_eq u with q | ⟨d, q⟩ <;> rw [q] <;> rfl
    rw [this, State.finish, thread_onThr_ne _ _ (by rw [hc]; exact hj)]
    exact k.others j hj

/-! Bytes. -/

theorem length_toBytes (n : Nat) : ∀ v, (toBytes n v).length = n := by
  induction n with
  | zero => intro _; rfl
  | succ n ih => intro v; simp [toBytes, ih]
theorem getElem_toBytes (n : Nat) : ∀ v i, i < n → (toBytes n v)[i]? = some (BitVec.ofNat 8 (v / 256 ^ i)) := by
  induction n with
  | zero => intro _ _ h; omega
  | succ n ih =>
    intro v i h
    cases i with
    | zero => simp [toBytes]
    | succ i => simp [toBytes, ih (v / 256) i (by omega), Nat.div_div_eq_div_mul, Nat.pow_succ, Nat.mul_comm]

/-- What memory holds after n bytes of v were written at o. -/
theorem read_stored (m : Memory) (o n v a : Nat) : (m.writeN o (toBytes n v)).read a =
    if o ≤ a ∧ a < o + n then BitVec.ofNat 8 (v / 256 ^ (a - o)) else m.read a := by
  split
  · rename_i h
    have hl : a - o < (toBytes n v).length := by rw [length_toBytes]; omega
    have := read_writeN_in (toBytes n v) m o (a - o) hl
    rw [show o + (a - o) = a by omega] at this
    rw [this]
    have g := getElem_toBytes n v (a - o) (by omega)
    rw [List.getElem?_eq_getElem hl] at g
    exact Option.some.inj g
  · exact read_writeN_out _ _ _ _ (by rw [length_toBytes]; omega)

end Sys2Proof.Laws
end

