-- ==== Sys2Proof/Laws/Dispatch.lean ====
section
/-! SUPPORT. What an arm of the dispatch runs: a T instruction its operation under the shared issue, a node its operation under the
shared firing; and a step that answers only next states. -/

namespace Sys2Proof.Laws
open Sys2Proof Sys2Proof.Machine

/-- A T instruction runs as its operation does. -/
theorem exec_opT {i : Instr} {op : TOp} (h : opT i = some op) (s : State) : exec i s = issueOp op s := by
  cases i <;> first | (cases h; rfl) | cases h
/-- A node fires as its operation does. -/
theorem exec_opNode {i : Instr} {o : NOp} (h : opNode i = some o) (s : State) : exec i s = .next (o.fire s) := by
  cases i <;> first | (cases h; rfl) | cases h
/-- An issue ends in a next state. -/
theorem issueOp_next (op : TOp) (s : State) : issueOp op s = .next (s.conclude op) := rfl

end Sys2Proof.Laws
end

