-- ==== Sys2Proof/Laws/PerInstr.lean ====
section
/-! SUPPORT. For every instruction: it has one form. A T instruction is one parcel, or two with its X-parcel, and is no node and no
command; a node, a command and an event have no parcel (R77, R88, R95, R102). -/

namespace Sys2Proof.Laws.OneForm
open Sys2Proof

def Statement (i : Instr) : Prop := (encode i).length ≤ 2 ∧ (encode i ≠ [] → i.node? = none ∧ encodeCommand i = none)

theorem withX_length (n : Nat) (v : Word) (p : BitVec 32) : (withX n v p).length ≤ 2 := by
  unfold withX
  split <;> simp

theorem lui (a b) : Statement (.lui a b) := ⟨withX_length _ _ _, fun _ => ⟨rfl, rfl⟩⟩
theorem auipc (a b) : Statement (.auipc a b) := ⟨withX_length _ _ _, fun _ => ⟨rfl, rfl⟩⟩
theorem addi (a b c) : Statement (.addi a b c) := ⟨withX_length _ _ _, fun _ => ⟨rfl, rfl⟩⟩
theorem slti (a b c) : Statement (.slti a b c) := ⟨withX_length _ _ _, fun _ => ⟨rfl, rfl⟩⟩
theorem sltin (a b c) : Statement (.sltin a b c) := ⟨withX_length _ _ _, fun _ => ⟨rfl, rfl⟩⟩
theorem xori (a b c) : Statement (.xori a b c) := ⟨withX_length _ _ _, fun _ => ⟨rfl, rfl⟩⟩
theorem ori (a b c) : Statement (.ori a b c) := ⟨withX_length _ _ _, fun _ => ⟨rfl, rfl⟩⟩
theorem andi (a b c) : Statement (.andi a b c) := ⟨withX_length _ _ _, fun _ => ⟨rfl, rfl⟩⟩
theorem slli (a b c) : Statement (.slli a b c) := ⟨Nat.le_succ 1, fun _ => ⟨rfl, rfl⟩⟩
theorem srli (a b c) : Statement (.srli a b c) := ⟨Nat.le_succ 1, fun _ => ⟨rfl, rfl⟩⟩
theorem srai (a b c) : Statement (.srai a b c) := ⟨Nat.le_succ 1, fun _ => ⟨rfl, rfl⟩⟩
theorem add (a b c) : Statement (.add a b c) := ⟨Nat.le_succ 1, fun _ => ⟨rfl, rfl⟩⟩
theorem sub (a b c) : Statement (.sub a b c) := ⟨Nat.le_succ 1, fun _ => ⟨rfl, rfl⟩⟩
theorem sll (a b c) : Statement (.sll a b c) := ⟨Nat.le_succ 1, fun _ => ⟨rfl, rfl⟩⟩
theorem slt (a b c) : Statement (.slt a b c) := ⟨Nat.le_succ 1, fun _ => ⟨rfl, rfl⟩⟩
theorem sltn (a b c) : Statement (.sltn a b c) := ⟨Nat.le_succ 1, fun _ => ⟨rfl, rfl⟩⟩
theorem xor (a b c) : Statement (.xor a b c) := ⟨Nat.le_succ 1, fun _ => ⟨rfl, rfl⟩⟩
theorem srl (a b c) : Statement (.srl a b c) := ⟨Nat.le_succ 1, fun _ => ⟨rfl, rfl⟩⟩
theorem sra (a b c) : Statement (.sra a b c) := ⟨Nat.le_succ 1, fun _ => ⟨rfl, rfl⟩⟩
theorem or (a b c) : Statement (.or a b c) := ⟨Nat.le_succ 1, fun _ => ⟨rfl, rfl⟩⟩
theorem and (a b c) : Statement (.and a b c) := ⟨Nat.le_succ 1, fun _ => ⟨rfl, rfl⟩⟩
theorem addiw (a b c) : Statement (.addiw a b c) := ⟨withX_length _ _ _, fun _ => ⟨rfl, rfl⟩⟩
theorem slliw (a b c) : Statement (.slliw a b c) := ⟨Nat.le_succ 1, fun _ => ⟨rfl, rfl⟩⟩
theorem srliw (a b c) : Statement (.srliw a b c) := ⟨Nat.le_succ 1, fun _ => ⟨rfl, rfl⟩⟩
theorem sraiw (a b c) : Statement (.sraiw a b c) := ⟨Nat.le_succ 1, fun _ => ⟨rfl, rfl⟩⟩
theorem addw (a b c) : Statement (.addw a b c) := ⟨Nat.le_succ 1, fun _ => ⟨rfl, rfl⟩⟩
theorem subw (a b c) : Statement (.subw a b c) := ⟨Nat.le_succ 1, fun _ => ⟨rfl, rfl⟩⟩
theorem sllw (a b c) : Statement (.sllw a b c) := ⟨Nat.le_succ 1, fun _ => ⟨rfl, rfl⟩⟩
theorem srlw (a b c) : Statement (.srlw a b c) := ⟨Nat.le_succ 1, fun _ => ⟨rfl, rfl⟩⟩
theorem sraw (a b c) : Statement (.sraw a b c) := ⟨Nat.le_succ 1, fun _ => ⟨rfl, rfl⟩⟩
theorem mul (a b c) : Statement (.mul a b c) := ⟨Nat.le_succ 1, fun _ => ⟨rfl, rfl⟩⟩
theorem mulh (a b c) : Statement (.mulh a b c) := ⟨Nat.le_succ 1, fun _ => ⟨rfl, rfl⟩⟩
theorem mulhsn (a b c) : Statement (.mulhsn a b c) := ⟨Nat.le_succ 1, fun _ => ⟨rfl, rfl⟩⟩
theorem mulhn (a b c) : Statement (.mulhn a b c) := ⟨Nat.le_succ 1, fun _ => ⟨rfl, rfl⟩⟩
theorem div (a b c) : Statement (.div a b c) := ⟨Nat.le_succ 1, fun _ => ⟨rfl, rfl⟩⟩
theorem divn (a b c) : Statement (.divn a b c) := ⟨Nat.le_succ 1, fun _ => ⟨rfl, rfl⟩⟩
theorem rem (a b c) : Statement (.rem a b c) := ⟨Nat.le_succ 1, fun _ => ⟨rfl, rfl⟩⟩
theorem remn (a b c) : Statement (.remn a b c) := ⟨Nat.le_succ 1, fun _ => ⟨rfl, rfl⟩⟩
theorem mulw (a b c) : Statement (.mulw a b c) := ⟨Nat.le_succ 1, fun _ => ⟨rfl, rfl⟩⟩
theorem divw (a b c) : Statement (.divw a b c) := ⟨Nat.le_succ 1, fun _ => ⟨rfl, rfl⟩⟩
theorem divnw (a b c) : Statement (.divnw a b c) := ⟨Nat.le_succ 1, fun _ => ⟨rfl, rfl⟩⟩
theorem remw (a b c) : Statement (.remw a b c) := ⟨Nat.le_succ 1, fun _ => ⟨rfl, rfl⟩⟩
theorem remnw (a b c) : Statement (.remnw a b c) := ⟨Nat.le_succ 1, fun _ => ⟨rfl, rfl⟩⟩
theorem beq (a b c) : Statement (.beq a b c) := ⟨withX_length _ _ _, fun _ => ⟨rfl, rfl⟩⟩
theorem bne (a b c) : Statement (.bne a b c) := ⟨withX_length _ _ _, fun _ => ⟨rfl, rfl⟩⟩
theorem blt (a b c) : Statement (.blt a b c) := ⟨withX_length _ _ _, fun _ => ⟨rfl, rfl⟩⟩
theorem bge (a b c) : Statement (.bge a b c) := ⟨withX_length _ _ _, fun _ => ⟨rfl, rfl⟩⟩
theorem bltn (a b c) : Statement (.bltn a b c) := ⟨withX_length _ _ _, fun _ => ⟨rfl, rfl⟩⟩
theorem bgen (a b c) : Statement (.bgen a b c) := ⟨withX_length _ _ _, fun _ => ⟨rfl, rfl⟩⟩
theorem jal (a b) : Statement (.jal a b) := ⟨withX_length _ _ _, fun _ => ⟨rfl, rfl⟩⟩
theorem jalr (a b c) : Statement (.jalr a b c) := ⟨withX_length _ _ _, fun _ => ⟨rfl, rfl⟩⟩
theorem lb (a b c) : Statement (.lb a b c) := ⟨withX_length _ _ _, fun _ => ⟨rfl, rfl⟩⟩
theorem lh (a b c) : Statement (.lh a b c) := ⟨withX_length _ _ _, fun _ => ⟨rfl, rfl⟩⟩
theorem lw (a b c) : Statement (.lw a b c) := ⟨withX_length _ _ _, fun _ => ⟨rfl, rfl⟩⟩
theorem ld (a b c) : Statement (.ld a b c) := ⟨withX_length _ _ _, fun _ => ⟨rfl, rfl⟩⟩
theorem lbn (a b c) : Statement (.lbn a b c) := ⟨withX_length _ _ _, fun _ => ⟨rfl, rfl⟩⟩
theorem lhn (a b c) : Statement (.lhn a b c) := ⟨withX_length _ _ _, fun _ => ⟨rfl, rfl⟩⟩
theorem lwn (a b c) : Statement (.lwn a b c) := ⟨withX_length _ _ _, fun _ => ⟨rfl, rfl⟩⟩
theorem sb (a b c) : Statement (.sb a b c) := ⟨withX_length _ _ _, fun _ => ⟨rfl, rfl⟩⟩
theorem sh (a b c) : Statement (.sh a b c) := ⟨withX_length _ _ _, fun _ => ⟨rfl, rfl⟩⟩
theorem sw (a b c) : Statement (.sw a b c) := ⟨withX_length _ _ _, fun _ => ⟨rfl, rfl⟩⟩
theorem sd (a b c) : Statement (.sd a b c) := ⟨withX_length _ _ _, fun _ => ⟨rfl, rfl⟩⟩
theorem ldFe (a b c) : Statement (.ldFe a b c) := ⟨withX_length _ _ _, fun _ => ⟨rfl, rfl⟩⟩
theorem ldFc (a b c) : Statement (.ldFc a b c) := ⟨withX_length _ _ _, fun _ => ⟨rfl, rfl⟩⟩
theorem stEf (a b c) : Statement (.stEf a b c) := ⟨withX_length _ _ _, fun _ => ⟨rfl, rfl⟩⟩
theorem stF (a b c) : Statement (.stF a b c) := ⟨withX_length _ _ _, fun _ => ⟨rfl, rfl⟩⟩
theorem feSet (a b c) : Statement (.feSet a b c) := ⟨withX_length _ _ _, fun _ => ⟨rfl, rfl⟩⟩
theorem feClr (a b c) : Statement (.feClr a b c) := ⟨withX_length _ _ _, fun _ => ⟨rfl, rfl⟩⟩
theorem feTest (a b c) : Statement (.feTest a b c) := ⟨withX_length _ _ _, fun _ => ⟨rfl, rfl⟩⟩
theorem fence (a b) : Statement (.fence a b) := ⟨Nat.le_succ 1, fun _ => ⟨rfl, rfl⟩⟩
theorem cacheInv (a b) : Statement (.cacheInv a b) := ⟨Nat.le_succ 1, fun _ => ⟨rfl, rfl⟩⟩
theorem cacheWb (a b) : Statement (.cacheWb a b) := ⟨Nat.le_succ 1, fun _ => ⟨rfl, rfl⟩⟩
theorem stashMap (a b c) : Statement (.stashMap a b c) := ⟨Nat.le_succ 1, fun _ => ⟨rfl, rfl⟩⟩
theorem cpy (a b c d e) : Statement (.cpy a b c d e) := ⟨Nat.le_succ 1, fun _ => ⟨rfl, rfl⟩⟩
theorem cpy2d (a b c d e) : Statement (.cpy2d a b c d e) := ⟨Nat.le_succ 1, fun _ => ⟨rfl, rfl⟩⟩
theorem cpyFill (a b c d e) : Statement (.cpyFill a b c d e) := ⟨Nat.le_succ 1, fun _ => ⟨rfl, rfl⟩⟩
theorem strb (a b) : Statement (.strb a b) := ⟨Nat.le_succ 1, fun _ => ⟨rfl, rfl⟩⟩
theorem strx (a) : Statement (.strx a) := ⟨Nat.le_succ 1, fun _ => ⟨rfl, rfl⟩⟩
theorem strq (a b) : Statement (.strq a b) := ⟨Nat.le_succ 1, fun _ => ⟨rfl, rfl⟩⟩
theorem amoAdd (a b c d e f) : Statement (.amoAdd a b c d e f) := ⟨Nat.le_succ 1, fun _ => ⟨rfl, rfl⟩⟩
theorem amoAnd (a b c d e f) : Statement (.amoAnd a b c d e f) := ⟨Nat.le_succ 1, fun _ => ⟨rfl, rfl⟩⟩
theorem amoOr (a b c d e f) : Statement (.amoOr a b c d e f) := ⟨Nat.le_succ 1, fun _ => ⟨rfl, rfl⟩⟩
theorem amoXor (a b c d e f) : Statement (.amoXor a b c d e f) := ⟨Nat.le_succ 1, fun _ => ⟨rfl, rfl⟩⟩
theorem amoMin (a b c d e f) : Statement (.amoMin a b c d e f) := ⟨Nat.le_succ 1, fun _ => ⟨rfl, rfl⟩⟩
theorem amoMax (a b c d e f) : Statement (.amoMax a b c d e f) := ⟨Nat.le_succ 1, fun _ => ⟨rfl, rfl⟩⟩
theorem amoMinn (a b c d e f) : Statement (.amoMinn a b c d e f) := ⟨Nat.le_succ 1, fun _ => ⟨rfl, rfl⟩⟩
theorem amoMaxn (a b c d e f) : Statement (.amoMaxn a b c d e f) := ⟨Nat.le_succ 1, fun _ => ⟨rfl, rfl⟩⟩
theorem amoSwap (a b c d e f) : Statement (.amoSwap a b c d e f) := ⟨Nat.le_succ 1, fun _ => ⟨rfl, rfl⟩⟩
theorem amoCas (a b c d e f) : Statement (.amoCas a b c d e f) := ⟨Nat.le_succ 1, fun _ => ⟨rfl, rfl⟩⟩
theorem amoCas2 (a b c d e) : Statement (.amoCas2 a b c d e) := ⟨Nat.le_succ 1, fun _ => ⟨rfl, rfl⟩⟩
theorem ldAcq (a b c d) : Statement (.ldAcq a b c d) := ⟨Nat.le_succ 1, fun _ => ⟨rfl, rfl⟩⟩
theorem stRel (a b c d) : Statement (.stRel a b c d) := ⟨Nat.le_succ 1, fun _ => ⟨rfl, rfl⟩⟩
theorem callx (a b) : Statement (.callx a b) := ⟨Nat.le_succ 1, fun _ => ⟨rfl, rfl⟩⟩
theorem spawn (a b c) : Statement (.spawn a b c) := ⟨Nat.le_succ 1, fun _ => ⟨rfl, rfl⟩⟩
theorem callatCl (a b c) : Statement (.callatCl a b c) := ⟨Nat.le_succ 1, fun _ => ⟨rfl, rfl⟩⟩
theorem callatAff (a b c) : Statement (.callatAff a b c) := ⟨Nat.le_succ 1, fun _ => ⟨rfl, rfl⟩⟩
theorem callatLeast (a b) : Statement (.callatLeast a b) := ⟨Nat.le_succ 1, fun _ => ⟨rfl, rfl⟩⟩
theorem callatNbCl (a b c) : Statement (.callatNbCl a b c) := ⟨Nat.le_succ 1, fun _ => ⟨rfl, rfl⟩⟩
theorem callatNbAff (a b c) : Statement (.callatNbAff a b c) := ⟨Nat.le_succ 1, fun _ => ⟨rfl, rfl⟩⟩
theorem callatNbLeast (a b) : Statement (.callatNbLeast a b) := ⟨Nat.le_succ 1, fun _ => ⟨rfl, rfl⟩⟩
theorem reply (a b) : Statement (.reply a b) := ⟨Nat.le_succ 1, fun _ => ⟨rfl, rfl⟩⟩
theorem launch (a b) : Statement (.launch a b) := ⟨Nat.le_succ 1, fun _ => ⟨rfl, rfl⟩⟩
theorem bar (a) : Statement (.bar a) := ⟨Nat.le_succ 1, fun _ => ⟨rfl, rfl⟩⟩
theorem rep (a b c d) : Statement (.rep a b c d) := ⟨Nat.le_succ 1, fun _ => ⟨rfl, rfl⟩⟩
theorem repStop : Statement .repStop := ⟨Nat.le_succ 1, fun _ => ⟨rfl, rfl⟩⟩
theorem halt : Statement .halt := ⟨Nat.le_succ 1, fun _ => ⟨rfl, rfl⟩⟩
theorem yield : Statement .yield := ⟨Nat.le_succ 1, fun _ => ⟨rfl, rfl⟩⟩
theorem tret : Statement .tret := ⟨Nat.le_succ 1, fun _ => ⟨rfl, rfl⟩⟩
theorem brk : Statement .brk := ⟨Nat.le_succ 1, fun _ => ⟨rfl, rfl⟩⟩
theorem sysrd (a b) : Statement (.sysrd a b) := ⟨Nat.le_succ 1, fun _ => ⟨rfl, rfl⟩⟩
theorem syswr (a b c) : Statement (.syswr a b c) := ⟨Nat.le_succ 1, fun _ => ⟨rfl, rfl⟩⟩
theorem sysset (a b c) : Statement (.sysset a b c) := ⟨Nat.le_succ 1, fun _ => ⟨rfl, rfl⟩⟩
theorem sysclr (a b c) : Statement (.sysclr a b c) := ⟨Nat.le_succ 1, fun _ => ⟨rfl, rfl⟩⟩
theorem trap (a) : Statement (.trap a) := ⟨Nat.le_succ 1, fun _ => ⟨rfl, rfl⟩⟩
theorem tlbInv (a b c d) : Statement (.tlbInv a b c d) := ⟨Nat.le_succ 1, fun _ => ⟨rfl, rfl⟩⟩
theorem tlbInvCtx (a b) : Statement (.tlbInvCtx a b) := ⟨Nat.le_succ 1, fun _ => ⟨rfl, rfl⟩⟩
theorem tlbInvAll (a) : Statement (.tlbInvAll a) := ⟨Nat.le_succ 1, fun _ => ⟨rfl, rfl⟩⟩
theorem codeRetire (a b c) : Statement (.codeRetire a b c) := ⟨Nat.le_succ 1, fun _ => ⟨rfl, rfl⟩⟩
theorem vadd (a) : Statement (.vadd a) := ⟨Nat.le_succ 1, fun _ => ⟨rfl, rfl⟩⟩
theorem vsub (a) : Statement (.vsub a) := ⟨Nat.le_succ 1, fun _ => ⟨rfl, rfl⟩⟩
theorem vmul (a) : Statement (.vmul a) := ⟨Nat.le_succ 1, fun _ => ⟨rfl, rfl⟩⟩
theorem vmulh (a) : Statement (.vmulh a) := ⟨Nat.le_succ 1, fun _ => ⟨rfl, rfl⟩⟩
theorem vmin (a) : Statement (.vmin a) := ⟨Nat.le_succ 1, fun _ => ⟨rfl, rfl⟩⟩
theorem vmax (a) : Statement (.vmax a) := ⟨Nat.le_succ 1, fun _ => ⟨rfl, rfl⟩⟩
theorem vabs (a) : Statement (.vabs a) := ⟨Nat.le_succ 1, fun _ => ⟨rfl, rfl⟩⟩
theorem vneg (a) : Statement (.vneg a) := ⟨Nat.le_succ 1, fun _ => ⟨rfl, rfl⟩⟩
theorem vand (a) : Statement (.vand a) := ⟨Nat.le_succ 1, fun _ => ⟨rfl, rfl⟩⟩
theorem vor (a) : Statement (.vor a) := ⟨Nat.le_succ 1, fun _ => ⟨rfl, rfl⟩⟩
theorem vxor (a) : Statement (.vxor a) := ⟨Nat.le_succ 1, fun _ => ⟨rfl, rfl⟩⟩
theorem vshl (a) : Statement (.vshl a) := ⟨Nat.le_succ 1, fun _ => ⟨rfl, rfl⟩⟩
theorem vshr (a) : Statement (.vshr a) := ⟨Nat.le_succ 1, fun _ => ⟨rfl, rfl⟩⟩
theorem vsra (a) : Statement (.vsra a) := ⟨Nat.le_succ 1, fun _ => ⟨rfl, rfl⟩⟩
theorem vsel (a) : Statement (.vsel a) := ⟨Nat.le_succ 1, fun _ => ⟨rfl, rfl⟩⟩
theorem vcmp (a b) : Statement (.vcmp a b) := ⟨Nat.le_succ 1, fun _ => ⟨rfl, rfl⟩⟩
theorem vfadd (a) : Statement (.vfadd a) := ⟨Nat.le_succ 1, fun _ => ⟨rfl, rfl⟩⟩
theorem vfsub (a) : Statement (.vfsub a) := ⟨Nat.le_succ 1, fun _ => ⟨rfl, rfl⟩⟩
theorem vfmul (a) : Statement (.vfmul a) := ⟨Nat.le_succ 1, fun _ => ⟨rfl, rfl⟩⟩
theorem vfma (a) : Statement (.vfma a) := ⟨Nat.le_succ 1, fun _ => ⟨rfl, rfl⟩⟩
theorem vfms (a) : Statement (.vfms a) := ⟨Nat.le_succ 1, fun _ => ⟨rfl, rfl⟩⟩
theorem vfmin (a) : Statement (.vfmin a) := ⟨Nat.le_succ 1, fun _ => ⟨rfl, rfl⟩⟩
theorem vfmax (a) : Statement (.vfmax a) := ⟨Nat.le_succ 1, fun _ => ⟨rfl, rfl⟩⟩
theorem vcvt (a) : Statement (.vcvt a) := ⟨Nat.le_succ 1, fun _ => ⟨rfl, rfl⟩⟩
theorem vredAdd (a) : Statement (.vredAdd a) := ⟨Nat.le_succ 1, fun _ => ⟨rfl, rfl⟩⟩
theorem vredMin (a) : Statement (.vredMin a) := ⟨Nat.le_succ 1, fun _ => ⟨rfl, rfl⟩⟩
theorem vredMax (a) : Statement (.vredMax a) := ⟨Nat.le_succ 1, fun _ => ⟨rfl, rfl⟩⟩
theorem vfredAdd (a) : Statement (.vfredAdd a) := ⟨Nat.le_succ 1, fun _ => ⟨rfl, rfl⟩⟩
theorem vld (a) : Statement (.vld a) := ⟨Nat.le_succ 1, fun _ => ⟨rfl, rfl⟩⟩
theorem vst (a) : Statement (.vst a) := ⟨Nat.le_succ 1, fun _ => ⟨rfl, rfl⟩⟩
theorem vldx (a) : Statement (.vldx a) := ⟨Nat.le_succ 1, fun _ => ⟨rfl, rfl⟩⟩
theorem vstx (a) : Statement (.vstx a) := ⟨Nat.le_succ 1, fun _ => ⟨rfl, rfl⟩⟩
theorem vldBp (a) : Statement (.vldBp a) := ⟨Nat.le_succ 1, fun _ => ⟨rfl, rfl⟩⟩
theorem vstBp (a) : Statement (.vstBp a) := ⟨Nat.le_succ 1, fun _ => ⟨rfl, rfl⟩⟩
theorem vfcmp (a b) : Statement (.vfcmp a b) := ⟨Nat.le_succ 1, fun _ => ⟨rfl, rfl⟩⟩
theorem vperm (a) : Statement (.vperm a) := ⟨Nat.le_succ 1, fun _ => ⟨rfl, rfl⟩⟩
theorem vrot (a) : Statement (.vrot a) := ⟨Nat.le_succ 1, fun _ => ⟨rfl, rfl⟩⟩
theorem vshuf (a) : Statement (.vshuf a) := ⟨Nat.le_succ 1, fun _ => ⟨rfl, rfl⟩⟩
theorem vbcast (a) : Statement (.vbcast a) := ⟨Nat.le_succ 1, fun _ => ⟨rfl, rfl⟩⟩
theorem vslide (a) : Statement (.vslide a) := ⟨Nat.le_succ 1, fun _ => ⟨rfl, rfl⟩⟩
theorem vmvVx (a) : Statement (.vmvVx a) := ⟨Nat.le_succ 1, fun _ => ⟨rfl, rfl⟩⟩
theorem vmvXv (a) : Statement (.vmvXv a) := ⟨Nat.le_succ 1, fun _ => ⟨rfl, rfl⟩⟩
theorem vins (a) : Statement (.vins a) := ⟨Nat.le_succ 1, fun _ => ⟨rfl, rfl⟩⟩
theorem vext (a) : Statement (.vext a) := ⟨Nat.le_succ 1, fun _ => ⟨rfl, rfl⟩⟩
theorem vpack (a) : Statement (.vpack a) := ⟨Nat.le_succ 1, fun _ => ⟨rfl, rfl⟩⟩
theorem vunpack (a) : Statement (.vunpack a) := ⟨Nat.le_succ 1, fun _ => ⟨rfl, rfl⟩⟩
theorem vchn (a b) : Statement (.vchn a b) := ⟨Nat.le_succ 1, fun _ => ⟨rfl, rfl⟩⟩
theorem vx (a) : Statement (.vx a) := ⟨Nat.le_succ 1, fun _ => ⟨rfl, rfl⟩⟩
theorem kand (a b c) : Statement (.kand a b c) := ⟨Nat.le_succ 1, fun _ => ⟨rfl, rfl⟩⟩
theorem kor (a b c) : Statement (.kor a b c) := ⟨Nat.le_succ 1, fun _ => ⟨rfl, rfl⟩⟩
theorem knot (a b) : Statement (.knot a b) := ⟨Nat.le_succ 1, fun _ => ⟨rfl, rfl⟩⟩
theorem kpop (a b) : Statement (.kpop a b) := ⟨Nat.le_succ 1, fun _ => ⟨rfl, rfl⟩⟩
theorem vexp2 (a) : Statement (.vexp2 a) := ⟨Nat.le_succ 1, fun _ => ⟨rfl, rfl⟩⟩
theorem vlog2 (a) : Statement (.vlog2 a) := ⟨Nat.le_succ 1, fun _ => ⟨rfl, rfl⟩⟩
theorem vrcp (a) : Statement (.vrcp a) := ⟨Nat.le_succ 1, fun _ => ⟨rfl, rfl⟩⟩
theorem vrsqrt (a) : Statement (.vrsqrt a) := ⟨Nat.le_succ 1, fun _ => ⟨rfl, rfl⟩⟩
theorem vsin (a) : Statement (.vsin a) := ⟨Nat.le_succ 1, fun _ => ⟨rfl, rfl⟩⟩
theorem vcos (a) : Statement (.vcos a) := ⟨Nat.le_succ 1, fun _ => ⟨rfl, rfl⟩⟩
theorem plyZero (a) : Statement (.plyZero a) := ⟨Nat.zero_le 2, fun h => absurd rfl h⟩
theorem plyMma (a) : Statement (.plyMma a) := ⟨Nat.zero_le 2, fun h => absurd rfl h⟩
theorem plyMmaMx (a) : Statement (.plyMmaMx a) := ⟨Nat.zero_le 2, fun h => absurd rfl h⟩
theorem plyMmaBp (a) : Statement (.plyMmaBp a) := ⟨Nat.zero_le 2, fun h => absurd rfl h⟩
theorem plyLdacc (a) : Statement (.plyLdacc a) := ⟨Nat.zero_le 2, fun h => absurd rfl h⟩
theorem plyStacc (a) : Statement (.plyStacc a) := ⟨Nat.zero_le 2, fun h => absurd rfl h⟩
theorem plyTr (a) : Statement (.plyTr a) := ⟨Nat.zero_le 2, fun h => absurd rfl h⟩
theorem plySync (a) : Statement (.plySync a) := ⟨Nat.zero_le 2, fun h => absurd rfl h⟩
theorem nbmGemv (a) : Statement (.nbmGemv a) := ⟨Nat.zero_le 2, fun h => absurd rfl h⟩
theorem nbmGemvBp (a) : Statement (.nbmGemvBp a) := ⟨Nat.zero_le 2, fun h => absurd rfl h⟩
theorem nbmSync (a) : Statement (.nbmSync a) := ⟨Nat.zero_le 2, fun h => absurd rfl h⟩
theorem nodeAdd (a) : Statement (.nodeAdd a) := ⟨Nat.zero_le 2, fun h => absurd rfl h⟩
theorem nodeSub (a) : Statement (.nodeSub a) := ⟨Nat.zero_le 2, fun h => absurd rfl h⟩
theorem nodeMul (a) : Statement (.nodeMul a) := ⟨Nat.zero_le 2, fun h => absurd rfl h⟩
theorem nodeMulh (a) : Statement (.nodeMulh a) := ⟨Nat.zero_le 2, fun h => absurd rfl h⟩
theorem nodeDiv (a) : Statement (.nodeDiv a) := ⟨Nat.zero_le 2, fun h => absurd rfl h⟩
theorem nodeAnd (a) : Statement (.nodeAnd a) := ⟨Nat.zero_le 2, fun h => absurd rfl h⟩
theorem nodeOr (a) : Statement (.nodeOr a) := ⟨Nat.zero_le 2, fun h => absurd rfl h⟩
theorem nodeXor (a) : Statement (.nodeXor a) := ⟨Nat.zero_le 2, fun h => absurd rfl h⟩
theorem nodeShl (a) : Statement (.nodeShl a) := ⟨Nat.zero_le 2, fun h => absurd rfl h⟩
theorem nodeShr (a) : Statement (.nodeShr a) := ⟨Nat.zero_le 2, fun h => absurd rfl h⟩
theorem nodeSra (a) : Statement (.nodeSra a) := ⟨Nat.zero_le 2, fun h => absurd rfl h⟩
theorem nodeCmp (a) : Statement (.nodeCmp a) := ⟨Nat.zero_le 2, fun h => absurd rfl h⟩
theorem nodeSel (a) : Statement (.nodeSel a) := ⟨Nat.zero_le 2, fun h => absurd rfl h⟩
theorem nodeMin (a) : Statement (.nodeMin a) := ⟨Nat.zero_le 2, fun h => absurd rfl h⟩
theorem nodeMax (a) : Statement (.nodeMax a) := ⟨Nat.zero_le 2, fun h => absurd rfl h⟩
theorem nodeFadd (a) : Statement (.nodeFadd a) := ⟨Nat.zero_le 2, fun h => absurd rfl h⟩
theorem nodeFmul (a) : Statement (.nodeFmul a) := ⟨Nat.zero_le 2, fun h => absurd rfl h⟩
theorem nodeFfma (a) : Statement (.nodeFfma a) := ⟨Nat.zero_le 2, fun h => absurd rfl h⟩
theorem nodeFcvt (a) : Statement (.nodeFcvt a) := ⟨Nat.zero_le 2, fun h => absurd rfl h⟩
theorem nodeFmin (a) : Statement (.nodeFmin a) := ⟨Nat.zero_le 2, fun h => absurd rfl h⟩
theorem nodeFmax (a) : Statement (.nodeFmax a) := ⟨Nat.zero_le 2, fun h => absurd rfl h⟩
theorem nodeDadd (a) : Statement (.nodeDadd a) := ⟨Nat.zero_le 2, fun h => absurd rfl h⟩
theorem nodeDmul (a) : Statement (.nodeDmul a) := ⟨Nat.zero_le 2, fun h => absurd rfl h⟩
theorem nodeDcmp (a) : Statement (.nodeDcmp a) := ⟨Nat.zero_le 2, fun h => absurd rfl h⟩
theorem nodeDtow (a) : Statement (.nodeDtow a) := ⟨Nat.zero_le 2, fun h => absurd rfl h⟩
theorem nodeWtod (a) : Statement (.nodeWtod a) := ⟨Nat.zero_le 2, fun h => absurd rfl h⟩
theorem nodeSteer (a) : Statement (.nodeSteer a) := ⟨Nat.zero_le 2, fun h => absurd rfl h⟩
theorem nodeMerge (a) : Statement (.nodeMerge a) := ⟨Nat.zero_le 2, fun h => absurd rfl h⟩
theorem nodeFan (a) : Statement (.nodeFan a) := ⟨Nat.zero_le 2, fun h => absurd rfl h⟩
theorem nodeGate (a) : Statement (.nodeGate a) := ⟨Nat.zero_le 2, fun h => absurd rfl h⟩
theorem nodeJoin (a) : Statement (.nodeJoin a) := ⟨Nat.zero_le 2, fun h => absurd rfl h⟩
theorem nodeIter (a) : Statement (.nodeIter a) := ⟨Nat.zero_le 2, fun h => absurd rfl h⟩
theorem nodeDrop (a) : Statement (.nodeDrop a) := ⟨Nat.zero_le 2, fun h => absurd rfl h⟩
theorem nodeWsplit (a) : Statement (.nodeWsplit a) := ⟨Nat.zero_le 2, fun h => absurd rfl h⟩
theorem nodeWjoin (a) : Statement (.nodeWjoin a) := ⟨Nat.zero_le 2, fun h => absurd rfl h⟩
theorem nodeAg (a) : Statement (.nodeAg a) := ⟨Nat.zero_le 2, fun h => absurd rfl h⟩
theorem nodeLdp (a) : Statement (.nodeLdp a) := ⟨Nat.zero_le 2, fun h => absurd rfl h⟩
theorem nodeStp (a) : Statement (.nodeStp a) := ⟨Nat.zero_le 2, fun h => absurd rfl h⟩
theorem nodeLdl (a) : Statement (.nodeLdl a) := ⟨Nat.zero_le 2, fun h => absurd rfl h⟩
theorem nodeAtom (a) : Statement (.nodeAtom a) := ⟨Nat.zero_le 2, fun h => absurd rfl h⟩
theorem nodeFence (a) : Statement (.nodeFence a) := ⟨Nat.zero_le 2, fun h => absurd rfl h⟩
theorem nodeAcc (a) : Statement (.nodeAcc a) := ⟨Nat.zero_le 2, fun h => absurd rfl h⟩
theorem nodeAccx (a) : Statement (.nodeAccx a) := ⟨Nat.zero_le 2, fun h => absurd rfl h⟩
theorem nodeArg (a) : Statement (.nodeArg a) := ⟨Nat.zero_le 2, fun h => absurd rfl h⟩
theorem nodeRet (a) : Statement (.nodeRet a) := ⟨Nat.zero_le 2, fun h => absurd rfl h⟩
theorem nodeCall (a) : Statement (.nodeCall a) := ⟨Nat.zero_le 2, fun h => absurd rfl h⟩
theorem nodeTail (a) : Statement (.nodeTail a) := ⟨Nat.zero_le 2, fun h => absurd rfl h⟩
theorem nodeHsend (a) : Statement (.nodeHsend a) := ⟨Nat.zero_le 2, fun h => absurd rfl h⟩
theorem nodeMark (a) : Statement (.nodeMark a) := ⟨Nat.zero_le 2, fun h => absurd rfl h⟩
theorem nodeEnd (a) : Statement (.nodeEnd a) := ⟨Nat.zero_le 2, fun h => absurd rfl h⟩
theorem nodeFlush (a) : Statement (.nodeFlush a) := ⟨Nat.zero_le 2, fun h => absurd rfl h⟩
theorem nodeReset (a) : Statement (.nodeReset a) := ⟨Nat.zero_le 2, fun h => absurd rfl h⟩
theorem nodeSwitch (a) : Statement (.nodeSwitch a) := ⟨Nat.zero_le 2, fun h => absurd rfl h⟩
theorem nodeConst (a) : Statement (.nodeConst a) := ⟨Nat.zero_le 2, fun h => absurd rfl h⟩
theorem repetitionIssue : Statement .repetitionIssue := ⟨Nat.zero_le 2, fun h => absurd rfl h⟩
theorem sfuResult : Statement .sfuResult := ⟨Nat.zero_le 2, fun h => absurd rfl h⟩
theorem plySlotBoundary : Statement .plySlotBoundary := ⟨Nat.zero_le 2, fun h => absurd rfl h⟩
theorem plyslotWrite : Statement .plyslotWrite := ⟨Nat.zero_le 2, fun h => absurd rfl h⟩
theorem callCompletion : Statement .callCompletion := ⟨Nat.zero_le 2, fun h => absurd rfl h⟩
theorem configurationSwitch : Statement .configurationSwitch := ⟨Nat.zero_le 2, fun h => absurd rfl h⟩
theorem portRewalk : Statement .portRewalk := ⟨Nat.zero_le 2, fun h => absurd rfl h⟩
theorem regionDrain : Statement .regionDrain := ⟨Nat.zero_le 2, fun h => absurd rfl h⟩
theorem hamperArrival : Statement .hamperArrival := ⟨Nat.zero_le 2, fun h => absurd rfl h⟩
theorem recordRetry : Statement .recordRetry := ⟨Nat.zero_le 2, fun h => absurd rfl h⟩
theorem hamperReload : Statement .hamperReload := ⟨Nat.zero_le 2, fun h => absurd rfl h⟩
theorem recordDue : Statement .recordDue := ⟨Nat.zero_le 2, fun h => absurd rfl h⟩
theorem dispatchDecision : Statement .dispatchDecision := ⟨Nat.zero_le 2, fun h => absurd rfl h⟩
theorem replyDelivery : Statement .replyDelivery := ⟨Nat.zero_le 2, fun h => absurd rfl h⟩
theorem launchAccept : Statement .launchAccept := ⟨Nat.zero_le 2, fun h => absurd rfl h⟩
theorem hostRecordTake : Statement .hostRecordTake := ⟨Nat.zero_le 2, fun h => absurd rfl h⟩
theorem itinNodeDispatch : Statement .itinNodeDispatch := ⟨Nat.zero_le 2, fun h => absurd rfl h⟩
theorem itinNodeDone : Statement .itinNodeDone := ⟨Nat.zero_le 2, fun h => absurd rfl h⟩
theorem itinFixedFiring : Statement .itinFixedFiring := ⟨Nat.zero_le 2, fun h => absurd rfl h⟩
theorem quantumExpiry : Statement .quantumExpiry := ⟨Nat.zero_le 2, fun h => absurd rfl h⟩
theorem csaInterval : Statement .csaInterval := ⟨Nat.zero_le 2, fun h => absurd rfl h⟩
theorem copyEngineRun : Statement .copyEngineRun := ⟨Nat.zero_le 2, fun h => absurd rfl h⟩
theorem tlbInvComplete : Statement .tlbInvComplete := ⟨Nat.zero_le 2, fun h => absurd rfl h⟩
theorem migrationBegin : Statement .migrationBegin := ⟨Nat.zero_le 2, fun h => absurd rfl h⟩
theorem migrationCopy : Statement .migrationCopy := ⟨Nat.zero_le 2, fun h => absurd rfl h⟩
theorem migrationInstall : Statement .migrationInstall := ⟨Nat.zero_le 2, fun h => absurd rfl h⟩
theorem ramblerReadComplete : Statement .ramblerReadComplete := ⟨Nat.zero_le 2, fun h => absurd rfl h⟩
theorem ramblerWriteComplete : Statement .ramblerWriteComplete := ⟨Nat.zero_le 2, fun h => absurd rfl h⟩
theorem partySwapOut : Statement .partySwapOut := ⟨Nat.zero_le 2, fun h => absurd rfl h⟩
theorem partySwapIn : Statement .partySwapIn := ⟨Nat.zero_le 2, fun h => absurd rfl h⟩
theorem ctxcmdSave : Statement .ctxcmdSave := ⟨Nat.zero_le 2, fun h => absurd rfl h⟩
theorem saveComplete : Statement .saveComplete := ⟨Nat.zero_le 2, fun h => absurd rfl h⟩
theorem ctxcmdResume : Statement .ctxcmdResume := ⟨Nat.zero_le 2, fun h => absurd rfl h⟩
theorem ctxcmdFreeze : Statement .ctxcmdFreeze := ⟨Nat.zero_le 2, fun h => absurd rfl h⟩
theorem ctxcmdReinject : Statement .ctxcmdReinject := ⟨Nat.zero_le 2, fun h => absurd rfl h⟩
theorem ctxcmdAbandon : Statement .ctxcmdAbandon := ⟨Nat.zero_le 2, fun h => absurd rfl h⟩
theorem biasFlipHost : Statement .biasFlipHost := ⟨Nat.zero_le 2, fun h => absurd rfl h⟩
theorem biasFlipDevice : Statement .biasFlipDevice := ⟨Nat.zero_le 2, fun h => absurd rfl h⟩
theorem cwbaseWrite : Statement .cwbaseWrite := ⟨Nat.zero_le 2, fun h => absurd rfl h⟩
theorem uportRead : Statement .uportRead := ⟨Nat.zero_le 2, fun h => absurd rfl h⟩
theorem platformRegisterWrite : Statement .platformRegisterWrite := ⟨Nat.zero_le 2, fun h => absurd rfl h⟩
theorem hostWindowAccess : Statement .hostWindowAccess := ⟨Nat.zero_le 2, fun h => absurd rfl h⟩
theorem hostSnoop : Statement .hostSnoop := ⟨Nat.zero_le 2, fun h => absurd rfl h⟩
theorem utsenRequest : Statement .utsenRequest := ⟨Nat.zero_le 2, fun h => absurd rfl h⟩
theorem utsenPortUp : Statement .utsenPortUp := ⟨Nat.zero_le 2, fun h => absurd rfl h⟩
theorem utsenPortDown : Statement .utsenPortDown := ⟨Nat.zero_le 2, fun h => absurd rfl h⟩
theorem flitRetransmit : Statement .flitRetransmit := ⟨Nat.zero_le 2, fun h => absurd rfl h⟩
theorem powerOnReset : Statement .powerOnReset := ⟨Nat.zero_le 2, fun h => absurd rfl h⟩
theorem clusterPowerDown : Statement .clusterPowerDown := ⟨Nat.zero_le 2, fun h => absurd rfl h⟩
theorem mgmtGetCertificates : Statement .mgmtGetCertificates := ⟨Nat.zero_le 2, fun h => absurd rfl h⟩
theorem mgmtAttestation : Statement .mgmtAttestation := ⟨Nat.zero_le 2, fun h => absurd rfl h⟩
theorem mgmtSetDeviceNumber : Statement .mgmtSetDeviceNumber := ⟨Nat.zero_le 2, fun h => absurd rfl h⟩
theorem mgmtSetPowerLimit : Statement .mgmtSetPowerLimit := ⟨Nat.zero_le 2, fun h => absurd rfl h⟩
theorem mgmtReadSensors : Statement .mgmtReadSensors := ⟨Nat.zero_le 2, fun h => absurd rfl h⟩
theorem mgmtReadErrors : Statement .mgmtReadErrors := ⟨Nat.zero_le 2, fun h => absurd rfl h⟩
theorem mgmtReset : Statement .mgmtReset := ⟨Nat.zero_le 2, fun h => absurd rfl h⟩
theorem memoryAccessCompletion : Statement .memoryAccessCompletion := ⟨Nat.zero_le 2, fun h => absurd rfl h⟩
theorem illegalEncoding : Statement .illegalEncoding := ⟨Nat.zero_le 2, fun h => absurd rfl h⟩
theorem itineraryInstanceAbandon : Statement .itineraryInstanceAbandon := ⟨Nat.zero_le 2, fun h => absurd rfl h⟩
theorem hostLinkTraining : Statement .hostLinkTraining := ⟨Nat.zero_le 2, fun h => absurd rfl h⟩
theorem storagePortLinkDown : Statement .storagePortLinkDown := ⟨Nat.zero_le 2, fun h => absurd rfl h⟩

end Sys2Proof.Laws.OneForm
end

