-- ==== Sys2Proof/Tests/Slice0.lean ====
section
/-! SUPPORT. Tests: words of the spec and what they decode to, ill-formed terms, for each statement with hypotheses a state and operands
that meet them, and single steps whose results the spec gives. -/

namespace Sys2Proof.Tests
open Sys2Proof Sys2Proof.Machine
set_option Elab.async false

theorem test_decode_integer : ([
    (0xA5C314B7, .lui 9 0xFFFFFFFFA5C31000), (0xA5C31497, .auipc 9 0xFFFFFFFFA5C31000),
    (0x8A590493, .addi 9 18 0xFFFFFFFFFFFFF8A5), (0x8A592493, .slti 9 18 0xFFFFFFFFFFFFF8A5),
    (0x8A593493, .sltin 9 18 0xFFFFFFFFFFFFF8A5), (0x8A594493, .xori 9 18 0xFFFFFFFFFFFFF8A5),
    (0x8A596493, .ori 9 18 0xFFFFFFFFFFFFF8A5), (0x8A597493, .andi 9 18 0xFFFFFFFFFFFFF8A5), (0x03591493, .slli 9 18 53),
    (0x03595493, .srli 9 18 53), (0x43595493, .srai 9 18 53), (0x01B904B3, .add 9 18 27), (0x41B904B3, .sub 9 18 27),
    (0x01B914B3, .sll 9 18 27), (0x01B924B3, .slt 9 18 27), (0x01B934B3, .sltn 9 18 27), (0x01B944B3, .xor 9 18 27),
    (0x01B954B3, .srl 9 18 27), (0x41B954B3, .sra 9 18 27), (0x01B964B3, .or 9 18 27), (0x01B974B3, .and 9 18 27),
    (0x8A59049B, .addiw 9 18 0xFFFFFFFFFFFFF8A5), (0x0159149B, .slliw 9 18 21), (0x0159549B, .srliw 9 18 21),
    (0x4159549B, .sraiw 9 18 21), (0x01B904BB, .addw 9 18 27), (0x41B904BB, .subw 9 18 27), (0x01B914BB, .sllw 9 18 27),
    (0x01B954BB, .srlw 9 18 27), (0x41B954BB, .sraw 9 18 27), (0x03B904B3, .mul 9 18 27), (0x03B914B3, .mulh 9 18 27),
    (0x03B924B3, .mulhsn 9 18 27), (0x03B934B3, .mulhn 9 18 27), (0x03B944B3, .div 9 18 27), (0x03B954B3, .divn 9 18 27),
    (0x03B964B3, .rem 9 18 27), (0x03B974B3, .remn 9 18 27), (0x03B904BB, .mulw 9 18 27), (0x03B944BB, .divw 9 18 27),
    (0x03B954BB, .divnw 9 18 27), (0x03B964BB, .remw 9 18 27), (0x03B974BB, .remnw 9 18 27),
    (0xABB906E3, .beq 18 27 0xFFFFFFFFFFFFFAAC), (0xABB916E3, .bne 18 27 0xFFFFFFFFFFFFFAAC),
    (0xABB946E3, .blt 18 27 0xFFFFFFFFFFFFFAAC), (0xABB956E3, .bge 18 27 0xFFFFFFFFFFFFFAAC),
    (0xABB966E3, .bltn 18 27 0xFFFFFFFFFFFFFAAC), (0xABB976E3, .bgen 18 27 0xFFFFFFFFFFFFFAAC),
    (0xA5C314EF, .jal 9 0xFFFFFFFFFFF3125C), (0x8A5904E7, .jalr 9 18 0xFFFFFFFFFFFFF8A5)] : List (BitVec 32 × Instr)).all
    (fun e => decodeParcels [e.1] == some e.2 && encode e.2 == [e.1]) = true := by decide

theorem test_decode_memory : ([
    (0x8A590483, .lb 9 18 0xFFFFFFFFFFFFF8A5), (0x8A591483, .lh 9 18 0xFFFFFFFFFFFFF8A5),
    (0x8A592483, .lw 9 18 0xFFFFFFFFFFFFF8A5), (0x8A593483, .ld 9 18 0xFFFFFFFFFFFFF8A5),
    (0x8A594483, .lbn 9 18 0xFFFFFFFFFFFFF8A5), (0x8A595483, .lhn 9 18 0xFFFFFFFFFFFFF8A5),
    (0x8A596483, .lwn 9 18 0xFFFFFFFFFFFFF8A5), (0xABB906A3, .sb 27 18 0xFFFFFFFFFFFFFAAD),
    (0xABB916A3, .sh 27 18 0xFFFFFFFFFFFFFAAD), (0xABB926A3, .sw 27 18 0xFFFFFFFFFFFFFAAD),
    (0xABB936A3, .sd 27 18 0xFFFFFFFFFFFFFAAD), (0x8A59048B, .ldFe 9 18 0xFFFFFFFFFFFFF8A5),
    (0x8A59148B, .ldFc 9 18 0xFFFFFFFFFFFFF8A5), (0xABB9268B, .stEf 27 18 0xFFFFFFFFFFFFFAAD),
    (0xABB9368B, .stF 27 18 0xFFFFFFFFFFFFFAAD), (0x8A59448B, .feSet 9 18 0xFFFFFFFFFFFFF8A5),
    (0x8A59548B, .feClr 9 18 0xFFFFFFFFFFFFF8A5), (0x8A59648B, .feTest 9 18 0xFFFFFFFFFFFFF8A5),
    (0x6800000F, .fence 6 2), (0x01B9100F, .cacheInv 18 27), (0x01B9200F, .cacheWb 18 27),
    (0x01B9348F, .stashMap 9 18 27), (0xADB904AB, .cpy 9 18 27 21 2), (0xADB914AB, .cpy2d 9 18 27 21 2),
    (0xADB924AB, .cpyFill 9 18 27 21 2), (0x00093CAB, .strb 25 18), (0x00004CAB, .strx 25), (0x000954AB, .strq 9 18)] : List (BitVec 32 × Instr)).all
    (fun e => decodeParcels [e.1] == some e.2 && encode e.2 == [e.1]) = true := by decide

theorem test_decode_atomic : ([
    (0x69B904AF, .amoAdd 9 27 18 6 2 false), (0x6BB914AF, .amoAnd 9 27 18 6 2 true),
    (0x69B924AF, .amoOr 9 27 18 6 2 false), (0x6BB934AF, .amoXor 9 27 18 6 2 true),
    (0x69B944AF, .amoMin 9 27 18 6 2 false), (0x6BB954AF, .amoMax 9 27 18 6 2 true),
    (0x69B964AF, .amoMinn 9 27 18 6 2 false), (0x6BB974AF, .amoMaxn 9 27 18 6 2 true),
    (0x69B904FB, .amoSwap 9 27 18 6 2 false), (0x6BB914FB, .amoCas 9 27 18 6 2 true), (0x6BB924FB, .amoCas2 9 27 18 6 2),
    (0x620934FB, .ldAcq 9 18 6 true), (0x61B9407B, .stRel 27 18 6 false)] : List (BitVec 32 × Instr)).all
    (fun e => decodeParcels [e.1] == some e.2 && encode e.2 == [e.1]) = true := by decide

theorem test_decode_system : ([
    (0x000904DB, .callx 9 18), (0x01B914DB, .spawn 9 18 27), (0x01B924DB, .callatCl 9 18 27),
    (0x03B924DB, .callatAff 9 18 27), (0x040924DB, .callatLeast 9 18), (0x01B934DB, .callatNbCl 9 18 27),
    (0x03B934DB, .callatNbAff 9 18 27), (0x040934DB, .callatNbLeast 9 18), (0x01B9405B, .reply 18 27),
    (0x000954DB, .launch 9 18), (0x0009605B, .bar 18), (0xA5B9705B, .rep 18 27 9 2), (0x0200705B, .repStop),
    (0x00000073, .halt), (0x00100073, .yield), (0x00200073, .tret), (0x00300073, .brk), (0x9C5014F3, .sysrd 9 0x9C5),
    (0x9C5924F3, .syswr 9 0x9C5 18), (0x9C5934F3, .sysset 9 0x9C5 18), (0x9C5944F3, .sysclr 9 0x9C5 18),
    (0xA5C05073, .trap 0xA5C), (0xA9B964F3, .tlbInv 9 18 27 21), (0x020964F3, .tlbInvCtx 9 18),
    (0x040064F3, .tlbInvAll 9), (0x01B974F3, .codeRetire 9 18 27)] : List (BitVec 32 × Instr)).all
    (fun e => decodeParcels [e.1] == some e.2 && encode e.2 == [e.1]) = true := by decide

theorem test_decode_vector : ([
    (0x857724E2, .vadd ⟨true, 2, 5, 27, 18, 9, .g4⟩), (0x957724C2, .vsub ⟨true, 2, 5, 27, 18, 9, .g2⟩),
    (0xA57724E2, .vmul ⟨true, 2, 5, 27, 18, 9, .g4⟩), (0xB57724C2, .vmulh ⟨true, 2, 5, 27, 18, 9, .g2⟩),
    (0xC57724E2, .vmin ⟨true, 2, 5, 27, 18, 9, .g4⟩), (0xD57724C2, .vmax ⟨true, 2, 5, 27, 18, 9, .g2⟩),
    (0x654124E2, .vabs ⟨false, 2, 5, 0, 18, 9, .g4⟩), (0x754124C2, .vneg ⟨false, 2, 5, 0, 18, 9, .g2⟩),
    (0x857724E6, .vand ⟨true, 2, 5, 27, 18, 9, .g4⟩), (0x957724C6, .vor ⟨true, 2, 5, 27, 18, 9, .g2⟩),
    (0xA57724E6, .vxor ⟨true, 2, 5, 27, 18, 9, .g4⟩), (0xB57724C6, .vshl ⟨true, 2, 5, 27, 18, 9, .g2⟩),
    (0xC57724E6, .vshr ⟨true, 2, 5, 27, 18, 9, .g4⟩), (0xD57724C6, .vsra ⟨true, 2, 5, 27, 18, 9, .g2⟩),
    (0xE57724E6, .vsel ⟨true, 2, 5, 27, 18, 9, .g4⟩), (0xA577234A, .vcmp 2 ⟨true, 2, 5, 27, 18, 6, .g2⟩),
    (0x857724EE, .vfadd ⟨true, 2, 5, 27, 18, 9, .g4⟩), (0x957724CE, .vfsub ⟨true, 2, 5, 27, 18, 9, .g2⟩),
    (0xA57724EE, .vfmul ⟨true, 2, 5, 27, 18, 9, .g4⟩), (0xB57724CE, .vfma ⟨true, 2, 5, 27, 18, 9, .g2⟩),
    (0xC57724EE, .vfms ⟨true, 2, 5, 27, 18, 9, .g4⟩), (0xD57724CE, .vfmin ⟨true, 2, 5, 27, 18, 9, .g2⟩),
    (0xE57724EE, .vfmax ⟨true, 2, 5, 27, 18, 9, .g4⟩), (0x295324D2, .vcvt ⟨2, 4, 5, 9, 18, 9, .g2⟩),
    (0x054124F6, .vredAdd ⟨false, 2, 5, 0, 18, 9, .g4⟩), (0x154124D6, .vredMin ⟨false, 2, 5, 0, 18, 9, .g2⟩),
    (0x254124F6, .vredMax ⟨false, 2, 5, 0, 18, 9, .g4⟩), (0x354124D6, .vfredAdd ⟨false, 2, 5, 0, 18, 9, .g2⟩),
    (0x855D24FA, .vld ⟨true, 2, 5, 14, 18, 9, .g4⟩), (0x955D24DA, .vst ⟨true, 2, 5, 14, 18, 9, .g2⟩),
    (0xA55D24FA, .vldx ⟨true, 2, 5, 14, 18, 9, .g4⟩), (0xB55D24DA, .vstx ⟨true, 2, 5, 14, 18, 9, .g2⟩),
    (0xC55D24FA, .vldBp ⟨true, 2, 5, 14, 18, 9, .g4⟩), (0xD55D24DA, .vstBp ⟨true, 2, 5, 14, 18, 9, .g2⟩),
    (0xA577237E, .vfcmp 2 ⟨true, 2, 5, 27, 18, 6, .g4⟩)] : List (BitVec 32 × Instr)).all
    (fun e => decodeParcels [e.1] == some e.2 && encode e.2 == [e.1]) = true := by decide

theorem test_decode_permute : ([
    (0x857724A2, .vperm ⟨true, 2, 5, 27, 18, 9, .g1⟩), (0x957724A2, .vrot ⟨true, 2, 5, 27, 18, 9, .g1⟩),
    (0x257724A2, .vshuf ⟨false, 2, 5, 27, 18, 9, .g1⟩), (0xB57724A2, .vbcast ⟨true, 2, 5, 27, 18, 9, .g1⟩),
    (0xC57724A2, .vslide ⟨true, 2, 5, 27, 18, 9, .g1⟩), (0x857604A6, .vmvVx ⟨true, 2, 5, 27, 0, 9, .g1⟩),
    (0x140124A6, .vmvXv ⟨false, 2, 0, 0, 18, 9, .g1⟩), (0xA436B4A6, .vins ⟨true, 2, 0, 27, 11, 9, .g1⟩),
    (0xB43724A6, .vext ⟨true, 2, 0, 27, 18, 9, .g1⟩), (0x057724AA, .vpack ⟨false, 2, 5, 27, 18, 9, .g1⟩),
    (0x154324AA, .vunpack ⟨false, 2, 5, 1, 18, 9, .g1⟩), (0x803602AE, .vchn 5 27),
    (0x917724AE, .vx ⟨true, 0, 5, 27, 18, 9, .g1⟩), (0x00083332, .kand 6 3 4), (0x10083332, .kor 6 3 4),
    (0x20003332, .knot 6 3), (0x300034B2, .kpop 9 3), (0x054124B6, .vexp2 ⟨false, 2, 5, 0, 18, 9, .g1⟩),
    (0x154124B6, .vlog2 ⟨false, 2, 5, 0, 18, 9, .g1⟩), (0x254124B6, .vrcp ⟨false, 2, 5, 0, 18, 9, .g1⟩),
    (0x354124B6, .vrsqrt ⟨false, 2, 5, 0, 18, 9, .g1⟩), (0x454124B6, .vsin ⟨false, 2, 5, 0, 18, 9, .g1⟩),
    (0x554124B6, .vcos ⟨false, 2, 5, 0, 18, 9, .g1⟩)] : List (BitVec 32 × Instr)).all
    (fun e => decodeParcels [e.1] == some e.2 && encode e.2 == [e.1]) = true := by decide


/-- R95: OPC, then A at node 0x42 port 1, B at node 0x96 port 3, STRICT 0, CLASS 01, IMMB 1, IMM. -/
def nodeTest : NodeWord := ⟨0x42, 1, 0x96, 3, false, 1, true, 0xDEADBEEF⟩

theorem test_decode_node : ([
    (0x014265B3DEADBEEF, .nodeAdd), (0x024265B3DEADBEEF, .nodeSub), (0x034265B3DEADBEEF, .nodeMul),
    (0x044265B3DEADBEEF, .nodeMulh), (0x054265B3DEADBEEF, .nodeDiv), (0x064265B3DEADBEEF, .nodeAnd),
    (0x074265B3DEADBEEF, .nodeOr), (0x084265B3DEADBEEF, .nodeXor), (0x094265B3DEADBEEF, .nodeShl),
    (0x0A4265B3DEADBEEF, .nodeShr), (0x0B4265B3DEADBEEF, .nodeSra), (0x0C4265B3DEADBEEF, .nodeCmp),
    (0x0D4265B3DEADBEEF, .nodeSel), (0x0E4265B3DEADBEEF, .nodeMin), (0x0F4265B3DEADBEEF, .nodeMax),
    (0x104265B3DEADBEEF, .nodeFadd), (0x114265B3DEADBEEF, .nodeFmul), (0x124265B3DEADBEEF, .nodeFfma),
    (0x134265B3DEADBEEF, .nodeFcvt), (0x144265B3DEADBEEF, .nodeFmin), (0x154265B3DEADBEEF, .nodeFmax),
    (0x184265B3DEADBEEF, .nodeDadd), (0x194265B3DEADBEEF, .nodeDmul), (0x1A4265B3DEADBEEF, .nodeDcmp),
    (0x1B4265B3DEADBEEF, .nodeDtow), (0x1C4265B3DEADBEEF, .nodeWtod), (0x204265B3DEADBEEF, .nodeSteer),
    (0x214265B3DEADBEEF, .nodeMerge), (0x224265B3DEADBEEF, .nodeFan), (0x234265B3DEADBEEF, .nodeGate),
    (0x244265B3DEADBEEF, .nodeJoin), (0x254265B3DEADBEEF, .nodeIter), (0x264265B3DEADBEEF, .nodeDrop),
    (0x284265B3DEADBEEF, .nodeWsplit), (0x294265B3DEADBEEF, .nodeWjoin), (0x304265B3DEADBEEF, .nodeAg),
    (0x314265B3DEADBEEF, .nodeLdp), (0x324265B3DEADBEEF, .nodeStp), (0x334265B3DEADBEEF, .nodeLdl),
    (0x344265B3DEADBEEF, .nodeAtom), (0x354265B3DEADBEEF, .nodeFence), (0x384265B3DEADBEEF, .nodeAcc),
    (0x394265B3DEADBEEF, .nodeAccx), (0x404265B3DEADBEEF, .nodeArg), (0x414265B3DEADBEEF, .nodeRet),
    (0x424265B3DEADBEEF, .nodeCall), (0x434265B3DEADBEEF, .nodeTail), (0x444265B3DEADBEEF, .nodeHsend),
    (0x484265B3DEADBEEF, .nodeMark), (0x494265B3DEADBEEF, .nodeEnd), (0x4A4265B3DEADBEEF, .nodeFlush),
    (0x4B4265B3DEADBEEF, .nodeReset), (0x4C4265B3DEADBEEF, .nodeSwitch), (0x504265B3DEADBEEF, .nodeConst)] : List (BitVec 64 × (NodeWord → Instr))).all
    (fun e => decodeNode e.1 == some (e.2 nodeTest) && encodeNode (e.2 nodeTest) == some e.1) = true := by decide
theorem test_reserved_nodes : ([0x00, 0x16, 0x17, 0x1D, 0x1F, 0x27, 0x2A, 0x2F, 0x36, 0x37, 0x3A, 0x3F, 0x45, 0x47, 0x4D, 0x4F, 0x51,
    0xFF] : List Nat).all (fun o => decodeNode (BitVec.ofNat 64 (o * 2 ^ 56)) == none) = true := by decide

/-- R102, R103: ARGS, FLAGS, bits 15:12, CSCOPE; then A, B, DIM, SCALE, COMP. -/
def cmdTest : CmdLine := ⟨0x123456789A, 0xBC, 0xD, 3, 11, 12, 13, 14, 15, 16, 17⟩
/-- The line of an opcode. -/
def cmdLine (opc : Word) : List Word := [0x123456789ABCD300 + opc, 11, 12, 13, 14, 15, 16, 17]
theorem test_decode_command : ([(0, 0x01, .plyZero), (0, 0x02, .plyMma), (0, 0x03, .plyMmaMx), (0, 0x04, .plyMmaBp),
    (0, 0x05, .plyLdacc), (0, 0x06, .plyStacc), (0, 0x07, .plyTr), (0, 0x08, .plySync), (1, 0x21, .nbmGemv), (1, 0x22, .nbmGemvBp),
    (1, 0x28, .nbmSync)] : List (Nat × Word × (CmdLine → Instr))).all
    (fun e => decodeCommand e.1 (cmdLine e.2.1) == some (e.2.2 cmdTest)) = true := by decide
theorem test_reserved_commands : ([(0, 0x00), (0, 0x09), (0, 0x21), (1, 0x01), (1, 0x23), (1, 0x29), (0, 0xFF)] :
    List (Nat × Word)).all (fun e => decodeCommand e.1 (cmdLine e.2) == none) = true := by decide

/-! Words that no table accepts (R77, R82, R83 to R93). -/

theorem test_reserved_words : ([0x00000000, 0x00000001, 0x40001033, 0x00009067, 0x80001013, 0x0200101B, 0x00003063,
    0x00007003, 0x00004023, 0x0000700B, 0x0000500F, 0x0000602B, 0x0000507B, 0x0600205B, 0x00400073, 0x00000873, 0x0010005B,
    0x70000006, 0x7000000E, 0x40000016, 0x0000001A, 0x50000022, 0x00000026, 0x0000003A, 0x0000003E, 0x60000036] :
    List (BitVec 32)).all (fun p => decodeParcels [p] == none) = true := by decide

/-! WellFormed: for each check an ill-formed term, which it refuses, and the nearest term that it takes. -/

/-- A V-parcel whose fields satisfy every check, for u32 elements. -/
def vok : VArgs := ⟨false, 6, 0, 8, 4, 12, .g4⟩
def vone : VArgs := ⟨false, 2, 0, 0, 5, 6, .g1⟩
/-- A node word of class word with an immediate, and no consumers. -/
def nw (imm : BitVec 32) : NodeWord := ⟨0xFF, 3, 0xFF, 3, false, 0, false, imm⟩

theorem test_ill_immediates : ([
    .lui 1 0x0000000000000800, .auipc 1 0x2000000000000000, .addi 1 2 0x0000020000000000, .ld 1 2 0xFFFFFC0000000000,
    .sd 1 2 0x0000020000000000, .ldFe 1 2 0x0000020000000000, .jalr 1 2 0x0000020000000000, .beq 1 2 0x0000040000000000,
    .beq 1 2 1, .jal 1 0x0004000000000000, .jal 1 3] : List Instr).all (fun i => !i.wf) = true := by decide
theorem test_well_immediates : ([
    .lui 1 0x0000000000001000, .auipc 1 0x1FFFFFFFFFFFF000, .addi 1 2 0x000001FFFFFFFFFF, .ld 1 2 0xFFFFFE0000000000,
    .sd 1 2 0x000001FFFFFFFFFF, .ldFe 1 2 0x000001FFFFFFFFFF, .jalr 1 2 0x000001FFFFFFFFFF, .beq 1 2 0x000003FFFFFFFFFE,
    .jal 1 0x0003FFFFFFFFFFFE] : List Instr).all Instr.wf = true := by decide
theorem test_ill_scalar : ([
    .fence 9 1, .fence 0 0, .strb 23 1, .strx 0, .amoAdd 1 2 3 9 0 true, .amoCas 1 2 3 15 0 true, .amoCas2 0 2 3 0 0,
    .amoCas2 5 2 3 0 0, .amoCas2 4 3 3 0 0, .amoCas2 4 2 3 9 0, .ldAcq 1 2 9 true, .stRel 1 2 9 true, .callx 2 5, .callx 10 5,
    .callx 13 5, .spawn 1 2 3] : List Instr).all (fun i => !i.wf) = true := by decide
theorem test_well_scalar : ([
    .fence 8 1, .strb 24 1, .strx 31, .amoAdd 1 2 3 8 0 true, .amoCas 1 2 3 8 0 true, .amoCas2 4 2 3 8 0, .ldAcq 1 2 8 true,
    .stRel 1 2 8 true, .callx 1 5, .callx 9 5, .callx 14 5, .spawn 0 2 3] : List Instr).all Instr.wf = true := by decide
theorem test_ill_vector : ([
    .vadd { vok with vd := 13 }, .vadd { vok with vs1 := 6 }, .vadd { vok with vs2 := 9 }, .vadd { vok with ty := 4, mask := 1 },
    .vabs { vok with s := true, vs2 := 0 }, .vabs vok, .vcmp 6 { vok with vd := 3 }, .vcmp 0 vok, .vcmp 0 { vok with ty := 0, vd := 3 },
    .vfadd { vok with ty := 3 }, .vcvt ⟨2, 0, 0, 2, 4, 8, .g1⟩, .vcvt ⟨2, 5, 0, 3, 4, 8, .g1⟩, .vcvt ⟨1, 0, 0, 3, 5, 8, .g2⟩,
    .vcvt ⟨2, 0, 0, 3, 4, 9, .g2⟩, .vredAdd { vok with vs2 := 4 }, .vfredAdd { vok with vs2 := 0, ty := 4 },
    .vld vok, .vld { vok with s := true, vd := 2 }, .vldx { vok with s := true, vs1 := 5 }, .vldBp { vok with s := true, mask := 2 },
    .vfcmp 0 { vok with ty := 6, vd := 3 }] : List Instr).all (fun i => !i.wf) = true := by decide
theorem test_well_vector : ([
    .vadd vok, .vadd { vok with s := true, vs2 := 9 }, .vadd { vok with ty := 4 }, .vabs { vok with vs2 := 0 },
    .vcmp 5 { vok with grp := .g2, vd := 7 }, .vfadd { vok with ty := 0 }, .vcvt ⟨2, 4, 0, 3, 4, 8, .g2⟩, .vredAdd { vok with vs2 := 0 },
    .vfredAdd { vok with vs2 := 0, ty := 2 }, .vld { vok with s := true, vs2 := 9 }, .vldx { vok with s := true },
    .vldBp { vok with s := true }, .vfcmp 7 { vok with ty := 0, grp := .g2, vd := 7 }] : List Instr).all Instr.wf = true := by decide
theorem test_ill_permute : ([
    .vperm { vone with grp := .g2 }, .vshuf { vone with s := true }, .vmvVx vone, .vmvVx { vone with s := true },
    .vmvXv { vone with mask := 1 }, .vmvXv { vone with vs2 := 1 }, .vins vone, .vins { vone with s := true, vs1 := 16 },
    .vext { vone with vs2 := 16 }, .vext { vone with mask := 2 }, .vpack { vone with ty := 3 }, .vpack { vone with s := true },
    .vunpack { vone with vs2 := 2 }, .vunpack { vone with ty := 7 }, .vchn 0 5, .vx vone, .vx { vone with ty := 0 },
    .vexp2 { vone with ty := 3 }, .vsin { vone with vs2 := 1 }, .vcos { vone with s := true }] : List Instr).all
    (fun i => !i.wf) = true := by decide
theorem test_well_permute : ([
    .vperm vone, .vshuf vone, .vmvVx { vone with s := true, vs1 := 0 }, .vmvXv vone, .vins { vone with s := true, vs1 := 15 },
    .vext { vone with vs2 := 15 }, .vext { vone with s := true, vs2 := 31 }, .vpack vone, .vunpack { vone with vs2 := 1 }, .vchn 7 5,
    .vx { vone with ty := 0, mask := 5 }, .vexp2 { vone with ty := 0 }, .vsin { vone with ty := 2 }] : List Instr).all
    Instr.wf = true := by decide
theorem test_ill_nodes : ([
    .nodeAdd { nw 1 with cls := 1 }, .nodeAdd (nw 1), .nodeAdd (nw 0x01000000), .nodeCmp (nw 0x06000000), .nodeFcvt (nw 0x22000000),
    .nodeFcvt (nw 0x23000000), .nodeFcvt (nw 0x28800000), .nodeDadd (nw 0), .nodeDcmp { nw 1 with cls := 1 }, .nodeWtod (nw 0),
    .nodeWtod (nw 65), .nodeSteer { nw 0 with cls := 2 }, .nodeFan (nw 0x100000), .nodeJoin (nw 0), .nodeJoin (nw 4),
    .nodeIter { nw 0 with cls := 1 }, .nodeWsplit (nw 3), .nodeAg (nw 8), .nodeLdp (nw 8), .nodeLdp { nw 0x1000 with cls := 1 },
    .nodeStp (nw 0x40), .nodeLdl (nw 8), .nodeAtom (nw 0xA0), .nodeAtom (nw 0x9000), .nodeFence (nw 0), .nodeFence (nw 0x910),
    .nodeAcc (nw 0), .nodeAcc (nw 0x90000001), .nodeAccx (nw 0), .nodeArg (nw 9), .nodeRet (nw 4), .nodeCall (nw 5), .nodeTail (nw 1),
    .nodeHsend (nw 3), .nodeMark (nw 1), .nodeEnd (nw 1), .nodeSwitch (nw 16), .nodeConst { nw 0 with cls := 3 },
    .nodeConst { nw 0 with immb := true }] : List Instr).all (fun i => !i.wf) = true := by decide
theorem test_well_nodes : ([
    .nodeAdd (nw 0), .nodeAdd { nw 0xFFFFFF with immb := true }, .nodeCmp (nw 0x05000000), .nodeFcvt (nw 0x28600000),
    .nodeDadd { nw 0 with cls := 1 }, .nodeWtod (nw 64), .nodeSteer { nw 0 with cls := 1 }, .nodeFan (nw 0xFFFFF), .nodeJoin (nw 3),
    .nodeIter (nw 7), .nodeWsplit (nw 2), .nodeAg (nw 0x00080000), .nodeLdp (nw 0x70), .nodeLdp { nw 0x8000 with cls := 1 },
    .nodeStp (nw 0x30), .nodeLdl (nw 7), .nodeAtom (nw 0x8090), .nodeFence (nw 0x810), .nodeAcc (nw 0x80000001), .nodeAccx (nw 1),
    .nodeArg (nw 8), .nodeRet (nw 3), .nodeCall (nw 4), .nodeTail (nw 0), .nodeHsend (nw 2), .nodeMark { nw 0 with cls := 2 },
    .nodeEnd (nw 0xFF00), .nodeSwitch (nw 15), .nodeConst { nw 5 with cls := 2 }] : List Instr).all Instr.wf = true := by decide

/-! Small machines. -/

/-- A thread at monitor level in the rotation, with a few x registers. -/
def thr0 : Thread :=
  { level := .monitor, run := .rotating, pc := 0x200000, party := 1
    x := [(5, 5), (6, 0x7000), (7, 0xFFFFFFFFFFFFFFFF), (8, 0x8000), (9, 1)] }
/-- A device whose slot 0 holds that thread, with a few bytes of memory. -/
def dev : State :=
  { cycle := 100, threads := [(0, thr0)], mem := [(0x7000, 0x85#8), (0x7001, 0x42#8), (0x7007, 0x80#8)] }
/-- That device with its thread changed. -/
def having (f : Thread → Thread) : State := { dev with threads := [(0, f thr0)] }
/-- The state that an outcome gives. -/
def got (o : Host.Outcome State Fault Refusal) : State :=
  match o with
  | .next t => t
  | _ => State.reset
def run (i : Instr) (s : State) : State := got (exec i s)

/-- `State.Ready` as a test. -/
def isReady (s : State) (xs xd : List Reg) (vs : List Nat) : Bool :=
  s.thr.flight == { parcels := s.thr.flight.parcels } && !s.probing && s.thr.run == .rotating && (xs ++ xd).all (fun r => !s.thr.isEmpty r) && (xs ++ xd).all (fun r => (s.thr.strand r).isNone)
    && xs.all (fun r => !s.thr.isPoisoned r) && s.thr.sfu.all (fun q => !vs.contains q.vd.toNat)
theorem ready (s : State) (xs xd : List Reg) (vs : List Nat) (h : isReady s xs xd vs = true) : s.Ready xs xd vs := by
  simp only [isReady, Bool.and_eq_true, List.all_eq_true, beq_iff_eq, Bool.not_eq_true', Option.isNone_iff_eq_none,
    List.contains_eq_mem, decide_eq_false_iff_not] at h
  obtain ⟨⟨⟨⟨⟨⟨f, p⟩, a⟩, b⟩, c⟩, d⟩, e⟩ := h
  exact ⟨⟨f, p⟩, a, b, c, d, e⟩

/-- A translation of the first 64 MiB of context 0, with every permission. -/
def flat : TlbEnt := { ctx := 0, slot := 0, base := 0, size := 0x4000000, pte := 0x3FD, entry := 0x300000 }
/-- A thread of a level below monitor, of a party of one that holds granules 3 and 4 of its Spindle, with that translation. -/
def paged (l : Level) (f : Thread → Thread) : State :=
  { having (fun t => f { t with level := l }) with
    utlb := [(0, [flat])], spindles := [(0, {})]
    parties := [(1, { ctx := 0, rid := 0, size := 1, live := 1, cls := 0, keys := [(0, 0)], grans := [(0, [3, 4])] })] }

/-- Whether an access comes to x and leaves s. -/
def isOk {α : Type} [DecidableEq α] (a : Acc α) (x : α) (s : State) : Bool :=
  match a with
  | .ok y t => y == x && t == s
  | _ => false
theorem okOf {α : Type} [DecidableEq α] (a : Acc α) (x : α) (s : State) (h : isOk a x s = true) : a = .ok x s := by
  unfold isOk at h
  split at h
  · simp only [Bool.and_eq_true, beq_iff_eq] at h
    rw [h.1, h.2]
  · cases h

/-- The state that an access leaves, and its answer. -/
def left {α : Type} (a : Acc α) (s : State) : State :=
  match a with
  | .ok _ t => t
  | _ => s
/-- A thread whose register 6 holds p, 7 holds q and 2 holds 0x7040, beside the low registers. -/
def caller (p q : Word) : State := having (fun t => { t with x := [(2, 0x7040), (5, 5), (6, p), (7, q)] })
/-- Context 0 with every feature (R309): word 4 of its descriptor. -/
def featured (s : State) : State := { s with mem := [(36, 0x7F#8)] ++ s.mem }
/-- `State.SameThread` as a test. -/
def sameThread (s t : State) : Bool :=
  t.cur == s.cur && t.thr.x == s.thr.x && t.thr.poison == s.thr.poison && t.thr.pc == s.thr.pc
    && (t.thr.run == .rotating || t.thr.run == .access) && t.thr.rest == s.thr.rest
theorem sameThreadOf (s t : State) (h : sameThread s t = true) : s.SameThread t := by
  simp only [sameThread, Bool.and_eq_true, Bool.or_eq_true, beq_iff_eq] at h
  obtain ⟨⟨⟨⟨⟨a, b⟩, c⟩, d⟩, e⟩, f⟩ := h
  exact ⟨a, b, c, d, e, f⟩

/-! Witnesses: states and operands that meet the hypotheses of the statements. -/

theorem wit_ImmediateResults : dev.Ready [] [0] [] ∧ dev.Ready [5] [31] [] ∧ (Instr.lui 0 0x1FFFFFFFFFFFF000).wf = true ∧
    (Instr.addi 31 5 0xFFFFFE0000000000).wf = true := ⟨ready _ _ _ _ (by decide), ready _ _ _ _ (by decide), by decide, by decide⟩
theorem wit_RegisterResults : dev.Ready [5, 6] [0] [] ∧ dev.Ready [7, 7] [7] [] :=
  ⟨ready _ _ _ _ (by decide), ready _ _ _ _ (by decide)⟩
theorem wit_MulDivResults : dev.Ready [7, 0] [31] [] ∧ dev.Ready [7, 7] [7] [] :=
  ⟨ready _ _ _ _ (by decide), ready _ _ _ _ (by decide)⟩
theorem wit_BranchAndJumpResults : dev.Ready [5, 6] [] [] ∧ (Instr.beq 5 6 0x3FFFFFFFFFE).wf = true ∧ dev.thr.rx 5 ≠ dev.thr.rx 6 ∧
    dev.Ready [] [1] [] ∧ (Instr.jal 1 0xFFFFFFFFFFFFFFF0).wf = true ∧ dev.Ready [6] [6] [] ∧ (Instr.jalr 6 6 3).wf = true :=
  ⟨ready _ _ _ _ (by decide), by decide, by decide, ready _ _ _ _ (by decide), by decide, ready _ _ _ _ (by decide), by decide⟩
/-- A thread in a handler of a level, with the old level saved. -/
def inHandler (l : Level) (old : BitVec 3) : State := having (fun t => { t with level := l, sstatus := 4 + old, mstatus := 4 + old, uact := true })
theorem wit_TrapsAndReturns : ([(.user, 0), (.supervisor, 0), (.supervisor, 1), (.supervisor, 2), (.supervisor, 3), (.monitor, 0),
    (.monitor, 1), (.monitor, 2), (.monitor, 3)] : List (Level × BitVec 3)).all (fun e => isReady (inHandler e.1 e.2) [] [] [] &&
      (inHandler e.1 e.2).thr.level == e.1 && (inHandler e.1 e.2).thr.sstatus.toNat % 4 == e.2.toNat &&
      (inHandler e.1 e.2).thr.mstatus.toNat % 4 == e.2.toNat) = true := by decide
/-- A device with vectors, and class 11 delegated to user level by context 0. -/
def vectors (l : Level) : State :=
  { having (fun t => { t with level := l, utvec := 0x100 }) with
    stvec := 0x200, mtvec := 0x300, mem := [(49, 0x08#8), (0x7000, 0x85#8)] }
theorem wit_TrapEntry : (vectors .user).trapLevel (vectors .user).thr 11 false = some .user ∧
    (vectors .user).trapLevel (vectors .user).thr 15 false = some .monitor ∧
    (vectors .supervisor).trapLevel (vectors .supervisor).thr 0 false = some .supervisor ∧
    (vectors .monitor).trapLevel (vectors .monitor).thr 11 false = some .monitor ∧
    (vectors .user).stvec ≠ 0 ∧ fld (vectors .user).mtvec 2 0 = 0 := by decide
theorem wit_SourceChecks :
    opT (.add 9 5 6) = some (opAdd 9 5 6) ∧ (opAdd 9 5 6).wf = true ∧
    (having (fun t => { t with empty := 0x40 })).thr.emptyOf [5, 6, 9] = some 6 ∧
    (having (fun t => { t with empty := 0x200 })).thr.emptyOf [5, 6, 9] = some 9 ∧ dev.thr.emptyOf [5, 6, 9] = none ∧
    (having (fun t => { t with poison := 1 })).thr.isPoisoned 10 = true ∧
    (having (fun t => { t with poison := 1 })).emptyStrand [10, 6] = none ∧
    (∀ f ∈ [fun (t : Thread) => { t with empty := 0x40 }, fun t => { t with empty := 0x200 }, fun t => { t with poison := 1 }],
      (having f).AtStart) :=
  ⟨rfl, by decide, by decide, by decide, by decide, by decide, by decide, fun f hf => by
    simp only [List.mem_cons, List.not_mem_nil, or_false] at hf
    rcases hf with rfl | rfl | rfl <;> exact (ready _ [] [] [] (by decide)).1⟩
theorem wit_RegisterAndMemoryBytes : (0 : Nat) < 1 ∧ (7 : Nat) < 8 ∧ (31 : Reg) ≠ 0 ∧ (10 : Reg).toNat = 10 ∧ (13 : Reg).toNat = 13 := by
  decide
theorem wit_MemoryCanonical : dev.mem.wf = true ∧ dev.memOk := ⟨by decide, by unfold State.memOk; decide⟩
theorem wit_LoadResults : dev.Ready [6] [9] [] ∧ (Instr.lb 9 6 1).wf = true ∧ dev.lands (dev.thr.rx 6 + 1) 1 .load (.mem 0x7001) dev ∧
    dev.lands (dev.thr.rx 6 + 2) 2 .load (.mem 0x7002) dev ∧ dev.lands (dev.thr.rx 6 + 4) 4 .load (.mem 0x7004) dev ∧
    dev.lands (dev.thr.rx 6) 8 .load (.mem 0x7000) dev := ⟨ready _ _ _ _ (by decide), by decide, rfl, rfl, rfl, rfl⟩
theorem wit_StoreResults : dev.Ready [6, 7] [] [] ∧ (Instr.sd 7 6 0).wf = true ∧ dev.lands (dev.thr.rx 6 + 1) 1 .store (.mem 0x7001) dev ∧
    dev.lands (dev.thr.rx 6 + 2) 2 .store (.mem 0x7002) dev ∧ dev.lands (dev.thr.rx 6 + 4) 4 .store (.mem 0x7004) dev ∧
    dev.lands (dev.thr.rx 6) 8 .store (.mem 0x7000) dev := ⟨ready _ _ _ _ (by decide), by decide, rfl, rfl, rfl, rfl⟩

/-- A bias flip that runs on a page of the window at 0, and a thread whose x6 names a word of page 1. -/
def flipping (page : Word) : State := { having (fun t => { t with x := [(6, 0x1FF8)] }) with biascmd := 0x8000000000000000 + page }
theorem wit_ScratchpadAndMonitorAccess :
    let s := paged .supervisor (fun t => { t with x := [(6, 0x00FFFFFFFFE00000), (7, 9)] })
    s.Ready [6] [9] [] ∧ s.Ready [6, 7] [] [] ∧ s.lands (s.thr.rx 6) 8 .load (.ua 0 0xC000) s ∧
    s.lands (s.thr.rx 6 + 0x7FF8) 8 .store (.ua 0 0x13FF8) s ∧ dev.place 0x7FF8 = .mem 0x7FF8 ∧ fld 0x000BFFFFFFFFFFF8 63 52 = 0 ∧
    dev.isPoisoned 0x7FF8 8 = false ∧ (dev.cluster 0).locks = [] ∧
    dev.AtStart ∧
    ([(1, true), (2, false)] : List (Word × Bool)).all (fun e => let s := flipping e.1
      s.flipHolds (s.thr.rx 6).toNat == e.2 && s.place (s.thr.rx 6).toNat == .mem 0x1FF8 && isReady s [6] [9] []) = true :=
  ⟨ready _ _ _ _ (by decide), ready _ _ _ _ (by decide), rfl, rfl, by decide +kernel, by decide, by decide, rfl,
    (ready dev [] [] [] (by decide)).1, by decide +kernel⟩
theorem wit_AccessChecks :
    (dev.Ready [7] [9] [] ∧ fld (dev.thr.rx 7) 63 57 ≠ 0) ∧
    (let s := having (fun t => { t with x := [(6, 0x0010000000000000)] }); s.Ready [6] [9] [] ∧ fld (s.thr.rx 6) 63 52 ≠ 0) ∧
    (let s := having (fun t => { t with level := .user, x := [(6, 0x0100000000000000)] })
     s.Ready [6] [9] [] ∧ fld (s.thr.rx 6) 63 57 = 0 ∧ tbit (s.thr.rx 6) 56 = true) ∧
    (dev.Ready [6] [9] [] ∧ (dev.thr.rx 6 + 1).toNat % 8 ≠ 0 ∧ (Instr.ld 9 6 1).wf = true) :=
  ⟨⟨ready _ _ _ _ (by decide), by decide⟩, ⟨ready _ _ _ _ (by decide), by decide⟩, ⟨ready _ _ _ _ (by decide), by decide, by decide⟩,
    ready _ _ _ _ (by decide), by decide, by decide⟩
/-- Memory whose word at 0x7000 is empty. -/
def hollow : State := { dev with empties := [0x7000] }
/-- The same with a full list of waiters at its home, of another word. -/
def crowded : State := { hollow with
  clusters := [(7, { waits := List.replicate 1024 { id := 1, addr := 0x7008, op := .ldFe, key := none } })] }
theorem wit_FullEmptyOperations :
    dev.Ready [6] [9] [] ∧ dev.Ready [6, 7] [] [] ∧ dev.landsFe (dev.thr.rx 6) .load 0x7000 dev ∧
    dev.landsFe (dev.thr.rx 6) .rmw 0x7000 dev ∧ dev.isFull 0x7000 = true ∧ hollow.landsFe (hollow.thr.rx 6) .rmw 0x7000 hollow ∧
    hollow.landsFe (hollow.thr.rx 6) .load 0x7000 hollow ∧ hollow.isFull 0x7000 = false ∧
    (hollow.cluster (hollow.home 0x7000)).waits.length < 1024 ∧ crowded.home 0x7000 = 7 ∧ 1024 ≤ (crowded.cluster 7).waits.length ∧
    crowded.Ready [6] [9] [] ∧ { crowded with empties := [] }.Ready [6, 7] [] [] ∧
    crowded.resolve (feReq 0x7000 .load) = .ok (.mem 0x7000) crowded ∧
    { crowded with empties := [] }.resolve (feReq 0x7000 .rmw) = .ok (.mem 0x7000) { crowded with empties := [] } :=
  ⟨ready _ _ _ _ (by decide), ready _ _ _ _ (by decide), ⟨rfl, rfl, by decide⟩, ⟨rfl, rfl, by decide⟩, by decide,
    ⟨rfl, rfl, by decide⟩, ⟨rfl, rfl, by decide⟩, by decide, by decide, by decide, Nat.le_of_eq (List.length_replicate (n := 1024)).symm,
    ready _ _ _ _ (by decide), ready _ _ _ _ (by decide), rfl, rfl⟩
theorem wit_OrderedResults :
    dev.Ready [6] [9] [] ∧ (Instr.ldAcq 9 6 8 true).wf = true ∧ dev.landsOrd (dev.thr.rx 6) 8 .load 0x7000 dev ∧
    dev.landsOrd (dev.thr.rx 6) 4 .load 0x7000 dev ∧ dev.Ready [6, 7] [] [] ∧ (Instr.stRel 7 6 0 false).wf = true ∧
    dev.landsOrd (dev.thr.rx 6) 8 .store 0x7000 dev ∧ dev.landsOrd (dev.thr.rx 6) 4 .store 0x7000 dev ∧ dev.Ready [] [] [] ∧
    (Instr.fence 2 3).wf = true ∧ (Instr.fence 3 1).wf = true :=
  ⟨ready _ _ _ _ (by decide), by decide, rfl, rfl, ready _ _ _ _ (by decide), by decide, rfl, rfl, ready _ _ _ _ (by decide), by decide,
    by decide⟩
theorem wit_AtomicResults :
    dev.Ready [6, 7] [7] [] ∧ dev.Ready [6, 7, 5] [5] [] ∧ (Instr.amoAdd 7 7 6 8 3 true).wf = true ∧
    dev.landsOrd (dev.thr.rx 6) 8 .rmw 0x7000 dev ∧ dev.landsOrd (dev.thr.rx 6) 4 .rmw 0x7000 dev :=
  ⟨ready _ _ _ _ (by decide), ready _ _ _ _ (by decide), by decide, rfl, rfl⟩
theorem wit_DoubleCompareAndSwap :
    dev.Ready [6, 12, 13, 8, 9] [8, 9] [] ∧ (Instr.amoCas2 8 12 6 5 0).wf = true ∧ dev.landsOrd (dev.thr.rx 6) 16 .rmw 0x7000 dev ∧
    ¬(dev.rd8 0x7000 = dev.thr.rx 8) ∧
    (let s := having (fun t => { t with x := [(6, 0x7000), (8, 0x8000000000004285)] })
     s.landsOrd (s.thr.rx 6) 16 .rmw 0x7000 s ∧ s.rd8 0x7000 = s.thr.rx 8 ∧ s.rd8 0x7008 = s.thr.rx 9) :=
  ⟨ready _ _ _ _ (by decide), by decide, rfl, by decide, rfl, by decide, by decide⟩
theorem wit_CacheAndStashControl :
    (dev.Ready [6, 0] [] [] ∧ dev.Ready [6, 5] [] [] ∧ dev.Ready [6, 7] [] [] ∧ 4294967296 < (dev.thr.rx 7).toNat ∧ dev.place 0x7004 = .mem 0x7004) ∧
    (let s := paged .supervisor (fun t => { t with x := [(6, 0x8000)] })
     s.ownGrans = [3, 4] ∧ (s.ownGrans).Nodup ∧ (∀ k ∈ s.ownGrans, k < (s.spindle 0).grans.length) ∧ s.Ready [0, 5] [9] [] ∧
     s.stashOverlap 0 0 0x8000 0x8000 = false ∧ s.stashOf 0 3 = none ∧ s.mapCheck 0x8000 = .ok () s ∧ s.window 0 0 1 = none ∧
     s.Ready [6, 5] [9] []) ∧
    (let s := paged .supervisor (fun t => { t with x := [(6, 0x0100000000000000), (5, 3)] })
     s.Ready [6, 5] [9] [] ∧ tbit (s.thr.rx 6) 56 = true) :=
  ⟨⟨ready _ _ _ _ (by decide), ready _ _ _ _ (by decide), ready _ _ _ _ (by decide), by decide, by decide +kernel⟩,
    ⟨rfl, by decide, by decide, ready _ _ _ _ (by decide), by decide, by decide, rfl, by decide, ready _ _ _ _ (by decide)⟩,
    ready _ _ _ _ (by decide), by decide⟩
/-- Registers of a copy: destination, source, length. -/
def copying (n : Word) : State := having (fun t => { t with x := [(6, 0x7000), (7, 0x8000), (8, n), (9, 0)] })
theorem wit_CopyIssue :
    ([0, 1, 0x1000] : List Word).all (fun n => isReady (copying n) [6, 7, 8] [10] [] && isReady (copying n) [6, 7, 8, 9] [10] []) = true ∧
    canonCheck .monitor (ofInt 64 0x7000) 0 = none ∧ canonCheck .monitor (ofInt 64 0x7FFF) 0 = none ∧ (0x7000 + 0x1000 ≤ 0x8000) ∧
    (copying 0).cluster 0 = {} ∧ fld 0x20003 15 0 = 3 ∧ fld 0x20003 39 16 = 2 ∧ fld 0x20003 63 40 = 0 ∧
    (rowSpan 0x8000 3 2 0).meets (rowSpan 0x7000 3 2 0) = false ∧ isReady (copying 0x20003) [6, 7, 8, 9] [10] [] = true ∧
    canonCheck .monitor (ofInt 64 (rowSpan 0x8000 3 2 0).hi) 0 = none := by decide
/-- A copy engine that holds 64 copies. -/
theorem wit_CopyIssue_full : ∃ s : State, s.Ready [6, 7, 8] [10] [] ∧ (s.thr.rx 8).toNat = 1 ∧ 64 ≤ (s.cluster (ridOf s.cur)).copies.length :=
  ⟨{ copying 1 with clusters := [(0, { copies := List.replicate 64 ((copying 1).copyOf 0 0 1 .flat 0) })] },
    ready _ _ _ _ (by decide), by decide, Nat.le_of_eq (List.length_replicate (n := 64)).symm⟩
/-- A strand of eight elements at 0x7000 whose descriptor stands at 0x9000, with HEAD 0 and TAIL t; x24 is bound to it. -/
def strand (t : BitVec 8) (bound : Bool) : State :=
  { having (fun u => { u with
      x := [(6, 0x9000), (7, 77)], strands := if bound then [(24, 0x9000)] else [] }) with
    mem := [(0x7000, 0x85#8), (0x9001, 0x70#8), (0x9008, 3#8)] ++ (if t = 0 then [] else [(0x9018, t)]) }
theorem wit_StrandBindingAndOrder :
    (let s := strand 1 false
     s.Ready [6] [24] [] ∧ s.Ready [6] [9] [] ∧ s.resolve (descReq (s.thr.rx 6) .load) = .ok (.mem 0x9000) s ∧
     descBad (s.rdWords 0x9000 8) = false ∧ descBad (dev.rdWords 0x7000 8) = true ∧ s.Ready [] [24] []) ∧
    (let s := strand 1 true
     s.Ready [6] [] [] ∧ s.Ready [7] [] [] ∧ s.Ready [] [] [] ∧ s.Ready [] [9] [] ∧ s.thr.strand 24 = some 0x9000 ∧ s.ocount 0x9000 = 0 ∧
     s.strandBusy 0x9000 = false ∧ s.strandClaimed 0x9000 = false ∧ s.strandRoom 0x9000 = 0 ∧
     s.resolve (descReq 0x9000 .rmw) = .ok (.mem 0x9000) s ∧ s.rd8 0x9010 ≠ s.rd8 0x9018 ∧
     s.resolve (strandReq 0x7000 .load) = .ok (.mem 0x7000) s ∧ s.resolve (strandReq 0x7008 .store) = .ok (.mem 0x7008) s ∧
     (s.cluster (s.home 0x9000)).waits = []) ∧
    (let s := strand 0 true
     s.Ready [] [9] [] ∧ s.resolve (descReq 0x9000 .rmw) = .ok (.mem 0x9000) s ∧ s.rd8 0x9010 = s.rd8 0x9018) :=
  ⟨⟨ready _ _ _ _ (by decide), ready _ _ _ _ (by decide), rfl, by decide, by decide, ready _ _ _ _ (by decide)⟩,
   ⟨ready _ _ _ _ (by decide), ready _ _ _ _ (by decide), ready _ _ _ _ (by decide), ready _ _ _ _ (by decide), by decide, by decide,
    by decide, by decide, by decide, rfl, by decide, rfl, rfl, rfl⟩, ready _ _ _ _ (by decide), rfl, by decide⟩

/-- The registers of a cross-encoding call. -/
def callRegs : List Reg := [6, 10, 11, 12, 13, 14, 15, 16, 17]
theorem wit_CallxResults :
    (Instr.callx 1 6).wf = true ∧ ([0x8000, 0x8003, 0x8004, 0x7002, 0x8001, 0x8009] : List Word).all
      (fun p => isReady (caller p 0) callRegs [1] []) = true ∧
    fld 0x8000 2 0 = 0 ∧ fld 0x8003 1 0 = 3 ∧ tbit 0x8004 2 = true ∧ fld 0x7002 2 0 = 2 ∧ fld 0x8001 2 0 = 1 ∧ fld 0x8009 5 3 ≠ 0 ∧
    (caller 0x7002 0).lands 0x7000 8 .load (.mem 0x7000) (caller 0x7002 0) ∧ tbit ((caller 0x7002 0).rd8 0x7000) 2 = true ∧
    fld ((caller 0x7802 0).rd8 0x7800) 2 0 = 0 ∧ targetCheck .monitor ((caller 0x7802 0).rd8 0x7800) = none :=
  ⟨by decide, by decide, by decide, by decide, by decide, by decide, by decide, by decide, rfl, by decide, by decide, by decide⟩
/-- A region that holds the image at 0x8000. -/
def loaded (s : State) : State := 
  { s with regions := [(0, { ctx := some 0, image := 0x8000, nodes := [(encodeNode (.nodeRet ⟨0xFF, 3, 0xFF, 3, false, 0, false, 0⟩)).getD 0] })] }
theorem wit_CallxResults_graph : ∀ s ∈ [featured (caller 0x8001 0), loaded (featured (caller 0x8001 0))],
    s.feature s.thr.ctx 0 = true ∧ s.thr.emptyOf [2, 8] = none ∧ fld (s.thr.rx 2) 5 0 = 0 ∧ targetCheck .monitor 0x8000 = none ∧
    (∃ s', s.storeWords (s.thr.rx 2).toNat ([s.nextPc, s.thr.rx 8, 0xF, 0] ++ [10, 11, 12, 13, 14, 15, 16, 17].map s.thr.rx ++
      [0, 0, 0, 0]) = .ok () s' ∧ s.SameThread s' ∧ (s'.cluster 0).reserved = none ∧ (s'.region 0).freeTag = some 0 ∧
      ((s.region 0).holds s.thr.ctx 0x8000 = true → (s'.region 0).nodesOf 0x41 = [0])) ∧
    ((s.region 0).holds s.thr.ctx 0x8000 = true ↔ s.regions ≠ []) := by
  intro s h
  refine ⟨?_, ?_, ?_, ?_, ⟨left (s.storeWords (s.thr.rx 2).toNat ([s.nextPc, s.thr.rx 8, 0xF, 0] ++
    [10, 11, 12, 13, 14, 15, 16, 17].map s.thr.rx ++ [0, 0, 0, 0])) s, ?_, sameThreadOf _ _ ?_, ?_, ?_, ?_⟩, ?_⟩ <;>
    simp only [List.mem_cons, List.not_mem_nil, or_false] at h <;> rcases h with rfl | rfl <;>
    first | decide +kernel | exact okOf _ _ _ (by decide +kernel)
/-- Spindle 0 with every slot taken. -/
def fullSpindle : State := { caller 0x8000 0 with threads := (upto 16).map (fun i => (i, (caller 0x8000 0).thr)) }
theorem wit_SpawnResults :
    let s := caller 0x8000 0
    (Instr.spawn 9 6 7).wf = true ∧ s.Ready [6, 7, 10, 11, 12, 13, 3] [9] [] ∧ targetCheck .monitor 0x8000 = none ∧
    (s.present 0 = true ∧ s.freeSlots 0 ≠ [] ∧ s.mayServe 0 0 = true) ∧
    fullSpindle.Ready [6, 7, 10, 11, 12, 13, 3] [9] [] ∧ fullSpindle.freeSlots 0 = [] ∧ fullSpindle.Ready [] [1] [] :=
  ⟨by decide, ready _ _ _ _ (by decide), by decide, by decide +kernel, ready _ _ _ _ (by decide +kernel), by decide +kernel,
    ready _ _ _ _ (by decide +kernel)⟩
/-- A thread that calls another cluster with the record at 0x7800 of zeros. -/
def sender (n : Nat) (q : Word) : State := having (fun t => { t with inflight := n, x := [(6, 0x7800), (7, q)] })
theorem wit_RemoteCalls : ∀ n ∈ [0, 1, 2],
    let s := sender n 0
    let s' := left (s.loadWords 0x7800 8) s
    s.Ready [6, 7] [9] [] ∧ s.Ready [6, 7] [0] [] ∧ s.loadWords 0x7800 8 = .ok (List.replicate 8 0) s' ∧ s.SameThread s' ∧
    recordCheck (List.replicate 8 0) = none ∧ s'.present (s.thr.rx 7).toNat = true ∧
    s'.affTarget (s.thr.rx 7) = .ok 0 s' ∧ s'.present (s'.least 0) = true := by
  intro n h
  refine ⟨ready _ _ _ _ ?_, ready _ _ _ _ ?_, okOf _ _ _ ?_, sameThreadOf _ _ ?_, ?_, ?_, okOf _ _ _ ?_, ?_⟩ <;>
    simp only [List.mem_cons, List.not_mem_nil, or_false] at h <;> rcases h with rfl | rfl | rfl <;> decide +kernel
/-- A thread that replies to w, or launches the record at w. -/
def answering (n : Nat) (w : Word) : State := having (fun t => { t with inflight := n, x := [(6, w), (7, 9)] })
theorem wit_RemoteCalls_reply : ([(0, 0), (1, 1), (2, 1), (0, 0xFFFF0000FFE00000)] : List (Nat × Word)).all (fun e =>
    isReady (answering e.1 e.2) [6, 7] [] [] && fld e.2 47 40 == 0 && fld e.2 20 1 == 0) = true := by decide
theorem wit_RemoteCalls_launch : ∀ f ∈ [(fun t : Thread => { t with x := [(6, 0x8000)] }),
      (fun t : Thread => { t with x := [(6, 0x8000)], grants := [.done 256 0] })],
    let s := having f
    let s' := left (s.loadWords 0x8000 32) s
    s.Ready [6] [9] [] ∧ s.loadWords 0x8000 32 = .ok (List.replicate 32 0) s' ∧ s.SameThread s' ∧ (s'.die 0).launchQ = [] ∧
    lCtx (List.replicate 32 0) = s.thr.ctx ∧ s'.thr.grants = s.thr.grants := by
  intro f h
  refine ⟨ready _ _ _ _ ?_, okOf _ _ _ ?_, sameThreadOf _ _ ?_, ?_, ?_, ?_⟩ <;>
    simp only [List.mem_cons, List.not_mem_nil, or_false] at h <;> rcases h with rfl | rfl <;> decide +kernel
/-- A thread of a party of n, of which k have arrived at barrier 15, whose register 6 holds i. -/
def atBar (n k : Nat) (i : Word) (g : List Answer) : State :=
  { having (fun t => { t with x := [(6, i)], grants := g }) with
    parties := [(1, { ctx := 0, rid := 0, size := n, live := n, cls := 0, keys := [(0, 0)], arrived := [(15, k)] })] }
theorem wit_ThreadControl :
    ([(2, 0, 15), (2, 1, 15), (1, 0, 0)] : List (Nat × Nat × Word)).all (fun e => isReady (atBar e.1 e.2.1 e.2.2 []) [6] [] [] &&
      ((atBar e.1 e.2.1 e.2.2 []).party? 1).isSome && decide (e.2.2.toNat < 16)) = true ∧
    (atBar 2 1 15 [.done 0 0]).Ready [6] [] [] ∧ (atBar 2 1 16 []).Ready [6] [] [] ∧
    (having (fun t => { t with ops := [3] })).Ready [] [] [] ∧ (atBar 2 0 0 []).Ready [] [] [] ∧ (atBar 2 0 0 []).thr.ops = [] ∧
    (atBar 2 0 0 []).thr.answers = none :=
  ⟨by decide, ready _ _ _ _ (by decide), ready _ _ _ _ (by decide), ready _ _ _ _ (by decide), ready _ _ _ _ (by decide), rfl, rfl⟩
/-- A thread at a rep of one V-parcel, vadd, for n turns. -/
def repeater (n m : Word) (f : Thread → Thread) : State :=
  { having (fun t => f { t with x := [(6, n), (7, m)] }) with
    mem := [(0x200004, 0x02#8), (0x200005, 0x84#8), (0x200006, 0x20#8), (0x200007, 0x04#8)] }
theorem wit_RepetitionControl :
    ([(0, 0), (3, 7), (0x100000000, 0), (1, 8)] : List (Word × Word)).all (fun e => isReady (repeater e.1 e.2 id) [6, 7] [] []) = true ∧
    (∀ e ∈ ([(0, 0), (3, 7)] : List (Word × Word)), let s := repeater e.1 e.2 id
      let s' := left (s.repFetch s.thr.pc.toNat e.2 1) s
      s.repFetch s.thr.pc.toNat e.2 1 = .ok [0x04208402] s' ∧ s.SameThread s') ∧
    (repeater 0 0 (fun t => { t with rep := { t.rep with active := true } })).Ready [] [] [] ∧ (repeater 0 0 id).Ready [] [] [] ∧
    (repeater 0 0 (fun t => { t with rep := { t.rep with active := true, susp := 1 } })).Ready [6, 7] [] [] := by
  refine ⟨by decide, ?_, ready _ _ _ _ (by decide), ready _ _ _ _ (by decide), ready _ _ _ _ (by decide)⟩
  intro e h
  simp only [List.mem_cons, List.not_mem_nil, or_false] at h
  rcases h with rfl | rfl <;> exact ⟨okOf _ _ _ (by decide +kernel), sameThreadOf _ _ (by decide +kernel)⟩
theorem wit_SystemRegisterChecks : dev.Ready [6] [9] [] ∧ (0x800 ≤ 0xBFF ∧ (0xBFF : Nat) ≤ 0xBFF) ∧
    (having (fun t => { t with level := .user })).Ready [6] [9] [] ∧ sysAllocated 0xDFF = false ∧ sysAllocated 0x201 = true ∧
    (0x201 / 512 % 2 = 1) := ⟨ready _ _ _ _ (by decide), by decide, ready _ _ _ _ (by decide), by decide, by decide, by decide⟩
theorem wit_SystemRegisters : dev.Ready [] [9] [] ∧ dev.Ready [6] [9] [] ∧ dev.thr.strands = [] ∧
    (dev.placeMem (dev.place (dev.descAddr dev.thr.ctx 6))).isSome = true ∧ sysAllocated 0 = true ∧ sysAllocated 0xC06 = true ∧
    sysAllocated 0x433 = true ∧ (tableCtxs [0x8001, 0, 0, 0x8FFF800480038001]).length ≤ 4 ∧
    4 < (tableCtxs [0x8001800280038004, 0x8005, 0, 0]).length :=
  ⟨ready _ _ _ _ (by decide), ready _ _ _ _ (by decide), rfl, by decide +kernel, by decide, by decide, by decide, by decide +kernel,
    by decide +kernel⟩
theorem wit_InvalidationAndRetire :
    (∀ l ∈ [Level.user, .supervisor, .monitor], let s := having (fun t => { t with level := l, x := [(6, 4095), (7, 0x7000), (8, 1)] })
      s.Ready [6, 7, 8] [9] [] ∧ s.Ready [6] [9] [] ∧ s.Ready [] [9] [] ∧ s.Ready [6, 7] [9] [] ∧ (s.die 0).invs = []) ∧
    (having (fun t => { t with x := [(6, 4096)] })).Ready [6, 7, 8] [9] [] ∧ fld 0x7000 51 0 ≠ 0 ∧
    (∃ s : State, s.Ready [] [9] [] ∧ s.thr.level ≠ .user ∧ 64 ≤ (s.die (gspOf s.cur / 192)).invs.length) := by
  refine ⟨?_, ready _ _ _ _ (by decide), by decide, { dev with dies := [(0, { invs := List.replicate 64 ⟨1, none, 0, 1, none⟩ })] },
    ready _ _ _ _ (by decide), by decide, Nat.le_of_eq (List.length_replicate (n := 64)).symm⟩
  intro l h
  simp only [List.mem_cons, List.not_mem_nil, or_false] at h
  rcases h with rfl | rfl | rfl <;> exact ⟨ready _ _ _ _ (by decide), ready _ _ _ _ (by decide), ready _ _ _ _ (by decide),
    ready _ _ _ _ (by decide), rfl⟩

/-- A parcel with a scalar or v8 as second source. -/
def vp (s : Bool) (ty mask : BitVec 3) (g : VGrp) : VArgs := ⟨s, ty, mask, if s then 6 else 8, 4, 12, g⟩
theorem vready (s : State) (p : VArgs) (d : Nat) (h : isReady s (if p.s then [p.vs2] else []) []
    (vregs p.vs1 p.grp.n ++ (if p.s then [] else vregs p.vs2 p.grp.n) ++ vregs p.vd d) = true) : s.VReady p d := ready _ _ _ _ h
theorem wit_VectorIntegerResults : dev.VReady (vp false 6 0 .g4) 4 ∧ dev.VReady (vp true 3 5 .g1) 1 ∧ (Instr.vadd (vp false 6 0 .g4)).wf = true ∧
    (Instr.vsel (vp true 3 5 .g1)).wf = true ∧ (Instr.vabs { vp false 0 1 .g1 with vs2 := 0 }).wf = true ∧
    dev.VReady { vp false 0 1 .g1 with vs2 := 0 } 1 :=
  ⟨vready _ _ _ (by decide), vready _ _ _ (by decide), by decide, by decide, by decide, vready _ _ _ (by decide)⟩
theorem wit_MaskResults : dev.Ready [] [] (vregs 4 2 ++ vregs 8 2) ∧ dev.Ready [6] [] (vregs 4 1) ∧
    (Instr.vcmp 5 { vp false 2 0 .g2 with vd := 7 }).wf = true ∧ (Instr.vfcmp 7 { vp true 0 5 .g1 with vd := 0 }).wf = true ∧
    dev.Ready [] [] [] ∧ dev.Ready [] [9] [] ∧ dev.Ready [6] [] [] ∧ (Instr.vchn 5 6).wf = true ∧
    chValid 0x800000000603C090 = true ∧ chValid (dev.thr.rx 6) = false :=
  ⟨ready _ _ _ _ (by decide), ready _ _ _ _ (by decide), by decide, by decide, ready _ _ _ _ (by decide), ready _ _ _ _ (by decide),
    ready _ _ _ _ (by decide), by decide, by decide, by decide⟩
/-- A thread of a context with every feature, with a default rounding mode. -/
def rounding (m : Word) : State := featured (having (fun t => { t with vrm := m }))
theorem wit_VectorFloatResults : ([0, 3, 4, 5] : List Word).all (fun m => isReady (rounding m) [] [] (vregs 4 4 ++ vregs 8 4 ++ vregs 12 4) &&
      isReady (rounding m) [6] [] (vregs 4 1 ++ [] ++ vregs 12 1) && (rounding m).feature 0 6 && (rounding m).feature 0 3 &&
      isReady (rounding m) [] [] (vregs 4 1 ++ vregs 8 1)) = true ∧
    (Instr.vfadd (vp false 0 0 .g4)).wf = true ∧ (Instr.vfma (vp true 2 7 .g1)).wf = true ∧ fld 4 2 0 = 4 ∧ fld 5 2 0 = 5 ∧
    (Instr.vcvt ⟨13, 7, 0, 8, 4, 8, .g1⟩).wf = true ∧ (Instr.vcvt ⟨2, 4, 0, 13, 4, 8, .g1⟩).wf = true := by decide
theorem wit_ReductionResults : ([0, 4] : List Word).all (fun m => isReady (rounding m) [] [] (vregs 4 4 ++ vregs 12 1)) = true ∧
    (Instr.vredAdd { vp false 3 0 .g4 with vs2 := 0 }).wf = true ∧ (Instr.vfredAdd { vp false 2 0 .g4 with vs2 := 0 }).wf = true := by decide
theorem wit_VectorMemoryResults :
    dev.Ready [0, 6] [] (vregs 12 1) ∧ dev.Ready [6] [] (vregs 12 1 ++ vregs 4 1) ∧ (Instr.vld { vp true 2 0 .g1 with vs1 := 0 }).wf = true ∧
    (Instr.vstx (vp true 2 0 .g1)).wf = true ∧ (∀ i, i < 16 → 0x7000 + 4 * i < 0x10000000000000 ∧ (0x7000 + 4 * i) % 4 = 0 ∧
      dev.place (0x7000 + 4 * i) = .mem (0x7000 + 4 * i)) ∧ dev.place (0x7000 + dev.thr.el 4 1 32 15 * 4) = .mem 0x7000 :=
  ⟨ready _ _ _ _ (by decide), ready _ _ _ _ (by decide), by decide, by decide, by decide +kernel, by decide +kernel⟩
theorem wit_BitPlaneResults :
    let s := featured (having (fun t => { t with fmt := 0x000000000000000B }))
    s.Ready [0, 6] [] (vregs 12 4) ∧ s.feature 0 2 = true ∧ bpPlanes true 6 s.thr.fmt = some 8 ∧ bpPlanes false 6 s.thr.fmt = some 8 ∧
    s.place 0x7000 = .mem 0x7000 ∧ s.place 0x71FF = .mem 0x71FF ∧ (Instr.vldBp { vp true 6 0 .g4 with vs1 := 0 }).wf = true ∧
    (Instr.vstBp { vp true 6 0 .g4 with vs1 := 0 }).wf = true :=
  ⟨ready _ _ _ _ (by decide), by decide, by decide, by decide, by decide +kernel, by decide +kernel, by decide, by decide⟩
theorem wit_PermuteResults : dev.VReady (vp false 2 1 .g1) 1 ∧ dev.VReady (vp true 2 0 .g1) 1 ∧ dev.Ready [] [12] (vregs 4 1) ∧
    dev.Ready [6] [12] (vregs 4 1) :=
  ⟨vready _ _ _ (by decide), vready _ _ _ (by decide), ready _ _ _ _ (by decide), ready _ _ _ _ (by decide)⟩
/-- A thread whose k5 holds the chain of R172's example, with a default rounding mode. -/
def chained (m : Word) : State := featured (having (fun t => { t with vrm := m, k := [(4, 0x7000), (5, 0x800000000603C090)] }))
theorem wit_ChainAndFunctionResults : ([0, 4] : List Word).all (fun m => isReady (chained m) [] [] (vregs 4 1 ++ vregs 8 1 ++ vregs 12 1) &&
      (chained m).feature 0 6 && chValid ((chained m).thr.rk 5) && !chValid ((chained m).thr.rk 4) &&
      isReady (chained m) [] [] (vregs 4 1 ++ vregs 12 1)) = true ∧ (Instr.vx (vp false 0 5 .g1)).wf = true ∧
    (Instr.vexp2 { vp false 0 1 .g1 with vs2 := 0 }).wf = true := by decide

/-- A running command of context 0 on Spindle 0 whose turn ends at cycle 50, by the line's first six words. -/
def cmdOf (ws : List Word) (st : CmdSt) : Cmd :=
  { id := 7, line := ws ++ [0, 0x9000], fmt := 0, sca0 := 0, sca1 := 0, sca2 := 0, sca3 := 0, party := 1, rng := [], level := .supervisor
    st := st, started := st == .running, ends := if st = .running then 50 else 0 }
/-- A device with it at the head of its queue, a slot table that names context 0, and its tiles in the unit. -/
def cmdDev (kind : Nat) (ws : List Word) (st : CmdSt) : State :=
  { featured (paged .supervisor id) with
    curCmd := (0, 0, kind)
    spindles := [(0, { queue := [(kind, [cmdOf ws st])], tiles := [0], plyslot := [0x8000, 0, 0, 0] })] }
/-- Legal lines of each command: tiles 0 and 3, i8 and bf16 operands, the worked command of R244. -/
def cmdLines : List (Nat × List Word) := [
  (0, [0x0000000000000101, 0, 0, 0, 0, 3]), (0, [0x0000000000000108, 0, 0, 0, 0, 0]),
  (1, [0x0000000000000128, 0, 0, 0, 0, 0]),
  (0, [0x0000000000010102, 0, 0x00400100, 0x1000, 0x00400100, 0x0001000208000000]),
  (0, [0x0000000000010103, 0, 0x00400500, 0x1000, 0x00400500, 0x0001000208000000]),
  (0, [0x0000000004010104, 0, 0x00400100, 0x1000, 0x02000B02, 0x0001000208000000]),
  (0, [0x0000000000000105, 0, 0x00400800, 0, 0, 0x0000000208000000]),
  (0, [0x0000000000000106, 0, 0x00400800, 0, 0, 0x0000000208000000]),
  (0, [0x0000000000000107, 0, 0x00400100, 0x1000, 0x00400100, 0x0000000208000000]),
  (1, [0x0000000000010121, 0, 0x00400100, 0x10000, 0x0000020000000100, 0x0001000208000000]),
  (1, [0x0000000004010122, 0, 0x00400100, 0x10000, 0x0000020000000B00, 0x0001000208000000])]
/-- `State.TurnEnds` as a test. -/
def isTurnEnds (s : State) (g ctx kind : Nat) (c : Cmd) : Bool :=
  s.curCmd == (g, ctx, kind) && decide (ctx < 4096) && (s.spindle g).head ctx kind == some c && c.st == .running &&
    decide (c.fail = none ∧ s.stripeBad c c.job = false) && decide (0 < c.ends ∧ c.ends ≤ s.cycle) && c.job.legal && decide (s.cmdGrans g c.party).Nodup
theorem turnEnds (s : State) (g ctx kind : Nat) (c : Cmd) (h : isTurnEnds s g ctx kind c = true) : s.TurnEnds g ctx kind c := by
  simp only [isTurnEnds, Bool.and_eq_true, beq_iff_eq, decide_eq_true_eq] at h
  obtain ⟨⟨⟨⟨⟨⟨⟨a, b⟩, c⟩, d⟩, k⟩, e⟩, f⟩, g⟩ := h
  exact ⟨a, b, c, d, k, e, f, g⟩
theorem wit_CommandResults : ∀ e ∈ cmdLines, (cmdDev e.1 e.2 .running).TurnEnds 0 0 e.1 (cmdOf e.2 .running) ∧
    (decodeCommand e.1 (cmdOf e.2 .running).line).isSome = true := by
  intro e h
  refine ⟨turnEnds _ _ _ _ _ ?_, ?_⟩ <;> revert e <;> decide +kernel
theorem wit_CommandStores : ∀ e ∈ cmdLines.filter (fun e => fld (e.2.getD 0 0) 7 0 == 6 || fld (e.2.getD 0 0) 7 0 == 7),
    (cmdOf e.2 .running).job.c.a.off + (cmdOf e.2 .running).job.spanA ≤ 16384 * ((cmdDev e.1 e.2 .running).cmdGrans 0 1).length ∧
    (cmdOf e.2 .running).job.c.b.off + (cmdOf e.2 .running).job.spanB ≤ 16384 * ((cmdDev e.1 e.2 .running).cmdGrans 0 1).length := by
  decide +kernel
theorem wit_CommandChecks : ∀ e ∈ cmdLines.take 9, let s := cmdDev e.1 e.2 .waiting
    let c := cmdOf e.2 .waiting
    s.curCmd = (0, 0, e.1) ∧ (s.spindle 0).head 0 e.1 = some c ∧ s.cmdReady 0 0 e.1 = true ∧ (decodeCommand e.1 c.line).isSome = true ∧
    s.cmdCheck 0 0 e.1 c c.job = none ∧ c.fail = none ∧
    s.scaleCheck 0 0 c c.job.scaleBytes = none ∧ c.job.scaleBytes = [] ∧ (s.spindle 0).unit = none := by decide +kernel
/-- A plane base off its alignment, one past the granules, and a reserved dimension. -/
theorem wit_CommandChecks_fail : ∀ e ∈ ([([0x0000000000010102, 8, 0x00400100, 0x1000, 0x00400100, 0x0001000208000000], 4),
      ([0x0000000000010102, 0x8000, 0x00400100, 0x1000, 0x00400100, 0x0001000208000000], 2),
      ([0x0000000000010102, 0, 0x00400100, 0x1000, 0x00400100, 0x0001000208000004], 1)] : List (List Word × Nat)),
    let s := cmdDev 0 e.1 .queued
    s.cmdReady 0 0 0 = true ∧ s.cmdCheck 0 0 0 (cmdOf e.1 .queued) (cmdOf e.1 .queued).job = some e.2 := by decide +kernel
/-- A scale byte in the window; and a near-bank command whose matrix is not bank-resident, and one whose matrix is. -/
theorem wit_CommandChecks_pages :
    (∀ ws ∈ [(cmdLines.getD 7 (0, [])).2], let c := { cmdOf ws .waiting with sca2 := 0x00FFFFFFFFE00000 }
      (cmdDev 0 ws .waiting).cmdCheck 0 0 0 c c.job = none ∧
      (cmdDev 0 ws .waiting).scaleCheck 0 0 c c.job.scaleBytes = some (.stop 3)) ∧
    ∀ e ∈ cmdLines.drop 9, let c := cmdOf e.2 .waiting
      let s := cmdDev e.1 e.2 .waiting
      let t : State := { s with dies := [(0, { tlb := [{ flat with pte := 0x7FD }] })] }
      c.job.isNbm = true ∧ s.cmdCheck 0 0 1 c c.job = none ∧ s.scaleCheck 0 0 c c.job.scaleBytes = none ∧
      s.matPages 0 0 c c.job = none ∧ t.cmdCheck 0 0 1 c c.job = none ∧ t.cmdReady 0 0 1 = true ∧
      t.matPages 0 0 c c.job = some [(0, 0x4000000, 0)] := by
  refine ⟨?_, ?_⟩ <;> decide +kernel

/-! Graph statements. -/

/-- A node word with consumers A and none, for its class, IMMB and IMM. -/
def gnode (ca : BitVec 8) (cls : BitVec 2) (immb : Bool) (imm : BitVec 32) : NodeWord := ⟨ca, 0, 0xFF, 3, false, cls, immb, imm⟩
/-- Region 0 whose configuration 0 holds a node, a mul, a ret and a dadd; frame 0 is live and has a cut record; the tokens stand at the node by port,
class and payload; port 0 and the cluster hold a translation. -/
def graph (opc : Nat) (n : NodeWord) (ts : List (BitVec 2 × BitVec 2 × Word)) : State :=
  { dev with
    curNode := (0, 0, 0), clusters := [(0, { tlb := [flat] })]
    regions := [(0, {
      ctx := some 0, header := [0x30001, 0, 0x300], ranges := [(0, [flat])], frames := [(0, { st := .live, cut := 0x8000, allot := 512 })]
      nodes := [encNode opc n, encNode 0x03 (gnode 0xFF 0 false 0), encNode 0x41 (gnode 0xFF 0 false 16),
        encNode 0x18 (gnode 0xFF 1 false 0)]
      toks := ts.map (fun t => { pay := t.2.2, cls := t.2.1, port := t.1, node := 0, tag := 0 }) })] }
/-- That region, or its frame, changed. -/
def ofReg (s : State) (f : Region → Region) : State := s.onRegion 0 f
def ofFrm (s : State) (f : Frame → Frame) : State := s.onFrm f
def words : List (BitVec 2 × BitVec 2 × Word) := [(0, 0, 5), (1, 0, 3), (2, 0, 1)]
/-- `State.NodeTurn` and `State.Accepts` as tests. -/
def isNodeTurn (s : State) (n : NodeWord) : Bool :=
  s.nodeMay && !s.reg.busy.contains (s.reg.tileOf s.nodeIx)
    && s.reg.toks.all (fun t => !(t.tag == s.tag && t.node.toNat == s.nodeIx) || t.cls != 2 || n.cls == 2)
    && (s.reg.nodesOf 0x41).any (fun i => i != s.nodeIx && !s.frm.rets.contains i)
theorem nodeTurn (s : State) (n : NodeWord) (h : isNodeTurn s n = true) : s.NodeTurn n := by
  simp only [isNodeTurn, Bool.and_eq_true, List.all_eq_true, List.any_eq_true, Bool.or_eq_true, Bool.not_eq_true',
    Bool.and_eq_false_iff, beq_eq_false_iff_ne, bne_iff_ne, beq_iff_eq, List.contains_eq_mem, decide_eq_false_iff_not] at h
  obtain ⟨⟨⟨a, k⟩, b⟩, i, hi, c, d⟩ := h
  refine ⟨a, k, fun t ht h1 h2 => ?_, i, hi, c, d⟩
  rcases b t ht with (h | h) | h
  · rcases h with h | h
    · exact absurd h1 h
    · exact absurd h2 h
  · exact Or.inl h
  · exact Or.inr h
def isAccepts (s : State) (cls : BitVec 2) (d : Nat × Nat) : Bool :=
  noConsumer d || ((s.reg.here d.1 && (s.reg.taken.isEmpty || s.reg.target != some (s.reg.cfgOf s.nodeIx) ||
      s.reg.cfgOf d.1 != s.reg.rpc)) && match s.reg.node d.1 with
    | some (o, m) => (match (dataPorts o m).find? (fun p => p.1 == d.2) with
      | some (p, c) => p == d.2 && (cls == 2 || c == cls.toNat)
      | none => false)
    | none => false)
theorem acceptsOf (s : State) (cls : BitVec 2) (d : Nat × Nat) (h : isAccepts s cls d = true) : s.Accepts cls d := by
  unfold isAccepts at h
  rcases Bool.or_eq_true _ _ ▸ h with h | h
  · exact Or.inl h
  · right
    simp only [Bool.and_eq_true, Bool.or_eq_true, List.isEmpty_iff, bne_iff_ne] at h
    refine ⟨h.1.1, or_assoc.mp h.1.2, ?_⟩
    have h := h.2
    split at h
    · next o m e =>
      split at h
      · next p c e2 =>
        simp only [Bool.and_eq_true, Bool.or_eq_true, beq_iff_eq] at h
        exact ⟨o, m, c, e, h.1 ▸ e2, h.2⟩
      · cases h
    · cases h

/-- Nodes of words: opcode, variant, IMMB, and the ports. -/
def wordNodes : List (Nat × BitVec 32 × Bool) :=
  [0x01, 0x02, 0x03, 0x06, 0x07, 0x08, 0x09, 0x0A, 0x0B, 0x10, 0x11, 0x14, 0x15, 0x04, 0x05, 0x0C, 0x0E, 0x0F].map (fun o => (o, 0, false)) ++
  [0x01, 0x02, 0x03, 0x06, 0x07, 0x08, 0x09, 0x0A, 0x0B, 0x10, 0x11, 0x14, 0x15].map (fun o => (o, 0xFFF003, true)) ++
  [(0x04, 1, true), (0x04, 2, false), (0x05, 1, false), (0x05, 2, true), (0x05, 3, false), (0x0C, 1, false), (0x0C, 2, true),
    (0x0C, 3, false), (0x0C, 4, false), (0x0C, 5, true), (0x0E, 1, true), (0x0F, 1, true)].map
      (fun (e : Nat × BitVec 32 × Bool) => (e.1, e.2.1 * 0x1000000 + (if e.2.2 then 7 else 0), e.2.2)) ++
  [(0x0D, 0, false), (0x0D, 5, true), (0x12, 0, false), (0x12, 5, true), (0x13, 0x28000000, false), (0x13, 0xB2600000, false)]
theorem wit_WordNodeResults : ∀ e ∈ wordNodes, let n := gnode 1 0 e.2.2 e.2.1
    let s := graph e.1 n (if e.2.2 then [(0, 0, 5), (2, 0, 1)] else words)
    s.NodeTurn n ∧ (∀ d ∈ abOf n, s.Accepts 0 d) ∧ ((decodeNode (encNode e.1 n)).map (·.wf)) = some true ∧
    s.head 0 0 = .data [5] ∧ (e.2.2 = false → s.head 1 0 = .data [3]) ∧ s.head 2 0 = .data [1] := by
  intro e h
  refine ⟨nodeTurn _ _ ?_, fun d hd => acceptsOf _ _ _ ?_, ?_⟩
  · revert e; decide +kernel
  · revert d; revert e; decide +kernel
  · revert e; decide +kernel

/-- The node of an opcode word is well-formed. -/
def nodeWf (opc : Nat) (n : NodeWord) : Bool := (decodeNode (encNode opc n)).any (·.wf)
/-- A digit number as tokens at a port. -/
def num (p : BitVec 2) (d : DNum) : List (BitVec 2 × BitVec 2 × Word) := (DNum.groups d).map (fun w => (p, 1, w))
def dA : DNum := { e := 3, ds := [1, 0, -1] }
def dB : DNum := { e := 5, ds := List.replicate 30 1 }
theorem wit_StreamNodeResults_digits : ∀ e ∈ ([(0x18, 3), (0x19, 3), (0x1A, 1), (0x1B, 1)] : List (Nat × BitVec 8)),
    let n := gnode e.2 1 false 0
    let s := graph e.1 n (num 0 dA ++ num 1 dB)
    s.NodeTurn n ∧ (∀ d ∈ abOf n, s.Accepts (if e.2 = 3 then 1 else 0) d) ∧ nodeWf e.1 n = true ∧
    s.head 0 1 = .data (DNum.groups dA) ∧ s.head 1 1 = .data (DNum.groups dB) ∧ (DNum.groups dB).length = 2 ∧
    dnumOf (DNum.groups dA) = dA ∧ dnumOf (DNum.groups dB) = dB := by
  intro e h
  refine ⟨nodeTurn _ _ ?_, fun d hd => acceptsOf _ _ _ ?_, ?_⟩
  · revert e; decide +kernel
  · revert d; revert e; decide +kernel
  · revert e; decide +kernel
/-- wtod at both ends of its count, wsplit and wjoin of every width, drop, end of a stream of words. -/
theorem wit_StreamNodeResults_words : ∀ e ∈ ([(0x1C, 1, 3, 1), (0x1C, 64, 3, 1), (0x28, 0, 1, 0), (0x28, 2, 1, 0), (0x29, 0, 1, 0),
      (0x29, 2, 1, 0), (0x26, 0, 1, 0)] : List (Nat × BitVec 32 × BitVec 8 × BitVec 2)),
    let n := gnode e.2.2.1 0 false e.2.1
    let s := graph e.1 n words
    s.NodeTurn n ∧ (∀ d ∈ abOf n, s.Accepts e.2.2.2 d) ∧ nodeWf e.1 n = true ∧ s.head 0 0 = .data [5] := by
  intro e h
  refine ⟨nodeTurn _ _ ?_, fun d hd => acceptsOf _ _ _ ?_, ?_⟩
  · revert e; decide +kernel
  · revert d; revert e; decide +kernel
  · revert e; decide +kernel
/-- The last piece of a wjoin of 16-bit pieces. -/
theorem wit_StreamNodeResults_join : ∀ n ∈ [gnode 1 0 false 1],
    let s := ofFrm (graph 0x29 n words) (fun f => { f with nst := [(0, [1, 2, 3])] })
    s.NodeTurn n ∧ (s.nst ++ [5]).length * (32 / 2 ^ n.imm.toNat) = 64 ∧ s.nst.all (fun p => decide (p.toNat < 65536)) = true := by
  intro n h
  refine ⟨nodeTurn _ _ ?_, ?_⟩ <;> revert n <;> decide +kernel
/-- Words and digits through fan, gate, steer, join and merge. -/
theorem wit_StreamNodeResults_pass : ∀ e ∈ ([(0x22, 0x1004), (0x22, 0xFFFFF), (0x23, 0), (0x20, 0), (0x24, 2), (0x21, 0)] :
      List (Nat × BitVec 32)), let n := gnode 1 0 false e.2
    let s := graph e.1 n words
    s.NodeTurn n ∧ (∀ d ∈ abOf n ++ [(n.imm.toNat / 4 % 256, n.imm.toNat % 4), (n.imm.toNat / 4096 % 256, n.imm.toNat / 1024 % 4)],
      e.1 = 0x22 ∨ d ∈ abOf n → s.Accepts 0 d) ∧
    nodeWf e.1 n = true ∧ s.head 0 0 = .data [5] ∧ s.head 1 0 = .data [3] ∧ s.head 2 0 = .data [1] ∧ s.cnt 5 < 2 := by
  intro e h
  refine ⟨nodeTurn _ _ ?_, fun d hd hh => acceptsOf _ _ _ ?_, ?_⟩
  · revert e; decide +kernel
  · revert d; revert e; decide +kernel
  · revert e; decide +kernel
theorem wit_StreamNodeResults_good : ∀ n ∈ [gnode 3 1 false 0], let s := graph 0x23 n (num 0 dA ++ [(1, 0, 1)])
    s.NodeTurn n ∧ (∀ d ∈ abOf n, s.Accepts 1 d) ∧ nodeWf 0x23 n = true ∧ s.head 0 1 = .data (DNum.groups dA) ∧
    (DNum.groups dA).all (fun p => !digMalformed p && !digReserved p) = true ∧ s.head 1 0 = .data [1] := by
  intro n h
  refine ⟨nodeTurn _ _ ?_, fun d hd => acceptsOf _ _ _ ?_, ?_⟩
  · revert n; decide +kernel
  · revert d; revert n; decide +kernel
  · revert n; decide +kernel
/-- iter at its start, inside, and at its end. -/
theorem wit_StreamNodeResults_iter : let n := gnode 1 0 false 0x02FFFFFF
    ∀ e ∈ ([(words, [], 5, 3, 0), (words, [2, 5, 3], 5, 3, 2), (words, [3, 5, 3], 5, 3, 3)] :
      List (List (BitVec 2 × BitVec 2 × Word) × List Word × Word × Word × Word)),
    let s := ofFrm (graph 0x25 n e.1) (fun f => { f with nst := if e.2.1 = [] then [] else [(0, e.2.1)] })
    s.NodeTurn n ∧ nodeWf 0x25 n = true ∧
    ((s.nst = [] ∧ s.head 0 0 = .data [e.2.2.1] ∧ s.head 1 0 = .data [e.2.2.2.1]) ∨ s.nst = [e.2.2.2.2, e.2.2.1, e.2.2.2.1]) := by
  intro n e h
  refine ⟨nodeTurn _ _ ?_, ?_⟩ <;> revert e <;> decide +kernel

/-- Whether an access lands on memory, and where; whether an action is done. -/
def isMem (a : Acc Loc) : Bool :=
  match a with
  | .ok (.mem _) _ => true
  | _ => false
def memLoc (a : Acc Loc) : Nat :=
  match a with
  | .ok (.mem o) _ => o
  | _ => 0
theorem memOf (a : Acc Loc) (h : isMem a = true) : a = .ok (.mem (memLoc a)) (left a State.reset) := by
  unfold isMem at h
  split at h
  · rfl
  · cases h
def isDone (a : Acc Unit) : Bool :=
  match a with
  | .ok _ _ => true
  | _ => false
theorem doneOf (a : Acc Unit) (h : isDone a = true) : a = .ok () (left a State.reset) := by
  unfold isDone at h
  split at h
  · rfl
  · cases h
/-- The state that an access or an action leaves. -/
def after {α : Type} (a : Acc α) : State := left a State.reset

/-- ldp: a word of 8 bytes, and a signed byte. -/
theorem wit_MemoryNodeResults_ldp : ∀ e ∈ ([(0x30, 8), (0x40, 1)] : List (BitVec 32 × Nat)), let n := gnode 1 0 false e.1
    let s := graph 0x31 n [(0, 0, 0x7000)]
    let a := (s.took [(0, 1)]).nodeAt (.port 0 0) { va := 0x7000, n := e.2, al := e.2, k := .load, plain := decide (e.2 = 8) }
    s.NodeTurn n ∧ (∀ d ∈ abOf n, s.Accepts 0 d) ∧ nodeWf 0x31 n = true ∧ s.head 0 0 = .data [0x7000] ∧ a = .ok (.mem (memLoc a)) (after a) := by
  intro e h
  refine ⟨nodeTurn _ _ ?_, fun d hd => acceptsOf _ _ _ ?_, ?_, ?_, memOf _ ?_⟩
  · revert e; decide +kernel
  · revert d; revert e; decide +kernel
  all_goals revert e; decide +kernel
/-- ldp of digits: two planes of element 5, and eight. -/
theorem wit_MemoryNodeResults_digits : ∀ e ∈ ([(0x2100, 2), (0, 8)] : List (BitVec 32 × Nat)), let n := gnode 3 1 false e.1
    let s := graph 0x31 n [(0, 0, 0x7000), (1, 0, 5)]
    s.NodeTurn n ∧ (∀ d ∈ abOf n, s.Accepts 1 d) ∧ nodeWf 0x31 n = true ∧ s.head 0 0 = .data [0x7000] ∧ s.head 1 0 = .data [5] ∧
    (match Acc.each (fun j s => s.portLoad 0 (0x7000 + 64 * j + 0) 1 1) (upto e.2) (s.took [(0, 1), (1, 1)]) with
      | .ok ds _ => ds.length = e.2
      | _ => False) := by
  intro e h
  refine ⟨nodeTurn _ _ ?_, fun d hd => acceptsOf _ _ _ ?_, ?_, ?_, ?_, ?_⟩
  · revert e; decide +kernel
  · revert d; revert e; decide +kernel
  · revert e; decide +kernel
  · revert e; decide +kernel
  · revert e; decide +kernel
  · simp only [List.mem_cons, List.not_mem_nil, or_false] at h
    rcases h with rfl | rfl <;> rfl
theorem wit_MemoryNodeResults_stp : ∀ n ∈ [gnode 1 0 false 0x20], let s := graph 0x32 n [(0, 0, 0x7000), (1, 0, 3)]
    let a := (s.took []).nodeAt (.port 0 0) { va := 0x7000, n := 4, al := 4, k := .store, plain := false }
    s.NodeTurn n ∧ (∀ d ∈ abOf n, s.Accepts 0 d) ∧ nodeWf 0x32 n = true ∧ s.head 0 0 = .data [0x7000] ∧ s.head 1 0 = .data [3] ∧
    a = .ok (.mem (memLoc a)) (after a) ∧ s.reg.stores.getD [] 0 = [] := by
  intro e h
  refine ⟨nodeTurn _ _ ?_, fun d hd => acceptsOf _ _ _ ?_, ?_, ?_, ?_, memOf _ ?_, ?_⟩
  · revert e; decide +kernel
  · revert d; revert e; decide +kernel
  all_goals revert e; decide +kernel
/-- ldl at its start, inside, and at a null pointer. -/
theorem wit_MemoryNodeResults_ldl : ∀ e ∈ ([(0, 0x7000, []), (1, 0x7000, [1, 4]), (1, 0x7008, [1, 4])] : List (BitVec 2 × Word × List Word)),
    let n := gnode 1 0 false 0x100
    let s := ofFrm (graph 0x33 n [(e.1, 0, e.2.1)]) (fun f => { f with nst := if e.2.2 = [] then [] else [(0, e.2.2)] })
    let a := (s.pop e.1.toNat 1).nodeAt (.port 0 0) { va := e.2.1.toNat, n := 8, al := 8, k := .load }
    s.NodeTurn n ∧ (∀ d ∈ abOf n, s.Accepts 0 d) ∧ nodeWf 0x33 n = true ∧ s.head e.1.toNat 0 = .data [e.2.1] ∧ s.nst = e.2.2 ∧
    a = .ok (.mem (memLoc a)) (after a) ∧ (decide ((after a).rd (memLoc a) 8 = 0) = decide (e.2.1 = 0x7008)) := by
  intro e h
  refine ⟨nodeTurn _ _ ?_, fun d hd => acceptsOf _ _ _ ?_, ?_, ?_, ?_, memOf _ ?_, ?_⟩
  · revert e; decide +kernel
  · revert d; revert e; decide +kernel
  all_goals revert e; decide +kernel
/-- ag of one and of two dimensions: inside, at the end of a row, and at the end. -/
theorem wit_MemoryNodeResults_ag : ∀ e ∈ ([(0x00080000, []), (0x00080000, [0, 3, 5]), (0x00080100, []), (0x00080100, [0, 3, 5]), (0x00080100, [2, 0, 5])] :
      List (BitVec 32 × List Word)), let n := gnode 1 0 false e.1
    let s := ofFrm (graph 0x30 n [(0, 0, 5), (1, 0, 3), (2, 0, 0x200000040)]) (fun f => { f with nst := if e.2 = [] then [] else [(0, e.2)] })
    s.NodeTurn n ∧ (∀ d ∈ abOf n, s.Accepts 0 d) ∧ nodeWf 0x30 n = true ∧ s.reg.draining = false ∧ s.nst = e.2 ∧
    s.head 0 0 = .data [5] ∧ s.head 1 0 = .data [3] ∧ s.head 2 0 = .data [0x200000040] := by
  intro e h
  refine ⟨nodeTurn _ _ ?_, fun d hd => acceptsOf _ _ _ ?_, ?_⟩
  · revert e; decide +kernel
  · revert d; revert e; decide +kernel
  · revert e; decide +kernel
/-- atom: an add of 8 bytes and a compare and swap of 4. -/
theorem wit_MemoryNodeResults_atom : ∀ e ∈ ([(0x100, 8, 0, [(0, 1), (1, 1)]), (0x90, 4, 9, [(0, 1), (1, 1), (2, 1)])] :
      List (BitVec 32 × Nat × Nat × List (Nat × Nat))), let n := gnode 1 0 false e.1
    let s := graph 0x34 n [(0, 0, 0x7000), (1, 0, 3), (2, 0, 1)]
    let a := (s.took e.2.2.2).nodeAt (.port 0 0) { va := 0x7000, n := e.2.1, al := e.2.1, k := .rmw, plain := false }
    let u := after a
    let old := u.rd (memLoc a) e.2.1
    let r : Word := if n.imm.getLsbD 8 then BitVec.ofNat 64 old else sextW 32 old
    let y := ((u.memStore (memLoc a) (toBytes e.2.1 (amoNew e.2.2.1 (8 * e.2.1) old 3 1))).homeTakes (memLoc a)).emit 0 [r] (abOf n) [0, 1]
    let z := (after y).cut 0 (tagIdx s.tag)
    s.NodeTurn n ∧ (∀ d ∈ abOf n, s.Accepts 0 d) ∧ nodeWf 0x34 n = true ∧ s.reg.buffered s.tag = [] ∧ s.head 0 0 = .data [0x7000] ∧
    s.head 1 0 = .data [3] ∧ s.head 2 0 = .data [1] ∧ a = .ok (.mem (memLoc a)) u ∧ y = .ok () (after y) ∧ z = .ok () (after z) ∧
    (after z).reg.runs s.tag = true := by
  intro e h
  refine ⟨nodeTurn _ _ ?_, fun d hd => acceptsOf _ _ _ ?_, ?_, ?_, ?_, ?_, ?_, memOf _ ?_, doneOf _ ?_, doneOf _ ?_, ?_⟩
  · revert e; decide +kernel
  · revert d; revert e; decide +kernel
  all_goals revert e; decide +kernel
/-- A fence after a buffered store. -/
theorem wit_MemoryNodeResults_fence : ∀ n ∈ [gnode 1 0 false 0x10],
    let s := ofReg (graph 0x35 n words) (fun r => { r with stores := [(0, [{ node := 2, tag := 0, addr := 0x7000, data := [7] }])] })
    let a := (s.took [(0, 1)]).commit s.rid s.tag
    s.NodeTurn n ∧ (∀ d ∈ abOf n, s.Accepts 0 d) ∧ nodeWf 0x35 n = true ∧ s.head 0 0 = .data [5] ∧ a = .ok () (after a) := by
  intro e h
  refine ⟨nodeTurn _ _ ?_, fun d hd => acceptsOf _ _ _ ?_, ?_, ?_, doneOf _ ?_⟩
  · revert e; decide +kernel
  · revert d; revert e; decide +kernel
  all_goals revert e; decide +kernel

/-- The operation of a node, by its opcode word. -/
def nodeOpOf (opc : Nat) (n : NodeWord) : NOp :=
  match (decodeNode (encNode opc n)).bind opNode with
  | some o => o
  | none => { opc := opc, n := n, act := fun s => .ok () s }
/-- Each control token at the one data port of an fcvt. -/
theorem wit_ControlTokens_single : ∀ v ∈ ([1, 2, 3, 4, 5] : List Nat), let n := gnode 1 0 false 0x28000000
    let o := nodeOpOf 0x13 n
    let s := graph 0x13 n [(0, 2, BitVec.ofNat 64 v)]
    ((decodeNode (encNode 0x13 n)).bind opNode).isSome = true ∧ o.raw = false ∧ (o.more s).isNone = true ∧ s.nodeMay = true ∧ s.reg.tileOf s.nodeIx ∉ s.reg.busy ∧
    s.reg.nodesOf 0x41 = [2] ∧ s.frm.rets = [] ∧ (∀ d ∈ o.dsts, s.Accepts 2 d) ∧ o.ports = [(0, 0)] ∧
    s.head 0 0 = .ctl (BitVec.ofNat 64 v) ∧ ctlCode (BitVec.ofNat 64 v) = v ∧ o.own = false ∧ s.nst = [] := by
  intro v h
  refine ⟨?_, ?_, ?_, ?_, ?_, ?_, ?_, fun d hd => acceptsOf _ _ _ ?_, ?_⟩
  case refine_8 => revert d; revert v; decide +kernel
  all_goals revert v; decide +kernel
/-- ENDs at both ports of an add: of one level, and of two levels at a node that is not strict and at one that is. -/
theorem wit_ControlTokens_ends : ∀ e ∈ ([(0x101, false), (0x201, false), (0x201, true)] : List (Nat × Bool)),
    let n := { gnode 1 0 false 0 with strict := e.2 }
    let o := nodeOpOf 0x01 n
    let s := graph 0x01 n [(0, 2, 0x101), (1, 2, BitVec.ofNat 64 e.1)]
    ((decodeNode (encNode 0x01 n)).bind opNode).isSome = true ∧ o.raw = false ∧ (o.more s).isNone = true ∧ s.nodeMay = true ∧ s.reg.tileOf s.nodeIx ∉ s.reg.busy ∧
    s.reg.nodesOf 0x41 = [2] ∧ s.frm.rets = [] ∧ (∀ d ∈ o.dsts, s.Accepts 2 d) ∧ o.ports = [(0, 0), (1, 0)] ∧ o.own = false ∧
    (o.reset s).isNone = true ∧ (reqPorts o.opc o.n).map (fun p => s.head p (o.cls p)) = [Item.ctl 0x101, Item.ctl (BitVec.ofNat 64 e.1)] ∧
    ctlCode 0x101 = 1 ∧ ctlCode (BitVec.ofNat 64 e.1) = 1 ∧ o.n.strict = e.2 ∧ (e.2 = true →
      s.frameFault 0 0 (some 0) ⟨8, 2, 0, false, 0⟩ = .ok () (after (s.frameFault 0 0 (some 0) ⟨8, 2, 0, false, 0⟩))) := by
  intro e h
  refine ⟨?_, ?_, ?_, ?_, ?_, ?_, ?_, fun d hd => acceptsOf _ _ _ ?_, ?_, ?_, ?_, ?_, ?_, ?_, ?_, fun _ => doneOf _ ?_⟩
  case refine_8 => revert d; revert e; decide +kernel
  all_goals revert e; decide +kernel
/-- Accumulators of every operation at their first value, and at the value that completes a stream of two. -/
theorem wit_AccumulatorAndControlResults_acc : ∀ k ∈ upto 9, ∀ b ∈ [false, true],
    let n := gnode 1 0 false (BitVec.ofNat 32 (k * 0x10000000 + 1))
    let s := ofFrm (graph 0x38 n words) (fun f => { f with nst := if b then [(0, [7, 1, 1, 2, 0])] else [] })
    s.NodeTurn n ∧ (∀ d ∈ abOf n, s.Accepts 0 d) ∧ nodeWf 0x38 n = true ∧ s.head 0 0 = .data [5] ∧
    s.nst = (if b then [7] ++ [1, 1, 2, 0] else []) := by
  intro k h b hb
  refine ⟨nodeTurn _ _ ?_, fun d hd => acceptsOf _ _ _ ?_, ?_, ?_, ?_⟩
  case refine_2 => revert d; revert b; revert k; decide +kernel
  all_goals revert b; revert k; decide +kernel
theorem wit_AccumulatorAndControlResults_accx : ∀ b ∈ [false, true], let n := gnode 1 0 false (if b then 0x1F601 else 0x0F601)
    let s := ofFrm (graph 0x39 n words) (fun f => { f with nst := if b then [(0, [7, 0, 0, 0, 1, 1, 2, 0])] else [] })
    s.NodeTurn n ∧ (∀ d ∈ abOf n, s.Accepts 0 d) ∧ nodeWf 0x39 n = true ∧ s.head 0 0 = .data [5] ∧
    s.nst = (if b then [7, 0, 0, 0] ++ [1, 1, 2, 0] else []) := by
  intro b hb
  refine ⟨nodeTurn _ _ ?_, fun d hd => acceptsOf _ _ _ ?_, ?_, ?_, ?_⟩
  case refine_2 => revert d; revert b; decide +kernel
  all_goals revert b; decide +kernel
/-- Nodes that make control tokens and constants, and mark. -/
theorem wit_AccumulatorAndControlResults : ∀ e ∈ ([(0x49, 0x500), (0x4A, 0), (0x4B, 0), (0x50, 0xFFFFFFFF), (0x4C, 3), (0x48, 0)] :
      List (Nat × BitVec 32)), let n := gnode 1 0 false e.2
    let s := graph e.1 n words
    s.NodeTurn n ∧ (∀ d ∈ abOf n, s.Accepts 2 d ∧ s.Accepts 0 d) ∧ nodeWf e.1 n = true ∧ s.head 0 0 = .data [5] ∧
    (s.took []).cut 0 0 = .ok () (after ((s.took []).cut 0 0)) ∧ (after ((s.took []).cut 0 0)).reg.runs s.tag = true := by
  intro e h
  refine ⟨nodeTurn _ _ ?_, fun d hd => ⟨acceptsOf _ _ _ ?_, acceptsOf _ _ _ ?_⟩, ?_, ?_, doneOf _ ?_, ?_⟩
  case refine_2 => revert d; revert e; decide +kernel
  case refine_3 => revert d; revert e; decide +kernel
  all_goals revert e; decide +kernel

/-- The activation frame of the current frame at 0x7800, its caller, and the ret nodes that have fired. -/
def framed (c : Caller) (f : Option Word) (rets : List Nat) (s : State) : State :=
  { ofFrm s (fun g => { g with f := f, caller := c, rets := rets, status := 0xF }) with
    threads := [(0, { thr0 with ops := [7], awaits := [(10, .op 7), (11, .op 7)] })] }
/-- arg: an argument kept, one of the activation frame, and its address. -/
theorem wit_FrameNodeResults_arg : ∀ e ∈ ([(3, none), (8, none), (8, some 0x7800), (7, some 0x7800)] : List (BitVec 32 × Option Nat)),
    let n := gnode 1 0 false e.1
    let s := framed (.unit .none) (e.2.map (BitVec.ofNat 64)) [] (graph 0x40 n [])
    let a := s.nodeAt (.cluster 0) { va := 0x7858, n := 8, al := 8, k := .load }
    s.nodeMay = true ∧ nodeWf 0x40 n = true ∧ s.reg.nodesOf 0x41 = [2] ∧ s.frm.rets = [] ∧ (∀ d ∈ abOf n, s.Accepts 0 d) ∧
    s.nodeIx ∉ s.frm.argsFired ∧ s.reg.target = none ∧ s.frm.f = e.2.map (BitVec.ofNat 64) ∧ a = .ok (.mem (memLoc a)) (after a) := by
  intro e h
  refine ⟨?_, ?_, ?_, ?_, fun d hd => acceptsOf _ _ _ ?_, ?_, ?_, ?_, memOf _ ?_⟩
  case refine_5 => revert d; revert e; decide +kernel
  all_goals revert e; decide +kernel
/-- The callers of a frame: none, two records, one of which wants the result, a node, and a thread. -/
def callers : List Caller := [.unit .none, .record 0, .record 1, .node { rid := 0, tag := 0, node := 3, f := 0x7800 }, .thread 7]
/-- ret: an END, a value, and a void ret, for every caller, and the last ret of a frame. -/
theorem wit_FrameNodeResults_ret : ∀ c ∈ callers, ∀ e ∈ ([(0, 2, 1, []), (0, 0, 5, []), (0x11, 0, 5, []), (0, 0, 5, [2])] :
      List (BitVec 32 × BitVec 2 × Word × List Nat)), let n := gnode 0xFF 0 false e.1
    let s := framed c (some 0x7800) e.2.2.2 (graph 0x41 { n with caPort := 3 } [(0, e.2.1, e.2.2.1)])
    let u := s.commit s.rid s.tag
    let a := (after u).actWrite 0 0 0x7800 0x7860 5
    let b := (after a).actWrite 0 0 0x7800 0x7810 0xE
    s.nodeMay = true ∧ nodeWf 0x41 { n with caPort := 3 } = true ∧ s.reg.nodesOf 0x41 = [0, 2] ∧ s.nodeIx ∉ s.frm.rets ∧ s.frm.rets = e.2.2.2 ∧
    u = .ok () (after u) ∧ s.head 0 0 = (if e.2.1 = 2 then .ctl e.2.2.1 else .data [5]) ∧ ctlCode 1 = 1 ∧ s.frm.caller = c ∧
    (after u).reg.inflight < 4 ∧ s.frm.f = some 0x7800 ∧ a = .ok () (after a) ∧ b = .ok () (after b) ∧
    (s.opThread 7).map (·.1) = some (.inl 0) ∧ ((s.opThread 7).any (fun p => (p.2.awaiting (.op 7)).contains (BitVec.ofNat 5 10))) = true ∧
    s.reg.buffered s.tag = [] ∧ s.reg.area.isNone = true := by
  intro c hc e h
  refine ⟨?_, ?_, ?_, ?_, ?_, doneOf _ ?_, ?_, ?_, ?_, ?_, ?_, doneOf _ ?_, doneOf _ ?_, ?_⟩ <;> revert e <;> revert c <;> decide +kernel
/-- `State.CallTurn` as a test. -/
def isCallTurn (s : State) (p : Word) (args : List Word) : Bool :=
  s.nodeMay && !s.reg.busy.contains (s.reg.tileOf s.nodeIx)
    && s.reg.toks.all (fun t => !(t.tag == s.tag && t.node.toNat == s.nodeIx && t.cls == 2) || ctlCode t.pay == 1)
    && (s.atPort 3 == [] && s.calling == false) && s.head 0 0 == .data [p] && s.argStream == some args && decide (args.length ≤ 8)
    && s.reg.buffered s.tag == []
theorem callTurn (s : State) (p : Word) (args : List Word) (h : isCallTurn s p args = true) : s.CallTurn p args := by
  simp only [isCallTurn, Bool.and_eq_true, List.all_eq_true, Bool.or_eq_true, Bool.not_eq_true', Bool.and_eq_false_iff,
    beq_eq_false_iff_ne, beq_iff_eq, decide_eq_true_eq, List.contains_eq_mem, decide_eq_false_iff_not] at h
  obtain ⟨⟨⟨⟨⟨⟨⟨a, k⟩, b⟩, c⟩, d⟩, e⟩, f⟩, g⟩ := h
  refine ⟨a, k, fun t ht h1 h2 h3 => ?_, c, d, e, f, g⟩
  rcases b t ht with ((h | h) | h) | h
  · exact absurd h1 h
  · exact absurd h2 h
  · exact absurd h3 h
  · exact h
/-- call: a T pointer, and a G pointer at the region's own image. -/
theorem wit_CallNodeResults_call : ∀ p ∈ ([0x8000, 0x8001] : List Word), let n := gnode 1 0 false 2
    let s := ofReg (framed (.unit .none) none [] (graph 0x42 n [(0, 0, p), (1, 0, 0x7800), (2, 0, 4), (2, 0, 9), (2, 2, 1)]))
      (fun r => { r with image := 0x8000 })
    let ref : CallRef := { rid := 0, tag := 0, node := 0, f := 0x7800 }
    let a := (s.took []).nodePointer p
    let b := (left a s).nodeWriteWords 0x7800 ([0x8001, 0, 0xF, 0] ++ (upto 8).map (fun i => [4, 9].getD i 0) ++ [0, 0, 0, 0])
    let c := ((after b).onFrm (fun g => { g with calls := g.calls ++ [ref] })).cut 0 0
    nodeWf 0x42 n = true ∧ s.CallTurn p [4, 9] ∧ s.reg.nodesOf 0x41 = [2] ∧ s.frm.rets = [] ∧ s.head 1 0 = .data [0x7800] ∧
    fld (0x7800 : Word) 5 0 = 0 ∧ a = .ok p (left a s) ∧ b = .ok () (after b) ∧ c = .ok () (after c) ∧ (after c).reg.runs s.tag = true ∧
    s.reg.holds s.reg.ctxId (p &&& ~~~7) = true ∧ ((after c).cluster 0).reserved = none ∧ (after c).reg.freeTag = some 1 := by
  intro p h
  refine ⟨?_, callTurn _ _ _ ?_, ?_, ?_, ?_, ?_, okOf _ _ _ ?_, doneOf _ ?_, doneOf _ ?_, ?_⟩ <;>
    simp only [List.mem_cons, List.not_mem_nil, or_false] at h <;> rcases h with rfl | rfl <;> decide +kernel
/-- tail of a frame that a node and that a thread called. -/
theorem wit_CallNodeResults_tail : ∀ c ∈ callers.drop 3, let n := gnode 0xFF 0 false 0
    let s := framed c (some 0x7800) [] (graph 0x43 { n with caPort := 3 } [(0, 0, 0x8000), (2, 0, 4), (2, 2, 1)])
    let a := s.nodePointer 0x8000
    let b := (left a s).nodeWriteWords 0x7820 [4]
    let d := (after b).nodeWriteWords 0x7860 [0, 0, 0, 0]
    let e := (after d).commit 0 s.tag
    nodeWf 0x43 { n with caPort := 3 } = true ∧ s.CallTurn 0x8000 [4] ∧ s.frm.f = some 0x7800 ∧ s.reg.area.isNone = true ∧ a = .ok 0x8000 (left a s) ∧
    b = .ok () (after b) ∧ d = .ok () (after d) ∧ e = .ok () (after e) ∧ s.frm.caller = c ∧
    ((after e).opThread 7).map (·.1) = some (.inl 0) := by
  intro c h
  refine ⟨?_, callTurn _ _ _ ?_, ?_, ?_, okOf _ _ _ ?_, doneOf _ ?_, doneOf _ ?_, doneOf _ ?_, ?_⟩ <;>
    simp only [callers, List.drop, List.mem_cons, List.not_mem_nil, or_false] at h <;> rcases h with rfl | rfl <;> decide +kernel
/-- hsend to a named cluster, to the home of an address, and to the least loaded; the record at 0x7800 is zeros. -/
theorem wit_CallNodeResults_hsend : ∀ m ∈ ([0, 1, 2] : List (BitVec 32)), let n := gnode 1 0 false m
    let s := graph 0x44 n [(0, 0, 0x7800), (1, 0, 0)]
    let ports := if m = 2 then [(0, 1)] else [(0, 1), (1, 1)]
    let a := (s.took ports).nodeWords 0x7800 8
    let b := (left a s).nodeAt (.cluster 0) { va := 0, n := 8, al := 1, k := .load }
    let u2 := if m = 1 then after b else left a s
    let h := if m = 1 then u2.home (memLoc b) else if m = 2 then (left a s).least 0 else 0
    let r : HRecord := {
      words := u2.recordWords 0 (List.replicate 8 0) 0, fmt := s.frm.fmt, sca := s.frm.sca, sender := 1
      fromRegion := true, counted := true, first := none, image := 0x7800 }
    let y := ((u2.sendRecord h r).onRegion 0 (fun g => { g with inflight := g.inflight + 1 })).emit 0 [0] (abOf n) [0, 1]
    let z := (after y).cut 0 0
    nodeWf 0x44 n = true ∧ s.NodeTurn n ∧ (∀ d ∈ abOf n, s.Accepts 0 d) ∧ s.head 0 0 = .data [0x7800] ∧ s.head 1 0 = .data [0] ∧
    s.reg.buffered s.tag = [] ∧ s.reg.inflight = 0 ∧ a = .ok (List.replicate 8 0) (left a s) ∧ recordCheck (List.replicate 8 0) = none ∧
    s.present 0 = true ∧ (m = 1 → b = .ok (.mem (memLoc b)) (after b)) ∧ y = .ok () (after y) ∧ z = .ok () (after z) ∧
    (after z).reg.runs s.tag = true := by
  intro m h
  refine ⟨?_, nodeTurn _ _ ?_, fun d hd => acceptsOf _ _ _ ?_, ?_, ?_, ?_, ?_, okOf _ _ _ ?_, ?_, ?_, fun _ => memOf _ ?_, doneOf _ ?_, doneOf _ ?_, ?_⟩
  case refine_3 =>
    revert d; simp only [List.mem_cons, List.not_mem_nil, or_false] at h; rcases h with rfl | rfl | rfl <;> decide +kernel
  all_goals simp only [List.mem_cons, List.not_mem_nil, or_false] at h; rcases h with rfl | rfl | rfl <;> decide +kernel

/-! Event statements. -/

/-- Whether an engine's access lands on memory, and where. -/
def engMem (e : Eng × State) : Option Nat :=
  match e.1 with
  | .at (.mem o) => some o
  | _ => none
theorem engOf (e : Eng × State) (o : Nat) (h : engMem e = some o) : e = (.at (.mem o), e.2) := by
  obtain ⟨e, s⟩ := e
  unfold engMem at h
  split at h
  · next q hq => cases h; exact Prod.ext hq rfl
  · cases h
/-- A result of width 32 that lands now, active in element 2. -/
def sfuDue (m : Word) : SfuPend := { vd := 4, due := 90, value := 0x111111112222222233333333, mask := m, width := 32 }
theorem wit_CompletionEvents_sfu : ∀ s ∈ [{ having (fun t => { t with sfu := [sfuDue 4, { sfuDue 4 with due := 200 }] }) with ev := .unit 0 }],
    s.ev = .unit 0 ∧ (Tab.find 0 s.threads).isSome = true ∧
    (s.thread 0).sfu.filter (fun q => decide (q.due ≤ s.cycle)) = [sfuDue 4] ∧ 0 < (sfuDue 4).width ∧ (sfuDue 4).width ∣ 512 := by
  decide +kernel
def farRead : Remote := { id := 9, dev := 3, off := 0x40, ctx := 0, page := (0, 0), op := .read 8, port := some 0, waiter := .thread 0 1 }
theorem wit_CompletionEvents_access :
    (∀ s ∈ [{ having (fun t => { t with run := .access }) with ev := .access 0 none }],
      s.ev = .access 0 none ∧ (s.thread 0).run = .access) ∧
    ∀ s ∈ [{ having (fun t => { t with run := .remote 9 }) with ev := .access 9 (some (.done 5 0)), remotes := [farRead] }],
      s.ev = .access 9 (some (.done 5 0)) ∧ s.remotes.find? (fun r => r.id == 9) = some farRead ∧ farRead.waiter = .thread 0 1 ∧
      (s.thread 0).run = .remote 9 ∧ s.mustStop (s.thread 0) = false ∧ ({ s with ev := .access 9 (some .withdrawn) } : State).remotes = [farRead] := by
  decide +kernel
/-- A reply to register 11, to a thread that awaits it and to none; the sender is region 0. -/
def replied (b : Bool) : State :=
  { having (fun t => if b then { t with empty := 0x800, awaits := [(11, .reply 0 0)] } else t) with ev := .reply (replyTarget 0 0 11 true) 5 0 1 }
theorem wit_CompletionEvents_reply : ∀ b ∈ [false, true], let s := replied b
    let w := replyTarget 0 0 11 true
    let r := replyReg w
    s.ev = .reply w 5 0 1 ∧ r ≠ 0 ∧ (s.flightEnd 1).findThread (fun h => h.ctx == 0 && h.isEmpty r &&
      Tab.find r.toNat h.awaits == some (.reply (replyKey w) (replyGen w))) = if b then some (.inl 0) else none := by decide +kernel
/-- A copy of 16 bytes, of which d have moved, whose token is register 11. -/
def copyAt (d : Nat) : Copy :=
  { id := 4, key := 0, ctx := 0, party := 1, level := .monitor, dst := 0x9000, src := 0x7000, len := 16, kind := .flat, scope := 0, done := d }
def copyTurn (d : Nat) (fail : Bool) : State :=
  { having (fun t => { t with empty := 0x800, awaits := [(11, .op 4)] }) with
    clusters := [(0, { copies := [copyAt d] })], ev := .pair 0 (2 * 4 + if fail then 1 else 0) }
theorem wit_CompletionEvents_copy : ∀ e ∈ [(8, true), (16, false), (8, false)], let s := copyTurn e.1 e.2
    let a := s.engineAt 0 0 .monitor 1 ((copyAt e.1).dstAt e.1) ((copyAt e.1).unit e.1) .store
    let b := a.2.engineAt 0 0 .monitor 1 ((copyAt e.1).srcAt e.1) ((copyAt e.1).unit e.1) .load
    s.ev = .pair 0 (2 * (copyAt e.1).id + if e.2 = true then 1 else 0) ∧
    (s.cluster 0).copies.find? (fun x => x.id == (copyAt e.1).id) = some (copyAt e.1) ∧ (copyAt e.1).far = none ∧ s.lockBlocked 0 (copyAt e.1).id = false ∧
    (s.thread 0).awaiting (.op 4) = [11] ∧ s.findThread (fun h => h.awaiting (.op 4) != []) = some (.inl 0) ∧
    (e.1 = 8 → (copyAt e.1).done + (copyAt e.1).unit (copyAt e.1).done = 16 ∧ a = (.at (.mem 0x9008), a.2) ∧ b = (.at (.mem 0x7008), b.2) ∧
      b.2.findThread (fun h => h.awaiting (.op 4) != []) = some (.inl 0)) := by
  intro e h
  refine ⟨?_, ?_, ?_, ?_, ?_, ?_, fun h8 => ⟨?_, engOf _ _ ?_, engOf _ _ ?_, ?_⟩⟩
  case refine_10 => revert h8; revert e; decide +kernel
  case refine_7 => revert h8; revert e; decide +kernel
  case refine_8 => revert h8; revert e; decide +kernel
  case refine_9 => revert h8; revert e; decide +kernel
  all_goals revert e; decide +kernel
/-- An invalidation that nothing uses, and one that an access to another device uses. -/
theorem wit_CompletionEvents_inv : ∀ s ∈ [{ paged .monitor (fun t => { t with empty := 0x800, awaits := [(11, .op 4)] }) with
      ev := .unit 4, dies := [(2, { invs := [{ id := 4, ctx := some 0, lo := 0x1000, hi := 0x2000 }] })] }],
    s.ev = .unit 4 ∧ (s.die 2).invs.find? (fun j => j.id == 4) = some { id := 4, ctx := some 0, lo := 0x1000, hi := 0x2000 } ∧
    (∀ e, e < 2 → ∀ j ∈ (s.die e).invs, j.id ≠ 4) ∧ s.findThread (fun h => h.awaiting (.op 4) != []) = some (.inl 0) ∧
    s.usesOf (some 0) 0x1000 0x2000 true = [] ∧
    State.usesOf { s with remotes := [{ farRead with page := (0x1000, 4096) }] } (some 0) 0x1000 0x2000 true ≠ [] := by decide +kernel
/-- A launch record of one thread, with its first word. -/
def oneThread (p : Word) : List Word := [p, 0, 0x1000000000] ++ List.replicate 14 0 ++ [0x100000000] ++ List.replicate 14 0
/-- A launch record at a die's queue, sent by a thread of the active context 0. -/
def launched (ws : List Word) (q : List Nat) : State :=
  { having (fun t => { t with run := .launching }) with
    dies := [(0, { launchQ := q })], mem := [(0, 1#8), (36, 0x7F#8)]
    ev := .record 0 { words := ws, fmt := 0, sca := [], sender := 0, fromRegion := false, counted := false, first := none } }
/-- A record with a reserved pointer, a legal one, and one at a full queue. -/
theorem wit_CompletionEvents_launch : ([(0x8004, []), (0x8000, []), (0x8000, List.replicate 64 1)] : List (Word × List Nat)).all
      (fun e => (((launched (oneThread e.1) e.2).thread 0).run == .launching)
        && (launched (oneThread e.1) e.2).launchStatus 0 (oneThread e.1) == (if e.1 == 0x8004 then 5 else 0)
        && (decide (((launched (oneThread e.1) e.2).die 0).launchQ.length < 64) == (e.2 == []))) = true := by decide +kernel

/-- Memory from byte addresses and words of 32 bits, rising. -/
def words32 (ws : List (Nat × Nat)) : Memory :=
  (ws.flatMap (fun w => (upto 4).map (fun i => (w.1 + i, BitVec.ofNat 8 (w.2 / 256 ^ i))))).filter (fun c => c.2 != 0)
def vaddArgs : VArgs := ((decodeV 0x04208402).map (fun i => match i with
  | .vadd p => p
  | _ => kArgs 0 0 0)).getD (kArgs 0 0 0)
/-- A repetition of vadd beside addi x6, x5, 7 of the stream, with n turns left and l parcels, that stands at its parcel 0 or 1. -/
def repeating (n : BitVec 32) (l : BitVec 5) (k : BitVec 4) : State :=
  { having (fun t => { t with rep := { t.rep with active := true, left := n, len := l, pos := k, buf := if k = 0 then [0x04208402, 0x04208602] else [0x04208602, 0x04208402] } }) with
    mem := words32 [(0x200000, 0x00728313), (0x200004, 0x00728313)] }
theorem wit_SlotEvents_repetition : ∀ e ∈ ([(2, 2, 0), (2, 2, 1), (1, 2, 1)] : List (BitVec 32 × BitVec 5 × BitVec 4)),
    let s := repeating e.1 e.2.1 e.2.2
    let u := left s.fetchGroup s
    let ps := [0x00728313, 0x00728313]
    s.fetchGroup = .ok ps u ∧ decodeParcels ps = some (.addi 6 5 7) ∧ (groupPartner (.addi 6 5 7) ps).isNone = true ∧
    (Instr.addi 6 5 7).wf = true ∧ (Instr.vadd vaddArgs).wf = true ∧ u.thr.repReads = false ∧
    decodeV (u.thr.rep.buf.getD u.thr.rep.pos.toNat 0) = some (.vadd vaddArgs) ∧
    u.Ready (5 :: (if vaddArgs.s then [vaddArgs.vs2] else [])) [6] (vregs vaddArgs.vs1 vaddArgs.grp.n ++
      (if vaddArgs.s then [] else vregs vaddArgs.vs2 vaddArgs.grp.n) ++ vregs vaddArgs.vd vaddArgs.grp.n) := by
  intro e h
  refine ⟨okOf _ _ _ ?_, ?_, ?_, ?_, ?_, ?_, ?_, ready _ _ _ _ ?_⟩ <;>
    simp only [List.mem_cons, List.not_mem_nil, or_false] at h <;> rcases h with rfl | rfl | rfl <;> decide +kernel
/-- A slot whose Spindle has ready threads; a write of the slot table that names four contexts, and one that names five. -/
theorem wit_SlotEvents : dev.Ready [] [] [] ∧
    (∀ s ∈ [{ having (fun t => { t with rot := 13 }) with spindles := [(0, { ready := [3] })], ev := .unit 0 }],
      s.ev = .unit 0 ∧ (s.thread 0).run = .rotating ∧ 13 ≤ (s.thread 0).rot ∧ (s.thread 0).beats = 0 ∧ (s.spindle (gspOf 0)).ready ≠ []) ∧
    (dev.thread 0).rot < 13 ∧
    (∀ s ∈ [{ dev with spindles := [(0, {})], ev := .held [(0, 500)] }],
      (Tab.find 0 s.spindles).isSome = true ∧ [(0, 500)].find? (fun q => q.1 == 0 / 8) = some (0, 500)) ∧
    (∀ s ∈ [{ dev with spindles := [(0, { tiles := [3] })], ctxs := [(3, { plyBlocks := [0x9000] })], ev := .unit 0 }],
      (s.spindle 0).tiles = [3] ∧ (∀ i, i < 16 → (s.spindle 0).entry i = none) ∧ s.isFrozen 3 = false ∧ (s.spindle 0).plyIdle 3 = true ∧
      s.plyPlace 3 = some (0x9000, 0, s)) ∧
    (∀ s ∈ [{ dev with spindles := [(0, { plyslot := [0x8001800280038004, 0, 0, 0] })] }],
      (tableCtxs ((s.spindle 0).plyslot.set 1 (0x8004 &&& 0x8FFF8FFF8FFF8FFF))).length ≤ 4 ∧
      4 < (tableCtxs ((s.spindle 0).plyslot.set 1 (0x8005 &&& 0x8FFF8FFF8FFF8FFF))).length) := by
  refine ⟨ready _ _ _ _ (by decide), ?_, ?_, ?_, ?_, ?_⟩ <;> decide +kernel

/-- A call in course at node 0, whose two arguments wait at port 2. -/
def inCall : State :=
  ofFrm (graph 0x42 ⟨1, 0, 1, 1, false, 0, false, 2⟩ [(0, 0, 0x8000), (1, 0, 0x7800), (2, 0, 4), (2, 0, 9), (2, 2, 1)])
    (fun f => { f with calls := [{ rid := 0, tag := 0, node := 0, f := 0x7800 }] })
def ended : Completion := { rid := 0, tag := 0, node := 0, f := 0x7800, res := [1, 2, 3, 4], status := 0xC }
theorem wit_GraphEvents_completion : ∀ s ∈ [{ inCall with ev := .completion ended }],
    let ref : CallRef := { rid := 0, tag := 0, node := 0, f := 0x7800 }
    let n : NodeWord := ⟨1, 0, 1, 1, false, 0, false, 2⟩
    let u : State := { s with curNode := (0, 0, ((s.region 0).frame 0).tag 0) }
    s.ev = .completion ended ∧
    s.regions.findSome? (fun (i, r) => (r.frames.find? (fun (_, f) => f.calls.contains ref)).map (fun q => (i, q.1))) = some (0, 0) ∧
    ((s.region 0).frame 0).st = .live ∧ (s.region 0).draining = false ∧
    ((s.region 0).nodes[0]?).bind decodeNode = some (.nodeCall n) ∧ u.reg.nodesOf 0x41 = [2] ∧ u.nodeIx = 0 ∧ u.frm.rets = [] ∧
    u.Accepts 0 (1, 0) ∧ u.Accepts 0 (1, 1) ∧ u.argStream = some [4, 9] ∧ u.reg.carry = [] := by
  intro s h
  refine ⟨?_, ?_, ?_, ?_, ?_, ?_, ?_, ?_, acceptsOf _ _ _ ?_, acceptsOf _ _ _ ?_, ?_⟩ <;> revert s <;> decide +kernel
/-- A region with a target, with tokens and without. -/
def switching (t : Option Nat) (ts : List (BitVec 2 × BitVec 2 × Word)) : State :=
  { ofReg (graph 0x01 (gnode 1 0 false 0) ts) (fun r => { r with target := t, frames := [] }) with ev := .unit 0 }
theorem wit_GraphEvents_switch : (switching none []).reg.target.isNone = true ∧
    (∀ s ∈ [switching (some 1) words], s.ev = .unit 0 ∧ (s.region 0).target = some 1 ∧ (s.region 0).retired = false ∧
      (s.region 0).draining = false ∧ ∀ x ∈ (s.region 0).toks, ((s.region 0).frame (tagIdx x.tag)).st ≠ .quiescent) ∧
    (∀ s ∈ [switching (some 1) []], s.ev = .unit 0 ∧ (s.region 0).target = some 1 ∧ (s.region 0).retired = true ∧
      (s.region 0).draining = false ∧ (s.region 0).toks = []) := by decide +kernel
/-- A token withheld since cycle 0 at node 0, and an operand of its port and frame. -/
def withheldAt (ev : EvArg) (cycle : Nat) : State :=
  { ofReg (graph 0x31 (gnode 1 0 false 0x30) [(0, 0, 0x7000)]) (fun r => { r with
      withheld := [{ node := 0, tag := 0, since := 0, cause := ⟨3, 3, 0, false, 0⟩ }] }) with ev := ev, cycle := cycle }
theorem wit_GraphEvents_withheld : ∀ e ∈ ([(.pair 0 0, 100), (.pair 0 0, 80000), (.pair 1 0, 100), (.pair 0 1, 100)] : List (EvArg × Nat)),
    let s := withheldAt e.1 e.2
    s.images = [] ∧ s.ev = e.1 ∧ (s.region 0).withheld.length = 1 ∧
    (s.region 0).withheld.find? (fun w => w.node.toNat + 256 * w.tag.toNat == 0) = (s.region 0).withheld.head? ∧
    ((s.region 0).withheld.any (fun w => w.moving)) = false ∧ 0 + max 1 (fld s.drainlim 15 0) * 4000 = 80000 ∧
    (s.region 0).draining = false := by decide +kernel
/-- A region whose frame has been evicted drains into the block at 0x40000000. -/
def drained : State :=
  { ofReg (graph 0x01 (gnode 1 0 false 0) []) (fun r => { r with
      draining := true, area := some 0x40000000, frames := [(0, { st := .faulted })] }) with ev := .pair 1 0 }
theorem wit_GraphEvents_drain : drained.ev = .pair 1 0 ∧ (drained.region 0).draining = true ∧ drained.canFire 0 = false ∧
    (drained.region 0).remote = [] ∧ (drained.region 0).withheld = [] ∧
    (∀ q ∈ (drained.region 0).frames, q.1 < 256 → q.2.st ≠ .live ∧ q.2.st ≠ .quiescent) ∧ (drained.region 0).area = some 0x40000000 ∧
    (drained.region 0).rpc < 16 ∧ (drained.region 0).toks.length + (drained.region 0).carry.length ≤ 65280 := by decide +kernel
/-- Low addresses are memory on a part of ten stacks or more that has not been given its number. -/
theorem place_low (s : State) (hd : s.own = 0) (hg : s.part.nstk.foldl (· + ·) 0 * gib64 = 0xC000000000) (x : Nat) (h : x < 0x80000000) :
    s.place x = .mem x := by
  have hf : field x 51 42 = 0 := by
    simp only [field, Nat.shiftRight_eq_div_pow]
    omega
  have ho : field x 41 0 = x := by
    simp only [field, Nat.shiftRight_eq_div_pow]
    omega
  have hs : s.inStacks x = true := by
    simp only [State.inStacks, hg, decide_eq_true_eq]
    omega
  simp only [State.place, hf, ho, hd, State.placeOff, hs]
  rfl
theorem wit_GraphEvents_block : ∀ i, i < 2 ^ 20 → drained.place (0x40000000 + i) = .mem (0x40000000 + i) :=
  fun i h => place_low _ (by decide +kernel) (by decide +kernel) _ (by omega)

/-- Memory from byte addresses and words, rising. -/
def words64 (ws : List (Nat × Nat)) : Memory :=
  (ws.flatMap (fun w => (upto 8).map (fun i => (w.1 + i, BitVec.ofNat 8 (w.2 / 256 ^ i))))).filter (fun c => c.2 != 0)
/-- The words of a record of context 0 and key 7: operation, FMASK, NSLOT, first payload word. -/
def recOf (op fmask nslot : Nat) (p : Word) : List Word :=
  [7, 0x8000, p, 2, 3, 4, BitVec.ofNat 64 (op * 2 ^ 46 + fmask * 2 ^ 42 + nslot), 0]
def recFrom (ws : List Word) : HRecord :=
  { words := ws, fmt := 0, sca := [], sender := 1, fromRegion := true, counted := true, first := none }
def heldRec (n way : Nat) (ws : List Word) : HEntry :=
  { set := hamperSet ws, way := way, record := recFrom ws, arrival := 3, num := n, cls := 0 }
/-- Cluster 0 of a device with the context 0 active, a spill ring of 16 entries at 0x10000, and one cached translation. -/
def hamper (k : Cluster) (ev : EvArg) : State :=
  { dev with clusters := [(0, { k with tlb := [flat] })], ev := ev, mem := words64 [(0, 1), (16, 0x10000), (0x10000, 4)] }
theorem wit_DispatchEvents_fold : ∀ op ∈ [1, 2, 3, 4, 5, 6, 7, 8, 9, 0xA, 0xB, 0xC, 0xD, 0xE, 0xF],
    let s := hamper { records := [heldRec 9 0 (recOf op 5 1 6)] } (.record 0 (recFrom (recOf op 5 0 8)))
    s.ev = .record 0 (recFrom (recOf op 5 0 8)) ∧
    (s.cluster 0).foldInto (recOf op 5 0 8) = some (heldRec 9 0 (recOf op 5 1 6)) ∧
    (s.cluster 0).records = [heldRec 9 0 (recOf op 5 1 6)] ∧ recOp ((recOf op 5 1 6).getD 6 0) = op := by decide +kernel
/-- A set that is full: a record that folds into none of its eight takes the first free way of another, or spills. -/
def fullSet : List HEntry := (upto 8).map (fun i => heldRec i i (recOf 0 0 0 6))
theorem wit_DispatchEvents_arrival : ∀ e ∈ [(1, 0), (0xF, 0), (0, 8), (1, 8)],
    let s := hamper { records := fullSet.take e.2 } (.record 0 (recFrom (recOf e.1 5 0 8)))
    (s.cluster 0).foldInto (recOf e.1 5 0 8) = none ∧ (s.cluster 0).freeWay (hamperSet (recOf e.1 5 0 8)) = (if e.2 = 0 then some 0 else none) ∧
    s.spillCap (recCtx ((recOf e.1 5 0 8).getD 6 0)) = some 4 ∧ (recFrom []).sender % 2 = 1 ∧
    (s.prd8 (s.ringHead 0 0 4 + 8) - s.prd8 (s.ringHead 0 0 4)).toNat < 2 ^ 4 ∧
    State.spillCap { s with mem := [] } (recCtx ((recOf e.1 5 0 8).getD 6 0)) = none := by decide +kernel
theorem wit_DispatchEvents_waiting :
    (∀ s ∈ [hamper { refused := [(600, recFrom (recOf 1 5 0 8))] } (.record 0 (recFrom (recOf 1 5 0 8)))],
      (s.cluster 0).refused.any (fun q => q.2 == recFrom (recOf 1 5 0 8)) = true) ∧
    ((hamper {} (.record 0 (recFrom []))).cluster 0).refused = [] ∧
    (∀ s ∈ [{ hamper {} (.pair 0 0) with mem := words64 [(0, 1), (16, 0x10000), (0x10000, 4), (0x10048, 1)] }],
      s.spillCap (BitVec.ofNat 12 0) = some 4 ∧ s.prd8 (s.ringHead 0 0 4 + 8) ≠ s.prd8 (s.ringHead 0 0 4) ∧
      (s.cluster 0).foldInto (List.replicate 8 0) = none ∧ (s.cluster 0).freeWay 0 = some 0) ∧
    (∀ b ∈ [false, true], let e := heldRec 9 0 (recOf 1 5 0 6)
      let s := { hamper { records := [e] } (.pair 0 9) with mem := if b then words64 [(0, 1)] else [] }
      (s.cluster 0).records.find? (fun e => e.num == 9) = some e ∧ e.due = false ∧
      e.arrival + 256 * recLinger (e.record.words.getD 6 0) ≤ s.cycle / 2 ∧ (s.cluster 0).claimed 9 = false ∧ s.ctxActive (recCtx (e.record.words.getD 6 0)) = b) := by
  decide +kernel
/-- A due record of one thread in the dispatcher. -/
def deciding : State :=
  hamper { records := [heldRec 9 0 (recOf 1 5 0 6)], entries := [{ num := 1, arrival := 3, cls := 2, what := .record 9 }] } (.unit 0)
theorem wit_DispatchEvents_decision : ∀ s ∈ [deciding], let h := heldRec 9 0 (recOf 1 5 0 6)
    let c := recCtx (h.record.words.getD 6 0)
    let a := (s.onCluster 0 (fun k => { k with reserved := none })).entryOf 0 c 0x8000
    let u := left a s
    let b := u.dispatchWord 0 c 0x8000
    s.ev = .unit 0 ∧ (s.cluster 0).entries = [{ num := 1, arrival := 3, cls := 2, what := .record h.num }] ∧ (s.cluster 0).reserved = none ∧
    (s.cluster 0).records.find? (fun e => e.num == h.num) = some h ∧
    (∀ e ∈ (s.cluster 0).records, e.due = true → s.ctxActive (recCtx (e.record.words.getD 6 0)) = true) ∧ (s.ctx c).saved = false ∧ (s.ctx c).saving = false ∧
    s.admits c = true ∧ recCall (h.record.words.getD 6 0) = 0 ∧ a = .ok 0x8000 u ∧ fld (0x8000 : Word) 1 0 = 0 ∧
    b = .ok (some 0) (left b s) ∧ dispatchSize (some 0) = some (1, 0) ∧ (left b s).plan 0 c 0 true none [1] [] = some [(0, 1)] := by
  intro s h
  refine ⟨?_, ?_, ?_, ?_, ?_, ?_, ?_, ?_, ?_, okOf _ _ _ ?_, ?_, okOf _ _ _ ?_, ?_, ?_⟩ <;> revert s <;> decide +kernel
/-- An Itinerary of one node, at its start or running, and its instance. -/
def itinerary (fixed st : Nat) (i : Itin) (ev : EvArg) : State :=
  { hamper {} ev with
    mem := words64 [(0, 1), (0x4000, 0x8000), (0x4010, fixed * 2 ^ 48), (0x4018, fixed * (2 ^ 63 + 2 ^ 40 + 2 ^ 32)), (0x5000, st * 65536)]
    dies := [(0, { itins := [i] })], launches := [(5, { serial := 5, words := List.replicate 32 0, ctx := 0, cls := 0, die := 0 })] }
def itin5 : Itin := { serial := 5, header := 0x3000, ctx := 0, head := [0, 0x4000, 0, 0x5000, 0] }
def nodesOf5 (s : State) : List INode :=
  match s.itNodes 0 0 itin5.head with
  | .ok ns _ => ns
  | _ => []
def node0 : INode := { ix := 0, entry := 0, arg := 0, npred := 0, fixed := false, cls := 0, fpred := 0, rin := 0, rout := 0, succs := [], ranges := [], st := 0, left := 0, infl := 0, avail := 0 }
theorem wit_DispatchEvents_itinerary : ∀ e ∈ [(0, false), (1, true)], let s := itinerary e.1 0 itin5 (.pair 5 0)
    let ns := nodesOf5 s
    let m := ns.headD node0
    let u := left (s.itNodes 0 0 itin5.head) s
    let a := u.itPut 0 0 itin5.head (if m.fixed then { m with st := 1, avail := m.avail + 1 } else { m with st := 1 })
    let b := (after a).itChanges 0 0 itin5.head (fun x => { x with infl := x.infl + m.rout }) (m.fixedSuccs ns)
    s.itin? 5 = some (0, itin5) ∧ s.itNodes 0 0 itin5.head = .ok ns u ∧ itin5.next ns = some m ∧ m.ix = 0 ∧ m.fixed = e.2 ∧ m.fpred = 0 ∧
    a = .ok () (after a) ∧ b = .ok () (after b) ∧ itin5 ∈ ((after a).die 0).itins ∧ itin5 ∈ ((after b).die 0).itins := by
  intro e h
  refine ⟨?_, okOf _ _ _ ?_, ?_, ?_, ?_, ?_, doneOf _ ?_, doneOf _ ?_, ?_⟩ <;> revert e <;> decide +kernel
theorem wit_DispatchEvents_done : ∀ e ∈ [(0, 1, false), (1, 1, true), (1, 3, true)], let i := { itin5 with running := [(0, 3)] }
    let s := itinerary e.1 e.2.1 i (.pair 5 3)
    let ns := nodesOf5 s
    let m := ns.headD node0
    let u := left (s.itNodes 0 0 i.head) s
    let v := if m.fixed = true then
        (if m.st = 3 ∧ (∀ q ∈ i.parked, q.1 = m.ix → q.2 = 3) then u.itChange 0 0 i.head m.ix (fun x => { x with st := 1 }) else .ok () u).bind
          (fun _ y => y.itChanges 0 0 i.head (fun x => { x with infl := x.infl - m.rout, avail := x.avail + m.rout }) (m.fixedSuccs ns))
      else (u.itChange 0 0 i.head m.ix (fun x => { x with st := 2 })).bind (fun _ y => y.itChanges 0 0 i.head (fun x => { x with left := x.left - 1 }) m.succs)
    s.itin? 5 = some (0, i) ∧ s.itNodes 0 0 i.head = .ok ns u ∧ ns[m.ix]? = some m ∧ (m.st, m.fixed) = e.2 ∧ (m.ix, 3) ∈ i.running ∧ v = .ok () (after v) := by
  intro e h
  refine ⟨?_, okOf _ _ _ ?_, ?_, ?_, ?_, doneOf _ ?_⟩ <;> revert e <;> decide +kernel
theorem wit_DispatchEvents_abandon : ∀ b ∈ [false, true],
    let i := { itin5 with running := [(0, 3)], parked := if b then [(0, 3)] else [] }
    let s := itinerary 0 1 i (.unit 5)
    s.itin? 5 = some (0, i) ∧ s.itinIdle 0 i = b ∧ (Tab.find 5 s.launches).isSome = true ∧
    (s.doneFill ((Tab.find 5 s.launches).getD { serial := 5, words := [], ctx := 0, cls := 0, die := 0 }) 7) =
      .ok () (after (s.doneFill ((Tab.find 5 s.launches).getD { serial := 5, words := [], ctx := 0, cls := 0, die := 0 }) 7)) := by
  intro e h
  refine ⟨?_, ?_, ?_, doneOf _ ?_⟩ <;> revert e <;> decide +kernel

theorem prd8_ev (s : State) (e : EvArg) (a : Nat) : ({ s with ev := e } : State).prd8 a = s.prd8 a := rfl
theorem rd8_ev (s : State) (e : EvArg) (a : Nat) : ({ s with ev := e } : State).rd8 a = s.rd8 a := rfl
/-- A page request whose Read is number 9, and a die with it; the pool's slot 0 gives the frame 0x1000000. -/
def request (w : List PWaiter) (retried : Bool) (slot : Option Nat) : PageReq :=
  { id := 9, entry := 0x300000, ctx := 0, va := 0x10000, pte := 0, slot := slot, reading := true, retried := retried, waiters := w }
def reading (q : PageReq) (st : BitVec 16) (data : List Byte) : State :=
  { dev with
    dies := [(0, { rbPool := 0x20000, rbPoolN := 1, reqs := [q] })], mem := words64 [(0x20000, 0x1000001)], ev := .storage 9 st data
    parties := [(1, { ctx := 0, rid := 0, size := 1, live := 1, cls := 0, keys := [(0, 0)], swap := .draining, pend := [0x300000] })]
    threads := [(0, { thr0 with run := .page 0x300000 })] }
theorem wit_StorageEvents_read : ∀ s ∈ [reading (request [] false (some 0)) 0 (List.replicate 65536 7)],
    s.ev = .storage 9 0 (List.replicate 65536 7) ∧ (List.replicate 65536 (7 : Byte)).length = 65536 ∧
    (upto 4).findSome? (fun d => ((s.die d).reqs.find? (fun q => q.reading && q.id == 9)).map (fun q => (d, q))) =
      some (0, request [] false (some 0)) ∧ (s.die 0).reqs = [request [] false (some 0)] ∧ (s.die 0).reqWait = [] ∧
    fld (s.prd8 (s.slotAddr 0 0)) 51 16 * 65536 = 0x1000000 ∧ s.place 0x1000000 = .mem 0x1000000 ∧
    (∀ j, j < 128 → s.place (0x300000 + j) = .mem (0x300000 + j)) ∧ (∀ j, j < 32 → s.place (s.slotAddr 0 0 + j) = .mem (0x20000 + j)) ∧
    ∀ i, i < 16 → s.rd8 (0x300000 + 8 * i) = 0 := by
  intro s h
  have hl : (List.replicate 65536 (7 : Byte)).length = 65536 := List.length_replicate
  simp only [List.mem_cons, List.not_mem_nil, or_false] at h
  subst h
  generalize hd : List.replicate 65536 (7 : Byte) = data at hl ⊢
  have hg : dev.part.nstk.foldl (· + ·) 0 * gib64 = 0xC000000000 := by decide +kernel
  have hp : ∀ x, x < 0x80000000 → (reading (request [] false (some 0)) 0 data).place x = .mem x := fun x hx => place_low _ rfl hg x hx
  have hf : fld ((reading (request [] false (some 0)) 0 []).prd8 0x20000) 51 16 * 65536 = 0x1000000 := by decide +kernel
  have hz : ∀ i, i < 16 → (reading (request [] false (some 0)) 0 []).rd8 (0x300000 + 8 * i) = 0 := by decide +kernel
  have he : reading (request [] false (some 0)) 0 data = { reading (request [] false (some 0)) 0 [] with ev := .storage 9 0 data } := rfl
  have hs : (reading (request [] false (some 0)) 0 data).slotAddr 0 0 = 0x20000 := rfl
  refine ⟨rfl, hl, rfl, rfl, rfl, ?_, hp _ (by decide), fun j hj => hp _ (by omega), fun j hj => ?_, fun i hi => ?_⟩
  · rw [hs, he, prd8_ev]
    exact hf
  · rw [hs]
    exact hp _ (by omega)
  · rw [he, rd8_ev]
    exact hz i hi
theorem wit_StorageEvents_reads : ∀ e ∈ ([(([.thread 0 1], false, some 0), 0), (([], false, none), 5), (([], true, none), 5)] :
      List ((List PWaiter × Bool × Option Nat) × BitVec 16)), let q := request e.1.1 e.1.2.1 e.1.2.2
    let s := reading q e.2 []
    s.ev = .storage 9 e.2 [] ∧ (upto 4).findSome? (fun d => ((s.die d).reqs.find? (fun q => q.reading && q.id == 9)).map (fun q => (d, q))) = some (0, q) ∧
    (s.die 0).reqs = [q] ∧ (s.die 0).reqWait = [] ∧ (s.party? 1).map (fun a => (a.swap, a.pend, a.keys)) = some (.draining, [q.entry], [(0, 0)]) ∧
    (s.thread 0).run = .page q.entry ∧ s.bdPortUp q.pte = false ∧
    ((s.onParty 1 (fun a => { a with swap := .staying })).party? 1).map (fun a => (a.swap, a.pend, a.keys)) =
      some (.staying, [q.entry], [(0, 0)]) := by
  intro e h
  refine ⟨?_, ?_, ?_, ?_, ?_, ?_, ?_, ?_⟩ <;> revert e <;> decide +kernel
theorem wit_StorageEvents_command : ∀ s ∈ [{ cmdDev 0 [0x0000000000000108, 0, 0, 0, 0, 0] .waiting with ev := .pair 0 (2 * 7) }],
    (s.spindle 0).findCmd 7 = some (0, cmdOf [0x0000000000000108, 0, 0, 0, 0, 0] .waiting) ∧
    (cmdOf [0x0000000000000108, 0, 0, 0, 0, 0] .waiting).st ≠ .filling := by decide +kernel
def eviction (r : Bool) : Evict := { id := 9, slot := 0, entry := 0x300000, saved := 0, va := 0x10000, ctx := 0, cmd := some ⟨0, 2, 1, 1, 0, 0, 0x1000000⟩, retried := r }
def evicting (r : Bool) (st : BitVec 16) : State :=
  { dev with dies := [(0, { rbPool := 0x20000, rbPoolN := 1, evicts := [eviction r] })], ev := .storage 9 st [] }
theorem wit_StorageEvents_write : ∀ e ∈ ([(false, 0), (false, 5), (true, 5)] : List (Bool × Nat)), let s := evicting e.1 (BitVec.ofNat 16 e.2)
    s.ev = .storage 9 (BitVec.ofNat 16 e.2) [] ∧
    (upto 4).findSome? (fun d => ((s.die d).evicts.find? (fun e => e.id == 9)).map (fun e => (d, e))) = some (0, eviction e.1) ∧
    (eviction e.1).cmd ≠ none ∧ (s.die 0).evicts = [eviction e.1] ∧ (s.die 0).reqs = [] ∧ ∀ j, j < 32 → s.place (s.slotAddr 0 0 + j) = .mem (0x20000 + j) := by
  intro e h
  refine ⟨?_, ?_, ?_, ?_, ?_, ?_⟩ <;> revert e <;> decide +kernel
/-- A page of 4 KiB at 0x5000 that a table of context 0 maps at address 0; die 1 has a frame, die 0 has room for n. -/
def movable (n : Nat) : State :=
  { dev with
    mem := words64 [(0, 0x10001), (0x10000, 0x11003), (0x11000, 0x12003), (0x12000, 0x13003), (0x13000, 0x14003), (0x14000, 0x500D), (0x18000, 0x6000)]
    dies := [(0, { rbMres := 0x19000, rbMresN := BitVec.ofNat 64 (n * 2 ^ 32) }), (1, { rbMres := 0x18000, rbMresN := 0x400000001 })]
    ev := .migrate 0 0 1 }
theorem wit_StorageEvents_begin : ∀ n ∈ [0, 4], let s := movable n
    s.walkVa 1 0 0 = .leaf 0 0x14000 0x500D ∧ s.dieAt (field (pteADDR 0x500D) 41 0) = 0 ∧ s.reservesOk 0 1 = decide (n = 4) ∧
    s.migratable 0x500D 1 = true ∧ s.migrations = [] ∧ ptePS 0x500D ≠ 1 ∧ s.prd8 0x14000 = 0x500D ∧
    (s.resTake 1 (ptePS 0x500D)).map (·.1) = some 0x6000 := by decide +kernel
/-- A migration from 0x5000 to 0x6000, with a waiting thread. -/
def moving (st : MigSt) : Migration :=
  { id := 3, ctx := 0, va := 0, size := 4096, entry := 0x14000, ptes := [0x500D], old := 0x5000, new := 0x6000, src := 0, dst := 1, st := st
    waiters := [.thread 0 1] }
theorem wit_StorageEvents_move : (∀ s ∈ [{ movable 4 with migrations := [moving .invalidating], ev := .unit 3 }],
      s.migrations.find? (fun m => m.id == 3 && m.st == .invalidating) = some (moving .invalidating) ∧ s.mem.wf = true ∧
      ([28].filter (State.usesOf { s with remotes := [{ farRead with page := (0, 4096) }] } (some 0) 0 4096 false).contains) = [28] ∧
      (moving .invalidating).users = [] ∧
      s.frameOff 0x5000 = 0x5000 ∧ s.frameOff 0x6000 = 0x6000) ∧
    ∀ s ∈ [{ movable 4 with migrations := [moving .copying], ev := .unit 3, threads := [(0, { thr0 with run := .page 0x14000 })] }],
      s.migrations.find? (fun m => m.id == 3 && m.st == .copying) = some (moving .copying) ∧ (s.thread 0).run = .page 0x14000 ∧
      (s.thread 0).party = 1 ∧ (s.die 0).resCount = 0 ∧ (∀ j, j < 8 → s.place (0x14000 + j) = .mem (0x14000 + j)) ∧
      (∀ j, j < 8 → s.place (s.resAt 0 0 + j) = .mem (0x19000 + j)) ∧ s.rd8 0x14000 = 0x500D := by
  refine ⟨?_, ?_⟩ <;> decide +kernel
/-- A drained party of one thread, with a pool of blocks that is empty or begins at 0x40000000. -/
def drainedParty : Party :=
  { ctx := 0, rid := 0, size := 1, live := 1, cls := 0, keys := [(0, 0)], swap := .draining, pend := [0x300000] }
def swapping (b : Nat) : State :=
  { dev with
    mem := words64 [(0, 1), (24, 0x10000), (0x10000, b)], parties := [(1, drainedParty)], ev := .unit 1
    threads := [(0, { thr0 with level := .user, run := .page 0x300000 })] }
theorem wit_StorageEvents_out : ∀ b ∈ [0, 0x40000000], let s := swapping b
    s.ev = .unit 1 ∧ s.party? 1 = some drainedParty ∧ s.partySavable 1 drainedParty = true ∧ (s.ctx 0).saving = false ∧ drainedParty.block = none ∧
    (s.takeBlock 0).map (·.1) = (if b = 0 then none else some b) ∧ s.awaitsSlot drainedParty = false ∧ (s.thread 0).party = 1 ∧
    (s.thread 0).pidx.toNat = 0 ∧ ∀ i, i < 2 ^ 20 → s.place (0x40000000 + i) = .mem (0x40000000 + i) := by
  intro b h
  refine ⟨?_, ?_, ?_, ?_, ?_, ?_, ?_, ?_, ?_, fun i hi => place_low _ ?_ ?_ _ (by omega)⟩ <;> revert b <;> decide +kernel
/-- That party in its block, its page come. -/
def saved0 : SavedThread := { key := 3, area := 0x40001000, stopped := false, rest := { thr0 with level := .user, run := .swapped } }
def queuedParty : Party := { drainedParty with keys := [], swap := .queued, pend := [], block := some 0x40000000, saved := [saved0] }
theorem wit_StorageEvents_in : ∀ s ∈ [{ swapping 0 with parties := [(1, queuedParty)], threads := [] }],
    s.party? 1 = some queuedParty ∧ s.partyFits queuedParty = true ∧ saved0.area = areaAddr 0x40000000 saved0.rest.pidx.toNat ∧
    s.stillStopped saved0 = false ∧ s.poisoned = [] ∧ (∀ i, saved0.rest.run ≠ .barrier i) ∧ ∀ i, i < 2 ^ 20 → s.place (0x40000000 + i) = .mem (0x40000000 + i) := by
  intro s h
  refine ⟨?_, ?_, ?_, ?_, ?_, fun i => nofun, fun i hi => place_low _ ?_ ?_ _ (by omega)⟩ <;> revert s <;> decide +kernel

/-- A device with the context 3 active under a save, and its party if any. -/
def saving (ps : Tab Party) (f : Thread → Thread) : State :=
  { dev with
    ctxs := [(3, { saving := true })], parties := ps, threads := [(0, f { thr0 with level := .user, ctx := 3 })], ev := .ctx 3
    mem := words64 [(0x180, 1)] }
def partyOf3 (held : Bool) : Party := { ctx := 3, rid := 0, size := 1, live := 1, cls := 0, keys := [(0, 0)], held := held }
theorem wit_ContextEvents_save :
    (∀ s ∈ [{ saving [] id with threads := [] }], s.ev = .ctx 3 ∧ (s.ctx 3).saving = true ∧ s.parties = [] ∧ s.regions = [] ∧ s.spindles = []) ∧
    (∀ s ∈ [saving [(1, partyOf3 false)] (fun t => { t with run := .access })], s.partiesOf 3 = [(1, partyOf3 false)] ∧
      s.party? 1 = some (partyOf3 false) ∧ s.regionsOf 3 = [] ∧ s.partySavable 1 (partyOf3 false) = false) ∧
    (∀ s ∈ [saving [(1, partyOf3 true)] id], s.partiesOf 3 = [(1, partyOf3 true)] ∧ s.party? 1 = some (partyOf3 true) ∧
      (partyOf3 true).held = true ∧ (partyOf3 true).swap = .running) ∧
    (saving [] id).faultedAt 3 (saving [] id).ctxarg = none := by
  refine ⟨?_, ?_, ?_, ?_⟩ <;> decide +kernel
/-- A faulted frame whose cut record holds one token for node 1, and its caller. -/
def faulted (c : Caller) : State :=
  { ofFrm (ofReg (graph 0x01 (gnode 1 0 false 0) []) (fun r => { r with ctx := some 0 })) (fun f => { f with st := .faulted, caller := c, f := some 0x7800 }) with
    ctxarg := 0x8000, ev := .ctx 0, mem := words64 [(0x8000, 0x100000000), (0x8010, 0x0000000905000820), (0x8020, 77), (0x8028, 1)]
    threads := [(0, { thr0 with ops := [7], awaits := [(10, .op 7)] })] }
theorem wit_ContextEvents_faulted : ∀ c ∈ ([.record 0, .thread 7] : List Caller), let s := faulted c
    let r := s.region 0
    let f := r.frame 0
    let a := (s.sequencer 0).actWrite 0 0 0x7800 0x7810 0x0000000900050810
    s.ev = .ctx 0 ∧ s.faultedAt 0 s.ctxarg = some (.inl 0, 0) ∧ r.nodes ≠ [] ∧ fld (s.prd8 0x8000) 47 32 = 1 ∧
    tokBad r (f.tag 0) (s.prd8 0x8020) (s.prd8 0x8028) = false ∧ s.cutRead f.cut.toNat = [⟨77, 0, 0, 1, 0, 256⟩] ∧ f.tag 0 = 0 ∧
    r.here 1 = true ∧ (r.node 1).map (fun p => dataPorts p.1 p.2) = some [(0, 0), (1, 0)] ∧ f.caller = c ∧ f.f = some 0x7800 ∧
    a = .ok () (after a) ∧ (s.prd8 (f.cut.toNat + 16)) = 0x0000000905000820 ∧ ((after a).opThread 7).map (·.1) = some (.inl 0) := by
  intro c h
  refine ⟨?_, ?_, ?_, ?_, ?_, ?_, ?_, ?_, ?_, ?_, ?_, doneOf _ ?_, ?_, ?_⟩ <;> revert c <;> decide +kernel
theorem wit_ContextEvents_freeze : ∀ b ∈ [false, true],
    let s := { dev with threads := [], ctxs := [(3, { frozen := b })], ev := .freeze 3 0xF 1, mem := if b then [] else words64 [(0x180, 1)] }
    s.ev = .freeze 3 0xF 1 ∧ s.isFrozen 3 = b ∧ tbit s.ctxcmd 63 = false ∧ s.threads = [] ∧ s.spindles = [] ∧ s.clusters = [] ∧ s.regions = [] ∧
    (s.ctx 3).plyBlocks = [] ∧ ∀ j, j < 8 → s.place (s.descAddr 3 0 + j) = .mem (0x180 + j) := by decide +kernel
/-- An import rule that gives device 2, context 1, every permission on the first 64 KiB. -/
def imports : Tab Word := [(0, 0xF000000000800001), (2, 0xFFFF)]
def incoming (op : RemoteOp) (ok : Bool) : State :=
  { dev with ev := .utsen { dev := 2, ctx := 1, off := 0x7000, op := op }, uimport := if ok then imports else [], empties := if op = .feLoad true then [0x7000] else [] }
theorem wit_LinkEvents_requests : ∀ e ∈ ([(.read 8, 8, 62), (.write [1, 2], 2, 61), (.cas2 1 2 3 4, 16, 60), (.feLoad false, 8, 60),
      (.feLoad true, 8, 60), (.pop, 0, 0)] : List (RemoteOp × Nat × Nat)), let s := incoming e.1 true
    let w (k : Nat) : Word := s.uimport.getD 0 k
    tbit (w 0) 63 = true ∧ fld (w 0) 31 22 = 2 ∧ fld (w 0) 11 0 = 1 ∧ (w 1).toNat ≤ 0x7000 ∧ 0x7000 + e.2.1 ≤ (w 2).toNat + 1 ∧
    (e.1 ≠ .pop → tbit (w 0) e.2.2 = true) ∧ tbit ((incoming e.1 false).uimport.getD 0 0) 63 = false ∧ s.inStacks 0x7000 = true ∧
    s.isPoisoned 0x7000 (opSize e.1) = false ∧ (s.cluster (s.home 0x7000)).waits = [] := by decide +kernel
theorem wit_LinkEvents_ports :
    (∀ s ∈ [{ having (fun t => { t with run := .remote 9 }) with remotes := [farRead], ev := .unit 0, devnum := some 1, uport := [(0, 1)] }],
      s.ev = .unit 0 ∧ s.devnum ≠ none ∧ s.boot.recovery = false ∧ s.remotes = [farRead] ∧ farRead.port = some 0 ∧
      farRead.waiter = .thread 0 1 ∧ (s.thread 0).run = .remote farRead.id) ∧ dev.devnum = none ∧ dev.remotes = [] ∧
    (∀ n ∈ [0, 16], let s := { dev with ev := .pair 3 1, uport := [(3, 1)], uportFails := [(3, n)] }
      tbit (s.uport.getD 0 3) 0 = true ∧ s.remotes = [] ∧ s.uportFails.getD 0 3 + 1 = n + 1) ∧
    (∀ s ∈ [{ launched (oneThread 0x8000) [] with launches := [(5, { serial := 5, words := [], ctx := 0, cls := 0, die := 0 })], ev := .pair 5 2 }],
      (Tab.find 5 s.launches).isSome = true) := by refine ⟨?_, ?_, ?_, ?_, ?_⟩ <;> decide +kernel
theorem wit_LinkEvents_host :
    (∀ a ∈ ([⟨true, 0x7038, [1, 2, 3, 4, 5, 6, 7, 8], 8⟩, ⟨false, 0x7000, [], 64⟩] : List HostAccess), a.off < 0x10000000 ∧
      (a.write = true → a.off % 64 + a.data.length ≤ 64) ∧ (a.write = false → a.off % 64 + a.len ≤ 64)) ∧
    (∀ b ∈ [false, true], let s := { dev with biascmd := if b then 0x8000000000010002 else 0x8000000000000002 }
      s.flipRuns 2 b = true ∧ s.flipRuns 2 (!b) = false ∧ s.hostModified = []) ∧
    (∀ s ∈ [{ having (fun t => { t with run := .page flipEntry }) with
        biascmd := 0x8000000000000002, flipWaits := [.thread 0 1], ev := .unit 2 }], s.flipRuns 2 false = true ∧
      s.flipWaits = [.thread 0 1] ∧ (s.thread 0).party = 1 ∧ (s.thread 0).run = .page flipEntry ∧ s.boot.recovery = false) ∧
    (∀ s ∈ [{ dev with boot := { recovery := true }, ev := .regWrite 0xF000000000 1 }], s.boot.recovery = true ∧ s.inStacks 0xF000000000 = false) ∧
    (∀ o ∈ [0xE000000000, 0xE000000008, 0xE000000010, 0xF000000000, 0xF000010000, 0xD000010000 + 8 * 575], dev.inStacks o = false) ∧
    (∀ saved ∈ [false, true], let s := { dev with mem := words64 [(0x180, 1)], ctxs := [(3, { saved := saved })] }
      s.inStacks 0xE000000000 = false ∧ tbit s.ctxcmd 63 = false ∧ (s.ctx 3).saved = saved ∧
      State.isFrozen { s with ctxcmd := 0x3003 } 3 = false ∧ [0x1003, 0x2003, 0x3003, 0x4003, 0x5003].all (fun v =>
        BitVec.ofNat 12 (fld v 11 0) == 3 && State.ctxActive { s with ctxcmd := v } 3) = true ∧ s.ctxActive 5 = false) := by
  refine ⟨?_, ?_, ?_, ?_, ?_, ?_⟩ <;> decide +kernel
/-- A host page with one record posted at slot 0. -/
def posted : State := { dev with boot := { booted := true }, hcpage := 1, mem := words64 [(0, 1)] }
theorem wit_LinkEvents_record : posted.hcServed = true ∧ posted.rd8 posted.hcBase ≠ posted.rd8 (posted.hcBase + 8) ∧
    (posted.launchTake 0 (BitVec.ofNat 64 (posted.hcBase + 256)) (posted.rdWords (posted.hcBase + 256) 32)).isSome = true ∧ dev.hcServed = false := by
  refine ⟨?_, ?_, ?_, ?_⟩ <;> decide +kernel
/-- Whether an image passes the boot checks rests on functions the model leaves free (log entry 7): one too short does not. -/
theorem wit_PlatformEvents :
    (∀ s ∈ [{ dev with threads := [] }], s.boot.done = false ∧ s.threads = [] ∧ s.imgOk false s.boot.flash = false ∧
      s.imgOk false s.boot.doe = false ∧ s.imgOk true [] = false) ∧
    (∀ s ∈ [{ dev with boot := { done := true } }], s.boot.done = true ∧ s.boot.recovery = false) ∧
    dev.quietCluster 0 = false ∧ dev.quietCluster 5 = true ∧ (List.replicate 32 (0 : Byte)).length = 32 ∧ dev.boot.trained = false ∧
    (List.replicate 48 (0 : Byte)).length = 48 := by refine ⟨?_, ?_, ?_, ?_, ?_, ?_, ?_⟩ <;> decide +kernel
theorem wit_PlatformEvents_link : ∀ s ∈ [{ dev with
      supPorts := 1, ev := .unit 0
      dies := [(0, { reqs := [{ id := 9, entry := 0x300000, ctx := 0, va := 0x10000, pte := 0, reading := true }]
                     evicts := [{ id := 8, slot := 1, entry := 0x310000, saved := 0, va := 0, ctx := 0 }] })] }],
    (s.dies.all (fun d => d.2.reqs.all (fun q => q.reading && fld (s.bdWord q.pte 2) 35 32 == 0) &&
      d.2.evicts.all (fun e => fld (s.bdWord e.saved 2) 35 32 == 0))) = true := by decide +kernel

/-! The step. -/

/-- The repetition device with no repetition, whose next move is the thread's slot; the word after the addi is a V-parcel, or not. -/
def slotNext (v : Nat) : State :=
  { having id with agenda := [.issue 0], mem := words32 [(0x200000, 0x00728313), (0x200004, v)] }
theorem wit_StepRunsDecoded_issue : ∀ e ∈ [(0x00000013, true), (0x04208402, false)], let s := slotNext e.1
    let v : State := { s with agenda := [], cur := 0 }
    let w := v.onThr (fun t => { t with rot := t.rot + 1 })
    let x := left w.fetchGroup w
    let ps := [0x00728313, BitVec.ofNat 32 e.1]
    let y := x.onThr (fun t => { t with len := BitVec.ofNat 64 (groupLen ps), resumed := false, flight := { parcels := ps } })
    s.agenda = [.issue 0] ∧ v.thr.run = .rotating ∧ v.thr.beats = 0 ∧ v.thr.flying = false ∧ v.thr.flight.reached = [] ∧ v.probing = false ∧ (v.mustStop v.thr = true ∧ v.thr.fresh = true ↔ False) ∧
    v.thr.repeating = false ∧ w.fetchGroup = .ok ps x ∧ decodeParcels ps = some (.addi 6 5 7) ∧
    (groupPartner (.addi 6 5 7) ps).isNone = e.2 ∧ (Instr.addi 6 5 7).wf = true ∧ (Instr.vadd vaddArgs).wf = true ∧
    decodeV 0x04208402 = some (.vadd vaddArgs) ∧
    y.Ready (5 :: (if vaddArgs.s then [vaddArgs.vs2] else [])) [6] (vregs vaddArgs.vs1 vaddArgs.grp.n ++
      (if vaddArgs.s then [] else vregs vaddArgs.vs2 vaddArgs.grp.n) ++ vregs vaddArgs.vd vaddArgs.grp.n) ∧
    v.thr.level = .monitor ∧ (∀ j, j < 3 → fld (v.thr.pc + BitVec.ofNat 64 (4 * j)) 63 52 = 0 ∧
      v.place (v.thr.pc + BitVec.ofNat 64 (4 * j)).toNat = .mem (0x200000 + 4 * j)) ∧ v.isPoisoned 0x200000 12 = false := by
  intro e h
  refine ⟨?_, ?_, ?_, ?_, ?_, ?_, ?_, ?_, okOf _ _ _ ?_, ?_, ?_, ?_, ?_, ?_, ready _ _ _ _ ?_, ?_⟩ <;>
    simp only [List.mem_cons, List.not_mem_nil, or_false] at h <;> rcases h with rfl | rfl <;> decide +kernel
theorem wit_StepRunsDecoded_moves :
    (∀ e ∈ [(0, true), (3, true), (9, false)], let s := { graph 0x01 (gnode 1 0 false 0) words with agenda := [.fire 0 e.1 0] }
      s.agenda = [.fire 0 e.1 0] ∧ (((s.region 0).nodes[e.1]?).bind decodeNode).isSome = e.2) ∧
    (∀ e ∈ ([(0x108, true), (0x1FF, false)] : List (Nat × Bool)), let s := { cmdDev 0 [BitVec.ofNat 64 e.1, 0, 0, 0, 0, 0] .queued with agenda := [.command 0 0 0] }
      s.agenda = [.command 0 0 0] ∧ (s.spindle 0).head 0 0 = some (cmdOf [BitVec.ofNat 64 e.1, 0, 0, 0, 0, 0] .queued) ∧
      (decodeCommand 0 (cmdOf [BitVec.ofNat 64 e.1, 0, 0, 0, 0, 0] .queued).line).isSome = e.2 ∧ State.cmdReady { s with agenda := [] } 0 0 0 = true) ∧
    (State.reset.agenda = [.event .powerOnReset .nil]) ∧ dev.agenda = [] := by refine ⟨?_, ?_, ?_, ?_⟩ <;> decide +kernel
theorem wit_StepKeepsMemoryCanonical : dev.memOk ∧ ∃ t, step dev = .next t := by
  refine ⟨?_, ?_⟩
  · show dev.mem.wf = true
    decide +kernel
  · exact ⟨_, rfl⟩
theorem wit_EncodingRoundTrip : (Instr.addi 6 5 0x123456789).wf = true ∧ (encode (.addi 6 5 0x123456789)).length = 2 ∧
    (opT (.addi 6 5 7)).isSome = true ∧ encodeNode (.nodeAdd (gnode 1 0 true 7)) = some 0x01013FF100000007 ∧
    decodeNode 0x0100 = none ∧ (encodeCommand (.plyZero ⟨1, 0, 0, 1, 0, 0, 0, 0, 0, 0, 0⟩)).isSome = true := by decide

/-! Single steps whose results the spec's worked examples give. -/

/-- R105, R107: addi through the fetch; the word stands where step reads it. -/
theorem test_step_addi : (match step (State.reset.withFetchWord 32 0xFFF00293) with
    | .next t => (t.thread 0).rx 5 == 0xFFFFFFFFFFFFFFFF && (t.thread 0).pc == 0x100004
    | _ => false) = true := by decide +kernel
/-- R109, R105: addi with an X-parcel. -/
theorem test_step_extended : (match step (State.reset.withFetchWord 64 0x1000000500200593) with
    | .next t => (t.thread 0).rx 11 == 0x0000004000001002 && (t.thread 0).pc == 0x100008
    | _ => false) = true := by decide +kernel
/-- R41, R44: a user-level sysrd of SDELEG raises T-PRIV, which MDELEG gives to the supervisor. -/
theorem test_sysrd_privilege : let t := run (.sysrd 9 0x406) { paged .user id with stvec := 0x300000 }
    t.thr.level = .supervisor ∧ t.thr.pc = 0x300000 ∧ t.thr.rx 9 = 1 ∧ t.thr.sepc = 0x200000 := by decide +kernel
/-- R126: the frame that callx writes. -/
theorem test_callx_frame : let t := run (.callx 1 18) (featured (having (fun t => { t with
      pc := 0x4000002010, x := [(2, 0x1000007E80), (8, 0x1000007F00), (10, 5), (18, 0x4000020001)] })))
    t.rd8 0x1000007E80 = 0x4000002014 ∧ t.rd8 0x1000007E88 = 0x1000007F00 ∧ t.rd8 0x1000007E90 = 0xF ∧ t.rd8 0x1000007E98 = 0 ∧
    t.rd8 0x1000007EA0 = 5 ∧ t.rd8 0x1000007EE0 = 0 ∧ t.rd8 0x1000007EF8 = 0 ∧ t.thr.rx 1 = 0x4000002014 ∧
    [10, 11, 12, 13].all (fun r => t.thr.isEmpty r) = true := by decide +kernel
/-- R172: (a − b)² + c on f32 elements. -/
theorem test_vx_chain : let t := run (.vx ⟨false, 0, 5, 2, 1, 9, .g1⟩) (having (fun t => { t with
      k := [(5, 0x80000000_0603C090)], v := [(1, 0x40400000), (2, 0x3F800000), (9, 0x3F000000)] }))
    elem 32 (t.thr.rv 9).toNat 0 = 0x40900000 ∧ t.thr.fflags = 0 := by decide +kernel
/-- R198: amo.add of 2 to 40. -/
theorem test_amo_add : let t := run (.amoAdd 10 11 18 4 1 true) { having (fun t => { t with x := [(11, 2), (18, 0x8000)] }) with mem := [(0x8000, 40#8)] }
    t.rd8 0x8000 = 42 ∧ t.thr.rx 10 = 40 := by decide +kernel
/-- R198: amo.cas2 that matches, and one whose high half does not. -/
theorem test_amo_cas2 : let s (h : Word) := { having (fun t => { t with x := [(18, 0x8000), (16, 40), (17, h), (28, 7), (29, 8)] }) with mem := [(0x8000, 40#8)] }
    (run (.amoCas2 16 28 18 5 0) (s 0)).rd8 0x8008 = 8 ∧ (run (.amoCas2 16 28 18 5 0) (s 1)).rd8 0x8008 = 0 := by decide +kernel
/-- R210: C is 8 and OCAP 4; the ring holds 1 to 8, the overflow area 9 and 10: a pop. -/
def overflown (head ocount : Nat) : State :=
  { having (fun t => { t with x := [(7, 11)], strands := [(24, 0x9000)] }) with
    mem := words64 ((upto 8).map (fun i => (0x7000 + 8 * i, i + 1)) ++ (upto 4).map (fun i => (0x7100 + 8 * i, [9, 10, 0, 0].getD i 0)) ++
      [(0x9000, 0x7000), (0x9008, 3), (0x9010, head), (0x9018, 8 + head), (0x9020, 0x7100), (0x9028, 4), (0x9030, ocount * 2 ^ 32 + head)]) }
theorem test_strand_pop : let t := run (.addi 9 24 0) (overflown 0 2)
    t.thr.rx 9 = 1 ∧ t.rd8 0x9010 = 1 ∧ t.rd8 0x9018 = 9 ∧ t.rd8 0x9030 = 0x100000001 ∧ t.rd8 0x7000 = 9 := by decide +kernel
/-- R210: the push of 11 goes to overflow slot 2. -/
theorem test_strand_push : let t := run (.addi 24 7 0) (overflown 1 1)
    t.rd8 0x9030 = 0x200000001 ∧ t.rd8 0x7110 = 11 ∧ t.rd8 0x9018 = 9 := by decide +kernel
/-- R244: the bit-plane command leaves 8, and with eight planes 5. -/
def bitPlanes (planes : Word) : State :=
  let c : Cmd := { cmdOf [0x00010104 + planes * 0x1000000, 0, 0x00400100, 0x1000, 0x02000B02, 0x0001000208000000] .running with fmt := 0x40000 }
  { featured (paged .supervisor id) with
    curCmd := (0, 0, 0)
    spindles := [(0, { queue := [(0, [c])], tiles := [0], plyslot := [0x8000, 0, 0, 0], ua := [(49152, 1#8), (49153, 2#8), (53248, 1#8), (53376, 1#8),
      (53380, 1#8), (53440, 1#8), (53508, 1#8), (53568, 1#8), (53696, 1#8)] })] }
theorem test_bit_planes : ∀ e ∈ ([(4, 0x4020000000000000), (8, 0x4014000000000000)] : List (Nat × Nat)),
    let s := bitPlanes (BitVec.ofNat 64 e.1)
    (got ((match ((s.spindle 0).head 0 0).bind (fun c => decodeCommand 0 c.line) with
      | some i => exec i
      | none => .next) s)).acc 0 0 0 0 0 = BitVec.ofNat 64 e.2 := by decide +kernel

end Sys2Proof.Tests
end

section
/-! SUPPORT. What the decoders read: a group's first parcel by its kind (R76, R88), the command windows by their tables of
opcodes (R104), and the words that the spec's worked encodings write out. -/

namespace Sys2Proof.Proofs
open Sys2Proof Sys2Proof.Machine Sys2Proof.Laws

/-! The kinds of a parcel. -/

theorem isV_eq_false_of_isA {p : BitVec 32} (h : isA p = true) : isV p = false := by
  have kind : pbits p 0 2 = 3 := by simpa [isA] using h
  simp [isV, kind]

theorem decodeParcels_of_isV {p : BitVec 32} {i : Instr} (h : isV p = true) (hi : decodeV p = some i) :
    decodeParcels [p] = some i := by
  simp [decodeParcels, h, hi]

theorem decodeParcels_of_isA {p : BitVec 32} {i : Instr} (h : isA p = true) (hi : decodeA p none = some i) :
    decodeParcels [p] = some i := by
  simp [decodeParcels, h, isV_eq_false_of_isA h, hi]

theorem decodeParcels_of_isX {a b : BitVec 32} {i : Instr} (ha : isA a = true) (hb : isX b = true)
    (accepts : acceptsX a = true) (hi : decodeA a (some (xPart b)) = some i) : decodeParcels [a, b] = some i := by
  simp [decodeParcels, ha, hb, accepts, isV_eq_false_of_isA ha, hi]

/-! The command windows. -/

/-- R104: the opcodes of a Ply window and the commands of a line with these fields. -/
def plyCommands (c : CmdLine) : List (Nat × Instr) :=
  [(0x01, .plyZero c), (0x02, .plyMma c), (0x03, .plyMmaMx c), (0x04, .plyMmaBp c), (0x05, .plyLdacc c),
    (0x06, .plyStacc c), (0x07, .plyTr c), (0x08, .plySync c)]

/-- R104: the opcodes of a near-bank window and the commands of a line with these fields. -/
def nbmCommands (c : CmdLine) : List (Nat × Instr) := [(0x21, .nbmGemv c), (0x22, .nbmGemvBp c), (0x28, .nbmSync c)]

/-- The command that a table gives an opcode: a code that it does not list is reserved (R104). -/
def commandOf (table : List (Nat × Instr)) (opc : Nat) : Option Instr :=
  (table.find? (fun e => e.1 == opc)).map (·.2)

theorem commandOf_eq_none {table : List (Nat × Instr)} {opc : Nat} (h : ∀ e ∈ table, opc ≠ e.1) :
    commandOf table opc = none := by
  have unlisted : ∀ e ∈ table, ¬(e.1 == opc) = true := fun e he => by simpa using (h e he).symm
  simp [commandOf, List.find?_eq_none.mpr unlisted]

theorem decodeCommand_ply (ws : List Word) :
    decodeCommand 0 ws = commandOf (plyCommands (lineFields ws)) (fld (ws.getD 0 0) 7 0) := by
  rw [fld_eq]
  unfold decodeCommand
  generalize ((ws.getD 0 0).extractLsb' 0 8).toNat = opc
  split
  case h_9 | h_10 | h_11 => contradiction
  case h_12 => exact (commandOf_eq_none (by simp_all [plyCommands])).symm
  all_goals rfl

theorem decodeCommand_nbm (ws : List Word) :
    decodeCommand 1 ws = commandOf (nbmCommands (lineFields ws)) (fld (ws.getD 0 0) 7 0) := by
  rw [fld_eq]
  unfold decodeCommand
  generalize ((ws.getD 0 0).extractLsb' 0 8).toNat = opc
  split
  case h_9 | h_10 | h_11 => rfl
  case h_12 => exact (commandOf_eq_none (by simp_all [nbmCommands])).symm
  all_goals contradiction

/-- Settles O58: each worked word by its kind and its fields, the windows' opcodes for every line. -/
theorem decodeSpecWords : Obligations.DecodeSpecWords := by
  unfold Obligations.DecodeSpecWords
  intro d v noConsumer n
  have ofA {p i} : isA p = true → decodeA p none = some i → d p i := decodeParcels_of_isA
  have ofV {p i} : isV p = true → decodeV p = some i → d p i := decodeParcels_of_isV
  have extended := @decodeParcels_of_isX
  exact ⟨extended rfl rfl rfl rfl, extended rfl rfl rfl rfl,
    -- ld.fe, callx, callat, amo, cpy, stash.map and rep
    ofA rfl rfl, ofA rfl rfl, ofA rfl rfl, ofA rfl rfl, ofA rfl rfl, ofA rfl rfl, ofA rfl rfl, ofA rfl rfl, ofA rfl rfl,
    ofA rfl rfl,
    -- rep.stop, halt, yield, tret, brk, sysrd and bar
    ofA rfl rfl, ofA rfl rfl, ofA rfl rfl, ofA rfl rfl, ofA rfl rfl, ofA rfl rfl, ofA rfl rfl,
    -- the V-parcels
    ofV rfl rfl, ofV rfl rfl, ofV rfl rfl, ofV rfl rfl, ofV rfl rfl,
    -- the node words, and the line of the worked bit-plane command
    rfl, rfl, rfl, rfl, rfl, rfl, rfl, rfl,
    fun ws => ⟨decodeCommand_ply ws, decodeCommand_nbm ws⟩⟩

end Sys2Proof.Proofs
end

section
/-! SUPPORT. Products, quotients and remainders: the integers by which the model computes them (R115, R116), as operations of
bit vectors; and the shared form of the instructions that give them. -/

namespace Sys2Proof.Proofs
open Sys2Proof Sys2Proof.Machine Sys2Proof.Laws

/-! The upper half of a product. -/

theorem highMul_eq_extractLsb' (i : Int) : highMul i = (BitVec.ofInt 128 i).extractLsb' 64 64 := by
  apply BitVec.eq_of_toNat_eq
  simp only [highMul, BitVec.extractLsb'_toNat, BitVec.toNat_ofInt, Nat.shiftRight_eq_div_pow]
  omega

/-- Extending both factors to 128 bits by their own signs loses nothing of the product's upper half. -/
theorem highMul_mul {i j : Int} {a b : BitVec 128} (ha : BitVec.ofInt 128 i = a) (hb : BitVec.ofInt 128 j = b) :
    highMul (i * j) = (a * b).extractLsb' 64 64 := by
  rw [highMul_eq_extractLsb', BitVec.ofInt_mul, ha, hb]

theorem ofInt_toInt_eq_signExtend (a : Word) : BitVec.ofInt 128 a.toInt = a.signExtend 128 := rfl

theorem ofInt_toNat_eq_setWidth (a : Word) : BitVec.ofInt 128 a.toNat = a.setWidth 128 := by
  rw [BitVec.ofInt_natCast, BitVec.ofNat_toNat]

/-! Quotients and remainders of any width. -/

section
variable {w : Nat} (a b : BitVec w)

theorem quotS_eq_sdiv : quotS a b = if b = 0 then -1 else a.sdiv b := by
  have quotient : BitVec.ofInt w (a.toInt.tdiv b.toInt) = a.sdiv b := by
    apply BitVec.eq_of_toInt_eq
    rw [BitVec.toInt_ofInt, BitVec.toInt_sdiv]
  rw [quotS, quotient, ← BitVec.neg_one_eq_allOnes]
  rfl

theorem remS_eq_srem : remS a b = if b = 0 then a else a.srem b := by
  rw [remS, ← BitVec.toInt_srem, BitVec.ofInt_toInt]

theorem quotU_eq_div : quotU a b = if b = 0 then -1 else a / b := by
  rw [quotU, ← BitVec.udiv_def, ← BitVec.neg_one_eq_allOnes]
  rfl

theorem remU_eq_mod : remU a b = if b = 0 then a else a % b := by
  rw [remU, ← BitVec.umod_def]

end

/-! The instructions. -/

/-- An instruction of two sources gives what its function makes of them. -/
theorem exec_binOp {s : State} {rd rs1 rs2 : Reg} {i : Instr} {f : Word → Word → Word} {v : Word}
    (h : s.Ready [rs1, rs2] [rd] []) (hi : opT i = some (binOp rd rs1 rs2 f)) (hv : f (s.thr.rx rs1) (s.thr.rx rs2) = v) :
    exec i s = .next (s.finish [(rd, v)] s.nextPc) := by
  rw [exec_opT hi, issue_binOp h, hv]

/-- A 32-bit form sign-extends the 32-bit result (R115). -/
theorem w32_eq {f : BitVec 32 → BitVec 32 → BitVec 32} {a b : Word} {v : BitVec 32}
    (h : f (a.setWidth 32) (b.setWidth 32) = v) : w32 f a b = v.signExtend 64 := congrArg _ h

/-- Settles O3: each result is that of the bit vectors, the divisor 0 apart. -/
theorem mulDivResults : Obligations.MulDivResults := by
  unfold Obligations.MulDivResults
  intro s rd rs1 rs2 h x y x' y' gives
  have ofOp {i f v} : opT i = some (binOp rd rs1 rs2 f) → f x y = v → gives i v := exec_binOp h
  have signed := ofInt_toInt_eq_signExtend
  have unsigned := ofInt_toNat_eq_setWidth
  exact ⟨
    -- mul, mulh, mulhsn and mulhn
    ofOp rfl rfl, ofOp rfl (highMul_mul (signed x) (signed y)), ofOp rfl (highMul_mul (signed x) (unsigned y)),
    ofOp rfl (highMul_mul (unsigned x) (unsigned y)),
    -- div, divn, rem and remn
    ofOp rfl (quotS_eq_sdiv x y), ofOp rfl (quotU_eq_div x y), ofOp rfl (remS_eq_srem x y), ofOp rfl (remU_eq_mod x y),
    -- mulw, divw, divnw, remw and remnw
    ofOp rfl rfl, ofOp rfl (w32_eq (quotS_eq_sdiv x' y')), ofOp rfl (w32_eq (quotU_eq_div x' y')),
    ofOp rfl (w32_eq (remS_eq_srem x' y')), ofOp rfl (w32_eq (remU_eq_mod x' y'))⟩

end Sys2Proof.Proofs
end

section
/-! SUPPORT. How a transfer of control ends (R118), what a return from a trap takes of the level it leaves (R146, R402), and the
words and results of tret, brk and trap. -/

namespace Sys2Proof.Proofs
open Sys2Proof Sys2Proof.Machine Sys2Proof.Laws

/-! Transfers. -/

/-- The checks of R118 ahead of a group's effect: it traps at the first that fails, and has its effect when none does. -/
theorem conclude_targetCheck {s u : State} {op : TOp} {lvl : Level} {t : Word} {rest : Unit → State → Acc Out} {o : Out}
    (p : s.AtStart) (r : op.go s = (Acc.check (targetCheck lvl t) s).bind rest) (k : rest () s = .ok o u)
    (p' : u.passed = false) (free : ∀ w ∈ o.ws, u.thr.strand w.1 = none) (run : u.thr.run ≠ .access) :
    s.conclude op = s.transfer lvl t none (op.post (u.finish o.ws (o.target.getD s.nextPc) op.beats)) := by
  unfold State.transfer
  split
  case isTrue page =>
    exact conclude_trap p (by rw [r, targetCheck, if_pos page]; rfl)
  case isFalse noPage =>
    split
    case isTrue perm =>
      exact conclude_trap p (by rw [r, targetCheck, if_neg noPage, if_pos perm]; rfl)
    case isFalse noPerm =>
      exact conclude_ok p (by rw [r, targetCheck, if_neg noPage, if_neg noPerm, check_none, bind_ok, k]) p' free run

/-! tret. -/

@[simp] theorem flight_leave (t : Thread) (new : Level) : (t.leave new).flight = t.flight := by
  unfold Thread.leave; cases t.level <;> rfl
@[simp] theorem run_leave (t : Thread) (new : Level) : (t.leave new).run = t.run := by
  unfold Thread.leave; cases t.level <;> rfl

/-- A change of the thread whose turn it is counts by what it makes of that thread alone. -/
theorem onThr_eq_of_thr {s : State} {f g : Thread → Thread} (h : f s.thr = g s.thr) : s.onThr f = s.onThr g := by
  rw [State.onThr, h]; rfl

theorem go_tret {s : State} (h : s.Ready [] [] []) : opTret.go s = opTret.run [] s := go_ready rfl h rfl

theorem exec_tret_of_error {s : State} {c : Cause} (h : s.Ready [] [] []) (r : s.thr.returnTo = .error c) :
    exec .tret s = .next (s.trapped c) := by
  have traps : opTret.go s = .trap c := by rw [go_tret h, opTret]; simp only [r]
  rw [exec_opT rfl, issueOp_next, conclude_trap h.toAtStart traps]

/-- A return whose saved level is in order is a transfer at that level to the pc saved. -/
theorem exec_tret_of_ok {s : State} {new : Level} {t : Word} {f : Thread → Thread} (h : s.Ready [] [] [])
    (r : s.thr.returnTo = .ok (new, t)) (leaves : s.thr.leave new = f s.thr) :
    exec .tret s = .next (s.transfer new t none ((s.onThr f).finish [] (t &&& ~~~3))) := by
  have checks : opTret.go s = (Acc.check (targetCheck new t) s).bind (fun _ s =>
      .ok { target := some (t &&& ~~~3) } (s.onThr (fun t => t.leave new))) := by rw [go_tret h, opTret]; simp only [r]
  have fresh : (s.onThr (fun t => t.leave new)).passed = false := by simpa [State.passed] using passed_start h.toAtStart
  rw [exec_opT rfl, issueOp_next, conclude_targetCheck h.toAtStart checks rfl fresh nofun (by simp [h.rotating]),
    onThr_eq_of_thr leaves]
  rfl

/-! What each level saved and what leaving it clears. -/

section
variable {t : Thread} {n : Nat}

theorem returnTo_user (l : t.level = .user) : t.returnTo = .ok (.user, t.uepc) := by
  rw [Thread.returnTo, l]

theorem returnTo_supervisor (l : t.level = .supervisor) (saved : t.sstatus.toNat % 4 = n) (listed : n ≤ 1) :
    t.returnTo = .ok (levelOf n, t.sepc) := by
  simp [Thread.returnTo, l, saved, listed]

theorem returnTo_supervisor_reserved (l : t.level = .supervisor) (reserved : 2 ≤ t.sstatus.toNat % 4) :
    t.returnTo = .error (tIll 0) := by
  simp [Thread.returnTo, l, Nat.not_le.mpr reserved]

theorem returnTo_monitor (l : t.level = .monitor) (saved : t.mstatus.toNat % 4 = n) (listed : n ≠ 2) :
    t.returnTo = .ok (levelOf n, t.mepc) := by
  simp [Thread.returnTo, l, saved, listed]

theorem returnTo_monitor_reserved (l : t.level = .monitor) (reserved : t.mstatus.toNat % 4 = 2) :
    t.returnTo = .error (tIll 0) := by
  simp [Thread.returnTo, l, reserved]

theorem leave_user (l : t.level = .user) (new : Level) :
    t.leave new = { t with uact := false, level := new, rep := { t.rep with susp := t.rep.susp - 1 } } := by
  rw [Thread.leave, l]

theorem leave_supervisor (l : t.level = .supervisor) (new : Level) :
    t.leave new = { t with sstatus := t.sstatus &&& 3, level := new, rep := { t.rep with susp := t.rep.susp - 1 } } := by
  rw [Thread.leave, l]

theorem leave_monitor (l : t.level = .monitor) (new : Level) :
    t.leave new = { t with mstatus := t.mstatus &&& 3, level := new, rep := { t.rep with susp := t.rep.susp - 1 } } := by
  rw [Thread.leave, l]

end

/-! brk and trap. -/

theorem exec_brk {s : State} (h : s.Ready [] [] []) : exec .brk s = .next (s.trapped ⟨11, 0, 0, false, 0⟩) := by
  have traps : opBrk.go s = .trap ⟨11, 0, 0, false, 0⟩ := go_ready rfl h rfl
  rw [exec_opT rfl, issueOp_next, conclude_trap h.toAtStart traps]

/-- trap ends its group first, and the pc that it saves is that of the next (R144). -/
theorem exec_trap {s : State} (code : BitVec 12) (h : s.Ready [] [] []) :
    exec (.trap code) s = .next ((s.finish [] s.nextPc).takeTrap ⟨10, 0x80, code.toNat, false, 0⟩ s.nextPc true) := by
  have ends : (opTrap code).go s = .ok {} s := go_ready rfl h rfl
  have pc : (s.finish [] s.nextPc).thr.pc = s.nextPc := by simp [State.finish]
  rw [exec_opT rfl, issueOp_next, conclude_ok h.toAtStart ends (passed_start h.toAtStart) nofun (by simp [h.rotating])]
  show Host.Outcome.next ((s.finish [] s.nextPc).takeTrap _ (s.finish [] s.nextPc).thr.pc true) = _
  rw [pc]

/-- Settles O5: a return by the level it leaves and the level that stands saved there. -/
theorem trapsAndReturns : Obligations.TrapsAndReturns := by
  unfold Obligations.TrapsAndReturns
  refine ⟨decodeParcels_of_isA rfl rfl, decodeParcels_of_isA rfl rfl, ?tret, fun s code h => ⟨exec_brk h, exec_trap code h⟩⟩
  case tret =>
    intro s h th go
    refine ⟨fun user => ?_, fun supervisor => ?_, fun monitor => ?_⟩
    · exact exec_tret_of_ok h (returnTo_user user) (leave_user user .user)
    · have goes {n} (saved : th.sstatus.toNat % 4 = n) (listed : n ≤ 1) :
          go (levelOf n) th.sepc (fun u => { u with sstatus := u.sstatus &&& 3 }) :=
        exec_tret_of_ok h (returnTo_supervisor supervisor saved listed) (leave_supervisor supervisor _)
      exact ⟨fun saved => goes saved (by decide), fun saved => goes saved (by decide),
        fun reserved => exec_tret_of_error h (returnTo_supervisor_reserved supervisor reserved)⟩
    · have goes {n} (saved : th.mstatus.toNat % 4 = n) (listed : n ≠ 2) :
          go (levelOf n) th.mepc (fun u => { u with mstatus := u.mstatus &&& 3 }) :=
        exec_tret_of_ok h (returnTo_monitor monitor saved listed) (leave_monitor monitor _)
      exact ⟨fun saved => goes saved (by decide), fun saved => goes saved (by decide),
        fun reserved => exec_tret_of_error h (returnTo_monitor_reserved monitor reserved),
        fun saved => goes saved (by decide)⟩

end Sys2Proof.Proofs
end
